-- ==== Sys2Proof/Word.lean ====
section
/-!
DEFINITION. The bit-vector words of the machine (R4): bytes, 64-bit words, 512-bit rows.
-/

namespace Sys2Proof

/-- A byte (R4). -/
abbrev Byte := BitVec 8

/-- A 64-bit dword: a general register, a fat pointer, a CSR image (R4, Table 1.4). -/
abbrev Word := BitVec 64

/-- A 512-bit vector register or a 64-byte port row (R14, R20). -/
abbrev Row := BitVec 512

end Sys2Proof
end

