-- ==== Sys2Proof/Syntax.lean ====
section
/-!
DEFINITION. The instruction set as syntax: one constructor of `Instr` per row of the opcode table.
C-words, A-words and tile instructions carry their encoded fields (R67, R70, R73); the rows that are
operations and events (a packet, a flit, a timer, an engine step) carry what arrives from outside the tile.
-/

namespace Sys2Proof

/-- A guard (R67, R70, R73): N and the predicate it names. -/
structure Guard where
  neg  : BitVec 1
  pred : BitVec 3
  deriving DecidableEq, Repr

/-- An immediate field of `n` bits, or the lone literal that replaces it (R69). -/
inductive Imm (n : Nat) where
  | fld  (v : BitVec n)
  | lone (v : BitVec 32)
  deriving DecidableEq, Repr

/-- The access sizes of LD, ST, atomics and remote accesses (R105, R176). -/
inductive AccessSize where
  | b1 | b2 | b4 | b8
  deriving DecidableEq, Repr

/-- What another agent does at a home (R214): a load, a store, or an atomic of Table 7.3. -/
inductive RemoteOp where
  | load
  | store (value : Word) (rlv : BitVec 3)
  | atomic (op : BitVec 3) (operand cmp : Word) (rlv : BitVec 3)
  deriving DecidableEq, Repr

/-- What a remote answer timeout of R383 falls on. -/
inductive RemoteKind where
  | access
  | posted (idx : Nat)
  | ldqRow (port : BitVec 3)
  | stqRow (port : BitVec 2)
  | copy (idx : Nat)
  | message (idx : Nat)
  /-- The write-back of a line of another package's vault. -/
  | line (addr : Nat)
  /-- A COPY of the hub, by its queue and index. -/
  | packet (queue : BitVec 10) (idx : BitVec 32)
  deriving DecidableEq, Repr

/-- A stored word that can hold a soft error (R296): a dword of an SPM or a vault, a dword of the
tile's L1, or a column word of the weight buffer. -/
inductive ErrorPlace where
  | memory (dword : Nat)
  | cache (dword : Nat)
  | weight (bank : BitVec 1) (slot : BitVec 7) (col : BitVec 3)
  deriving DecidableEq, Repr

/-- A write of a register of BAR 0: whether the host makes it or firmware, and its value (R380, R381). -/
structure BarWrite where
  host  : Bool
  value : Word
  deriving DecidableEq, Repr

/-- The fields a JOIN carries (R338). -/
structure JoinFields where
  group   : BitVec 12
  writers : BitVec 4
  planes  : BitVec 5
  sfmt    : BitVec 5
  op      : BitVec 3
  dfmt    : BitVec 5
  count   : BitVec 32
  deriving DecidableEq, Repr

/-- A wavelength and the frame from which a change of it is effective (R337). -/
structure WaveChange where
  wave  : BitVec 3
  frame : BitVec 48
  deriving DecidableEq, Repr

/-- A retrained wavelength: its launch delay, and WLIM and ACKLAG of the segment (R332). -/
structure Retraining where
  wave   : BitVec 3
  delay  : BitVec 8
  wlim   : BitVec 4
  acklag : BitVec 4
  deriving DecidableEq, Repr

/-- The operations of the opcode table. -/
inductive Instr where
  /-- NOP (R66). No operation in the access half. -/
  | nop (g : Guard)
  /-- HALT (R173). Waits for outstanding work, takes held failures, then halts both halves and signals the strip controller. -/
  | halt (g : Guard)
  /-- TRAP (R172). Completes the bundle and then traps SOFTWARE with the code in EVAL. -/
  | trap (g : Guard) (c : BitVec 15)
  /-- TRET (R37). Returns from the supervisor handler to the workspace at EWP, switching tile-local state when the CXB differs. -/
  | tret (g : Guard)
  /-- EBRK (R172). Traps BREAK before the bundle takes effect, with the code in EVAL. -/
  | ebrk (g : Guard) (c : BitVec 15)
  /-- WPSW (R174). Writes back the shadow file, switches WP to ga and writes the old WP into gd of the new workspace. -/
  | wpsw (g : Guard) (d a : BitVec 5)
  /-- YIELD (R172). In task mode completes the bundle and traps PREEMPT with EVAL 1. -/
  | yield (g : Guard)
  /-- CSRR (R175). Reads a CSR into gd. -/
  | csrr (g : Guard) (d : BitVec 5) (c : BitVec 10)
  /-- CSRW (R175). Writes ga to a CSR and returns the old value. -/
  | csrw (g : Guard) (d a : BitVec 5) (c : BitVec 10)
  /-- CSRS (R175). Sets the RW bits of a CSR given by ga and returns the old value. -/
  | csrs (g : Guard) (d a : BitVec 5) (c : BitVec 10)
  /-- CSRC (R175). Clears the RW bits of a CSR given by ga and returns the old value. -/
  | csrc (g : Guard) (d a : BitVec 5) (c : BitVec 10)
  /-- ADD (R90). gd := ga + gb modulo 2^64. -/
  | add (g : Guard) (d a b : BitVec 5)
  /-- SUB (R90). gd := ga - gb. -/
  | sub (g : Guard) (d a b : BitVec 5)
  /-- AND (R90). gd := ga AND gb. -/
  | and (g : Guard) (d a b : BitVec 5)
  /-- OR (R90). gd := ga OR gb. -/
  | or (g : Guard) (d a b : BitVec 5)
  /-- XOR (R90). gd := ga XOR gb. -/
  | xor (g : Guard) (d a b : BitVec 5)
  /-- ANDN (R90). gd := ga AND NOT gb. -/
  | andn (g : Guard) (d a b : BitVec 5)
  /-- SHL (R90). gd := ga shifted left by gb[5:0]. -/
  | shl (g : Guard) (d a b : BitVec 5)
  /-- SHR (R90). Logical right shift of ga by gb[5:0]. -/
  | shr (g : Guard) (d a b : BitVec 5)
  /-- SRA (R90). Arithmetic right shift of ga by gb[5:0]. -/
  | sra (g : Guard) (d a b : BitVec 5)
  /-- ROL (R90). Rotates ga left by gb[5:0]. -/
  | rol (g : Guard) (d a b : BitVec 5)
  /-- MUL (R90). Low 64 bits of ga times gb. -/
  | mul (g : Guard) (d a b : BitVec 5)
  /-- MULH (R90). High 64 bits of the signed 128-bit product. -/
  | mulh (g : Guard) (d a b : BitVec 5)
  /-- MULHU (R90). High 64 bits of the unsigned 128-bit product. -/
  | mulhu (g : Guard) (d a b : BitVec 5)
  /-- DIV (R91). Signed quotient truncated towards zero. -/
  | div (g : Guard) (d a b : BitVec 5)
  /-- DIVU (R91). Unsigned quotient. -/
  | divu (g : Guard) (d a b : BitVec 5)
  /-- REM (R91). Signed remainder. -/
  | rem (g : Guard) (d a b : BitVec 5)
  /-- REMU (R91). Unsigned remainder. -/
  | remu (g : Guard) (d a b : BitVec 5)
  /-- MIN (R90). Signed minimum of ga and gb. -/
  | min (g : Guard) (d a b : BitVec 5)
  /-- MAX (R90). Signed maximum of ga and gb. -/
  | max (g : Guard) (d a b : BitVec 5)
  /-- MINU (R90). Unsigned minimum. -/
  | minu (g : Guard) (d a b : BitVec 5)
  /-- MAXU (R90). Unsigned maximum. -/
  | maxu (g : Guard) (d a b : BitVec 5)
  /-- SLT (R90). gd := 1 when ga < gb signed, else 0. -/
  | slt (g : Guard) (d a b : BitVec 5)
  /-- SLTU (R90). gd := 1 when ga < gb unsigned, else 0. -/
  | sltu (g : Guard) (d a b : BitVec 5)
  /-- CLZ (R90). Counts leading zero bits of ga. -/
  | clz (g : Guard) (d a : BitVec 5)
  /-- CTZ (R90). Counts trailing zero bits of ga. -/
  | ctz (g : Guard) (d a : BitVec 5)
  /-- POPC (R90). Counts one bits of ga. -/
  | popc (g : Guard) (d a : BitVec 5)
  /-- ADDI (R92). gd := ga + sign-extended immediate. -/
  | addi (g : Guard) (d a : BitVec 5) (i : Imm 10)
  /-- ANDI (R92). gd := ga AND immediate. -/
  | andi (g : Guard) (d a : BitVec 5) (i : Imm 10)
  /-- ORI (R92). gd := ga OR immediate. -/
  | ori (g : Guard) (d a : BitVec 5) (i : Imm 10)
  /-- XORI (R92). gd := ga XOR immediate. -/
  | xori (g : Guard) (d a : BitVec 5) (i : Imm 10)
  /-- SHLI (R92). Shifts ga left by an immediate amount. -/
  | shli (g : Guard) (d a : BitVec 5) (s : BitVec 6)
  /-- SHRI (R92). Logical right shift by an immediate amount. -/
  | shri (g : Guard) (d a : BitVec 5) (s : BitVec 6)
  /-- SRAI (R92). Arithmetic right shift by an immediate amount. -/
  | srai (g : Guard) (d a : BitVec 5) (s : BitVec 6)
  /-- ROLI (R92). Rotates ga left by an immediate amount. -/
  | roli (g : Guard) (d a : BitVec 5) (s : BitVec 6)
  /-- SLTI (R92). gd := 1 when ga is less than the signed immediate. -/
  | slti (g : Guard) (d a : BitVec 5) (i : Imm 10)
  /-- LDI (R92). Loads a sign-extended immediate into gd. -/
  | ldi (g : Guard) (d : BitVec 5) (i : Imm 15)
  /-- LDIH (R92). Writes gd[63:32] from the immediate and keeps gd[31:0]. -/
  | ldih (g : Guard) (d : BitVec 5) (i : Imm 15)
  /-- PSET (R93). Writes a p predicate from a comparison of ga with gb or a literal. -/
  | pset (g : Guard) (d : BitVec 3) (a : BitVec 5) (b : Imm 5) (c : BitVec 3)
  /-- PLOG_AND (R94). pd := pa AND pb. -/
  | plogAnd (g : Guard) (d a b : BitVec 3)
  /-- PLOG_OR (R94). pd := pa OR pb. -/
  | plogOr (g : Guard) (d a b : BitVec 3)
  /-- PLOG_XOR (R94). pd := pa XOR pb. -/
  | plogXor (g : Guard) (d a b : BitVec 3)
  /-- PLOG_ANDN (R94). pd := pa AND NOT pb. -/
  | plogAndn (g : Guard) (d a b : BitVec 3)
  /-- PLOG_NOT (R94). pd := NOT pa. -/
  | plogNot (g : Guard) (d a : BitVec 3)
  /-- BR (R95). Unconditional branch by a 20-bit displacement. -/
  | br (g : Guard) (i : Imm 20)
  /-- CALL (R95). Writes the return address to g31 and branches. -/
  | call (g : Guard) (i : Imm 20)
  /-- JMPR (R96). Jumps to ga and writes the return address to gd. -/
  | jmpr (g : Guard) (d a : BitVec 5)
  /-- BEQ (R95). Branches when ga equals gb. -/
  | beq (g : Guard) (a b : BitVec 5) (i : Imm 10)
  /-- BNE (R95). Branches when ga differs from gb. -/
  | bne (g : Guard) (a b : BitVec 5) (i : Imm 10)
  /-- BLT (R95). Branches when ga < gb signed. -/
  | blt (g : Guard) (a b : BitVec 5) (i : Imm 10)
  /-- BGE (R95). Branches when ga >= gb signed. -/
  | bge (g : Guard) (a b : BitVec 5) (i : Imm 10)
  /-- BLTU (R95). Branches when ga < gb unsigned. -/
  | bltu (g : Guard) (a b : BitVec 5) (i : Imm 10)
  /-- BGEU (R95). Branches when ga >= gb unsigned. -/
  | bgeu (g : Guard) (a b : BitVec 5) (i : Imm 10)
  /-- BP (R95). Branches on a p predicate, optionally inverted. -/
  | bp (g : Guard) (m : BitVec 1) (q : BitVec 3) (i : Imm 16)
  /-- LOOP (R97). Starts a counted loop over the following bundles, or skips the body for a zero count. -/
  | loop (g : Guard) (a : BitVec 5) (l : Imm 15)
  /-- RPT (R99). Passes a repeat marker so that the next n A-words are captured and reissued with staggered registers. -/
  | rpt (g : Guard) (k : BitVec 4) (c : BitVec 8) (s : BitVec 4)
  /-- REPEAT_MARKER (R100). The execute half opens a capture from a repeat marker and reissues the captured A-words. -/
  | repeatMarker
  /-- LD (R105). Loads 1, 2, 4 or 8 bytes into gd with sign or zero extension. -/
  | ld (g : Guard) (d a : BitVec 5) (z : BitVec 3) (i : Imm 7)
  /-- ST (R105). Stores the low 1, 2, 4 or 8 bytes of gs. -/
  | st (g : Guard) (s a : BitVec 5) (z : BitVec 3) (i : Imm 7)
  /-- LDQ (R107). Checks and queues a load of up to 128 rows into an in port. -/
  | ldq (g : Guard) (k : BitVec 3) (r : BitVec 7) (a b : BitVec 5)
  /-- STQ (R107). Checks and queues a store of up to 128 rows from an out port. -/
  | stq (g : Guard) (k : BitVec 3) (r : BitVec 7) (a b : BitVec 5)
  /-- AADD (R176). Atomic add at the target, returning the old value. -/
  | aadd (g : Guard) (d a b : BitVec 5) (w : BitVec 1)
  /-- AMIN (R176). Atomic signed minimum. -/
  | amin (g : Guard) (d a b : BitVec 5) (w : BitVec 1)
  /-- AMAX (R176). Atomic signed maximum. -/
  | amax (g : Guard) (d a b : BitVec 5) (w : BitVec 1)
  /-- AAND (R176). Atomic AND. -/
  | aand (g : Guard) (d a b : BitVec 5) (w : BitVec 1)
  /-- AOR (R176). Atomic OR. -/
  | aor (g : Guard) (d a b : BitVec 5) (w : BitVec 1)
  /-- AXOR (R176). Atomic XOR. -/
  | axor (g : Guard) (d a b : BitVec 5) (w : BitVec 1)
  /-- ASWP (R176). Atomic swap. -/
  | aswp (g : Guard) (d a b : BitVec 5) (w : BitVec 1)
  /-- ACAS (R176). Atomic compare-and-swap against gd. -/
  | acas (g : Guard) (d a b : BitVec 5) (w : BitVec 1)
  /-- FREL (R178). Release fence at a scope, waiting for earlier accesses and write-back. -/
  | frel (g : Guard) (s : BitVec 3)
  /-- FACQ (R178). Acquire fence at a scope, invalidating clean non-own-vault L1 bytes. -/
  | facq (g : Guard) (s : BitVec 3)
  /-- FSEQ (R178). Release then acquire, ordering later loads after earlier stores. -/
  | fseq (g : Guard) (s : BitVec 3)
  /-- TXB (R179). Opens a bounded transaction with a fallback target. -/
  | txb (g : Guard) (d : BitVec 5) (disp : BitVec 32)
  /-- TXC (R183). Commits the open transaction at a scope as one group. -/
  | txc (g : Guard) (s : BitVec 3)
  /-- TXA (R183). Aborts the open transaction with cause 6 and a code. -/
  | txa (g : Guard) (c : BitVec 8)
  /-- TX_CONFLICT (R180). Another agent's conflicting access to a reserved line aborts the transaction. -/
  | txConflict (line : Word) (isLoad : Bool)
  /-- COORD (R103). Builds an absolute mesh pointer to the executing tile. -/
  | coord (g : Guard) (d a : BitVec 5)
  /-- MKADDR (R103). Builds a mesh pointer from a coordinate and an offset. -/
  | mkaddr (g : Guard) (d a b : BitVec 5)
  /-- ADDP (R89). Pointer addition that keeps FMT and BLG and poisons on a kind change. -/
  | addp (g : Guard) (d a : BitVec 5) (b : Imm 5)
  /-- FMTSET (R103). Sets FMT and BLG of a pointer. -/
  | fmtset (g : Guard) (d a : BitVec 5) (b : Imm 5)
  /-- ABSADDR (R104). Resolves a coordinate-relative pointer to an absolute one. -/
  | absaddr (g : Guard) (d a : BitVec 5)
  /-- BIND (R113). Binds a port to a kind and source as an ordered port operation. -/
  | bind (g : Guard) (k t s : BitVec 5)
  /-- UNBIND (R114). Unbinds a port, discarding entries and cancelling rows. -/
  | unbind (g : Guard) (k : BitVec 5)
  /-- PDROP (R113). The execute half pops count entries of an in port. -/
  | pdrop (g : Guard) (k c : BitVec 5)
  /-- PLVL (R113). Reads a port's binding word and level into gd. -/
  | plvl (g : Guard) (d k : BitVec 5)
  /-- MOVX (R115). Queues a one-row load carrying ga to an in port. -/
  | movx (g : Guard) (k a : BitVec 5)
  /-- MOVG (R115). Takes bytes 0-7 of the next store-queue entry into gd. -/
  | movg (g : Guard) (d k : BitVec 5)
  /-- ORDERED_OP_EXECUTE (R114). The execute half performs a passed ordered operation (port binding change, PDROP, CSR write or WPSW) in its program order. -/
  | orderedOpExecute
  /-- RSET (R116). Sets a ring handle register, checking the descriptor when valid. -/
  | rset (g : Guard) (a : BitVec 5) (c : BitVec 4)
  /-- WFILL (R116). Waits for space and claims the next producer entry of a ring. -/
  | wfill (g : Guard) (d : BitVec 5) (c : BitVec 4)
  /-- WFREE (R116). Frees one ring entry. -/
  | wfree (g : Guard) (c : BitVec 4)
  /-- PUB (R116). Publishes one ring entry. -/
  | pub (g : Guard) (c : BitVec 4)
  /-- CONS (R116). Waits for data and claims the next consumer entry of a ring. -/
  | cons (g : Guard) (d : BitVec 5) (c : BitVec 4)
  /-- EPUSH (R185). Pushes a 32-byte command record to an engine after releasing earlier stores. -/
  | epush (g : Guard) (a : BitVec 5) (e : BitVec 3)
  /-- EPOP (R186). Pops one engine result element into gd, waiting unless NW. -/
  | epop (g : Guard) (d : BitVec 5) (w : BitVec 1) (e : BitVec 3)
  /-- CPY (R187). Queues a bulk copy on engine 0. -/
  | cpy (g : Guard) (c a b : BitVec 5)
  /-- MBW (R190). Writes a message-build register from ga. -/
  | mbw (g : Guard) (m : BitVec 3) (a : BitVec 5)
  /-- SEND (R190). Sends a message or deposit when an allowance is free. -/
  | send (g : Guard) (d : BitVec 3) (a b : BitVec 5)
  /-- RECV (R194). Pops the oldest inbox word into gd, or 0 when empty. -/
  | recv (g : Guard) (d : BitVec 5)
  /-- WAITM (R195). Clears the arrival flag or sleeps until it is set. -/
  | waitm (g : Guard)
  /-- MSTAT (R196). Returns a snapshot of inbox and allowance state. -/
  | mstat (g : Guard) (d : BitVec 5)
  /-- SSTEP (R197). Ends a superstep's compute phase: joins the barrier, runs the exchange and waits for release. -/
  | sstep (g : Guard) (e : BitVec 1) (a b : BitVec 5)
  /-- BARJ (R199). Joins a counting barrier in memory and waits for its generation to change. -/
  | barj (g : Guard) (d a b : BitVec 5)
  /-- WAITE (R200). Waits until a named engine result FIFO holds an element. -/
  | waite (g : Guard) (d : BitVec 5) (m : BitVec 3)
  /-- SLEEP (R201). Sleeps until an arrival, an engine result or a CYCLE limit. -/
  | sleep (g : Guard) (d a : BitVec 5)
  /-- TSPAWN (R203). Releases and appends a task record to a task queue. -/
  | tspawn (g : Guard) (d a b : BitVec 5)
  /-- TJOIN (R203). Releases and atomically adds to a join counter. -/
  | tjoin (g : Guard) (d a b : BitVec 5)
  /-- TDONE (R204). Ends the running task, decrements the join and may push its continuation. -/
  | tdone (g : Guard) (a : BitVec 5)
  /-- SPRL (R205). Requests a sprint lease for the strip and waits for the answer. -/
  | sprl (g : Guard) (d a b : BitVec 5)
  /-- SPRX (R206). Ends the strip's active lease early when this context holds it. -/
  | sprx (g : Guard) (d a : BitVec 5)
  /-- SWRB (R207). Pushes a Sweut sum collective descriptor to engine 1. -/
  | swrb (g : Guard) (a : BitVec 5)
  /-- SWMX (R207). Pushes a Sweut max-agreement descriptor to engine 1. -/
  | swmx (g : Guard) (a : BitVec 5)
  /-- GANG (R209). Joins a gang of 2, 4 or 8 tiles once every member has issued it. -/
  | gang (g : Guard) (c : BitVec 2)
  /-- UNGANG (R210). Disbands the gang; members resume their own fetch. -/
  | ungang (g : Guard)
  /-- ANOP (R66). Execute-half no operation that still counts as an issue. -/
  | anop (g : Guard)
  /-- VADD (R123). Lane-wise integer add. -/
  | vadd (g : Guard) (d a b : BitVec 5) (t : BitVec 3)
  /-- VSUB (R123). Lane-wise integer subtract. -/
  | vsub (g : Guard) (d a b : BitVec 5) (t : BitVec 3)
  /-- VMUL (R123). Lane-wise low product. -/
  | vmul (g : Guard) (d a b : BitVec 5) (t : BitVec 3)
  /-- VMULH (R123). Lane-wise high signed product. -/
  | vmulh (g : Guard) (d a b : BitVec 5) (t : BitVec 3)
  /-- VMIN (R123). Lane-wise signed minimum. -/
  | vmin (g : Guard) (d a b : BitVec 5) (t : BitVec 3)
  /-- VMAX (R123). Lane-wise signed maximum. -/
  | vmax (g : Guard) (d a b : BitVec 5) (t : BitVec 3)
  /-- VAND (R123). Lane-wise AND. -/
  | vand (g : Guard) (d a b : BitVec 5) (t : BitVec 3)
  /-- VOR (R123). Lane-wise OR. -/
  | vor (g : Guard) (d a b : BitVec 5) (t : BitVec 3)
  /-- VXOR (R123). Lane-wise XOR. -/
  | vxor (g : Guard) (d a b : BitVec 5) (t : BitVec 3)
  /-- VSHL (R123). Lane-wise shift left. -/
  | vshl (g : Guard) (d a b : BitVec 5) (t : BitVec 3)
  /-- VSHR (R123). Lane-wise logical shift right. -/
  | vshr (g : Guard) (d a b : BitVec 5) (t : BitVec 3)
  /-- VSRA (R123). Lane-wise arithmetic shift right. -/
  | vsra (g : Guard) (d a b : BitVec 5) (t : BitVec 3)
  /-- VABS (R123). Lane-wise absolute value. -/
  | vabs (g : Guard) (d a : BitVec 5) (t : BitVec 3)
  /-- VNEG (R123). Lane-wise negation. -/
  | vneg (g : Guard) (d a : BitVec 5) (t : BitVec 3)
  /-- VADDS (R123). Lane-wise saturating add. -/
  | vadds (g : Guard) (d a b : BitVec 5) (t : BitVec 3)
  /-- VSUBS (R123). Lane-wise saturating subtract. -/
  | vsubs (g : Guard) (d a b : BitVec 5) (t : BitVec 3)
  /-- FADD (R124). Lane-wise floating-point add. -/
  | fadd (g : Guard) (d a b : BitVec 5) (t : BitVec 3)
  /-- FSUB (R124). Lane-wise floating-point subtract. -/
  | fsub (g : Guard) (d a b : BitVec 5) (t : BitVec 3)
  /-- FMUL (R124). Lane-wise floating-point multiply. -/
  | fmul (g : Guard) (d a b : BitVec 5) (t : BitVec 3)
  /-- FMIN (R125). Lane-wise floating-point minimum. -/
  | fmin (g : Guard) (d a b : BitVec 5) (t : BitVec 3)
  /-- FMAX (R125). Lane-wise floating-point maximum. -/
  | fmax (g : Guard) (d a b : BitVec 5) (t : BitVec 3)
  /-- FABS (R125). Clears the sign of each lane. -/
  | fabs (g : Guard) (d a : BitVec 5) (t : BitVec 3)
  /-- FNEG (R125). Inverts the sign of each lane. -/
  | fneg (g : Guard) (d a : BitVec 5) (t : BitVec 3)
  /-- FFMA (R124). Fused multiply-add into vd with one rounding. -/
  | ffma (g : Guard) (d a b : BitVec 5) (t : BitVec 3)
  /-- VCMP_EQ (R126). Lane mask of a = b. -/
  | vcmpEq (g : Guard) (d a b : BitVec 5) (t : BitVec 3)
  /-- VCMP_NE (R126). Lane mask of a != b. -/
  | vcmpNe (g : Guard) (d a b : BitVec 5) (t : BitVec 3)
  /-- VCMP_LT (R126). Lane mask of a < b. -/
  | vcmpLt (g : Guard) (d a b : BitVec 5) (t : BitVec 3)
  /-- VCMP_LE (R126). Lane mask of a <= b. -/
  | vcmpLe (g : Guard) (d a b : BitVec 5) (t : BitVec 3)
  /-- VCMP_GT (R126). Lane mask of a > b. -/
  | vcmpGt (g : Guard) (d a b : BitVec 5) (t : BitVec 3)
  /-- VCMP_GE (R126). Lane mask of a >= b. -/
  | vcmpGe (g : Guard) (d a b : BitVec 5) (t : BitVec 3)
  /-- VCMP_ORD (R126). Lane mask of neither being NaN. -/
  | vcmpOrd (g : Guard) (d a b : BitVec 5) (t : BitVec 3)
  /-- VCMP_UNO (R126). Lane mask of either being NaN. -/
  | vcmpUno (g : Guard) (d a b : BitVec 5) (t : BitVec 3)
  /-- VTEST_ANY (R126). Sets qd when any lane is non-zero. -/
  | vtestAny (g : Guard) (c : BitVec 3) (a : BitVec 5) (t : BitVec 3)
  /-- VTEST_ALL (R126). Sets qd when every lane is non-zero. -/
  | vtestAll (g : Guard) (c : BitVec 3) (a : BitVec 5) (t : BitVec 3)
  /-- VSEL (R126). Bitwise select of va and vb under the mask in vd. -/
  | vsel (g : Guard) (d a b : BitVec 5)
  /-- FRCP (R127). FP32 reciprocal rounded RNE. -/
  | frcp (g : Guard) (d a : BitVec 5) (t : BitVec 3)
  /-- FRSQ (R127). FP32 reciprocal square root. -/
  | frsq (g : Guard) (d a : BitVec 5) (t : BitVec 3)
  /-- FSQRT (R127). FP32 square root. -/
  | fsqrt (g : Guard) (d a : BitVec 5) (t : BitVec 3)
  /-- FEXP2 (R127). FP32 base-2 exponential. -/
  | fexp2 (g : Guard) (d a : BitVec 5) (t : BitVec 3)
  /-- FLOG2 (R127). FP32 base-2 logarithm. -/
  | flog2 (g : Guard) (d a : BitVec 5) (t : BitVec 3)
  /-- FTANH (R127). FP32 hyperbolic tangent. -/
  | ftanh (g : Guard) (d a : BitVec 5) (t : BitVec 3)
  /-- VCVT (R128). Converts lanes between element types. -/
  | vcvt (g : Guard) (d a : BitVec 5) (r : BitVec 2) (s t : BitVec 3)
  /-- VQNT (R129). Quantises one block of 32 elements into memory form. -/
  | vqnt (g : Guard) (d a k : BitVec 5) (t : BitVec 3)
  /-- VDQ (R130). Decodes one block record into lanes. -/
  | vdq (g : Guard) (d a k : BitVec 5) (t : BitVec 3)
  /-- VPACK (R130). Packs the low halves of va and vb into vd. -/
  | vpack (g : Guard) (d a b : BitVec 5)
  /-- VUNPK (R130). Moves one half of va into the low half of vd. -/
  | vunpk (g : Guard) (d a h : BitVec 5)
  /-- VRSUM (R131). Fixed-tree sum of the lanes into lane 0. -/
  | vrsum (g : Guard) (d a : BitVec 5) (t : BitVec 3)
  /-- VRMAX (R131). Fixed-tree maximum of the lanes. -/
  | vrmax (g : Guard) (d a : BitVec 5) (t : BitVec 3)
  /-- VRMIN (R131). Fixed-tree minimum of the lanes. -/
  | vrmin (g : Guard) (d a : BitVec 5) (t : BitVec 3)
  /-- VTOPK (R132). Ranks 16 lanes by key, tag and position. -/
  | vtopk (g : Guard) (d a b : BitVec 5) (t : BitVec 3)
  /-- VSHUF (R133). Gathers lanes of va by indices in vb. -/
  | vshuf (g : Guard) (d a b : BitVec 5) (t : BitVec 3)
  /-- VBCST (R133). Broadcasts one lane of va. -/
  | vbcst (g : Guard) (d a l : BitVec 5) (t : BitVec 3)
  /-- VSLIDE (R133). Slides lanes of old vd followed by va. -/
  | vslide (g : Guard) (d a k : BitVec 5) (t : BitVec 3)
  /-- VIDX (R133). Writes lane 0 of va plus the lane number. -/
  | vidx (g : Guard) (d a : BitVec 5) (t : BitVec 3)
  /-- VRNG (R134). Fills 16 i32 lanes with MJX output words. -/
  | vrng (g : Guard) (d a : BitVec 5) (w : BitVec 2) (t : BitVec 3)
  /-- VMOV (R135). Copies a 64-byte row between registers and ports. -/
  | vmov (g : Guard) (d a : BitVec 5)
  /-- MLDB (R144). Pops 8 entries of an in port into a weight-bank slot, optionally expanding 2-of-4 sparsity. -/
  | mldb (g : Guard) (b : BitVec 1) (s : BitVec 7) (c : BitVec 1) (k : BitVec 3)
  /-- MSWP (R146). Toggles or selects the active weight bank. -/
  | mswp (g : Guard) (o : BitVec 2)
  /-- MMA (R147). Pops AROWS A rows and accumulates them against a bank slot into an accumulator. -/
  | mma (g : Guard) (a : BitVec 4) (v : BitVec 1) (s : BitVec 7) (k : BitVec 3)
  /-- MACZ (R148). Zeroes the accumulators named by a mask. -/
  | macz (g : Guard) (m : BitVec 16)
  /-- MRD (R149). Reads half of an accumulator into vd, optionally clearing it. -/
  | mrd (g : Guard) (d : BitVec 5) (j : BitVec 4) (h c : BitVec 1)
  /-- MCFG (R141). Checks and writes the matrix configuration image, returning the old one. -/
  | mcfg (g : Guard) (d a : BitVec 5)
  /-- TSHAPE (R159). Requests a working shape and sets the level's grant. -/
  | tshape (g : Guard) (param : BitVec 32)
  /-- TBIND (R160). Loads or copies a checked handle into a handle register. -/
  | tbind (g : Guard) (hd ha mode : BitVec 4) (param : BitVec 32)
  /-- TMMA (R161). Tensor D := scale times (C + A·B) with fixed K order. -/
  | tmma (g : Guard) (hd ha hb hc mode : BitVec 4) (param : BitVec 32)
  /-- TMM (R161). Tensor D := scale times A·B. -/
  | tmm (g : Guard) (hd ha hb mode : BitVec 4) (param : BitVec 32)
  /-- TEW (R162). Element-wise tensor operation or scaling with broadcast. -/
  | tew (g : Guard) (hd ha hb mode : BitVec 4) (param : BitVec 32)
  /-- TCVT (R163). Converts a tensor with scaling and companding. -/
  | tcvt (g : Guard) (hd ha mode : BitVec 4) (param : BitVec 32)
  /-- TRED (R164). Reduces a tensor along one dimension. -/
  | tred (g : Guard) (hd ha mode : BitVec 4) (param : BitVec 32)
  /-- TTOPK (R165). Selects ranked elements along dimension 0. -/
  | ttopk (g : Guard) (hd ha hc mode : BitVec 4) (param : BitVec 32)
  /-- TCOPY (R166). Copies tensor element codes. -/
  | tcopy (g : Guard) (hd ha : BitVec 4) (param : BitVec 32)
  /-- TFILL (R166). Fills a tensor with a value. -/
  | tfill (g : Guard) (hd mode : BitVec 4) (param : BitVec 32)
  /-- TTRANS (R166). Exchanges two dimensions of a tensor. -/
  | ttrans (g : Guard) (hd ha mode : BitVec 4) (param : BitVec 32)
  /-- TDROP (R168). Applies seeded dropout to a tensor. -/
  | tdrop (g : Guard) (hd ha hc mode : BitVec 4) (param : BitVec 32)
  /-- TSYNC (R167). Waits for queued tile instructions and makes their outputs visible at a scope. -/
  | tsync (g : Guard) (mode : BitVec 4) (param : BitVec 32)
  /-- TSYNC_DROP (R167). In supervisor mode discards a held tile-instruction report and its faulted instruction. -/
  | tsyncDrop (g : Guard) (param : BitVec 32)
  /-- TCOLL (R169). Runs a Sweut collective on tensors and commits D. -/
  | tcoll (g : Guard) (hd ha mode : BitVec 4) (param : BitVec 32)
  /-- TILE_INSN_START (R154). The sequencer starts the head tile instruction, reads handles and applies the start checks. -/
  | tileInsnStart
  /-- TILE_INSN_COMMIT (R155). A tile instruction commits its outputs as one group or faults and stops the sequencer. -/
  | tileInsnCommit
  /-- CHILD_COMPLETE (R254). A child unit reports commit of its part of an instruction to its parent level. -/
  | childComplete (ctx level : Nat) (coord : BitVec 24)
  /-- CHILD_FAULT_REPORT (R265). A unit's fault reaches its parent controller, which logs a record and applies the containment policy.
  `child` is the CHILD that the spec leaves open for a TCOLL. -/
  | childFaultReport (ctx level : Nat) (coord : BitVec 24) (cause : BitVec 8) (value : Word) (child kdone : BitVec 32)
  /-- LDQ_ROW_DELIVER (R109). Engine 0 reads one queued row and delivers it to its in port when the port has room. -/
  | ldqRowDeliver (port : BitVec 3)
  /-- STQ_ROW_WRITE (R109). Engine 0 pops one row from an out port and writes it. -/
  | stqRowWrite (port : BitVec 2)
  /-- COPY_STREAM_ROW (R187). A copy stream delivers one 64-byte row to its bound in port. -/
  | copyStreamRow (ch : BitVec 3)
  /-- COPY_COMPLETE (R188). A copy command completes or ends early, pushing or holding its result. -/
  | copyComplete (idx : Nat)
  /-- REMOTE_ACCESS (R214). A remote load, store or atomic arrives at its home and is performed there. -/
  | remoteAccess (agent : BitVec 24) (op : RemoteOp) (addr : Word) (size : AccessSize)
  /-- REMOTE_ANSWER (R88). The answer to a remote load or atomic reaches the issuing tile and completes it. -/
  | remoteAnswer (ok : Bool)
  /-- POSTED_STORE_REJECT (R88). A target's rejection of a posted store arrives and is held for the next reporting point. -/
  | postedStoreReject (idx : Nat)
  /-- REMOTE_TIMEOUT (R383). A remote access, row, copy or message is not answered within RTMO.MS and fails. -/
  | remoteTimeout (what : RemoteKind)
  /-- MESSAGE_ARRIVAL (R189). A message lands whole in the destination inbox or spill region and sets the arrival flag. -/
  | messageArrival (sender : BitVec 24) (tag : BitVec 27) (data : List Word)
  /-- DEPOSIT_ARRIVAL (R192). A deposit lands in the target register or is redirected to the inbox. -/
  | depositArrival (sender : BitVec 24) (tag : BitVec 27) (dreg : BitVec 5) (value : Word)
  /-- ALLOWANCE_RETURN (R191). Acceptance of a sent message returns one send allowance. -/
  | allowanceReturn
  /-- SCOPE_MISS_MESSAGE (R228). A scope-miss message reaches the writing tile and is held as a pending SCOPE_MISS. -/
  | scopeMissMessage (line : Word) (tsc rq : BitVec 3)
  /-- L1_EVICTION (R215). The L1 evicts a line, writing its dirty bytes home. -/
  | l1Eviction (line : Nat)
  /-- PAGE_WALK_COMPLETE (R288). A die walker finishes a page walk and the waiting access proceeds or faults. -/
  | pageWalkComplete
  /-- SCRUB_READ (R299). A background scrub reads and corrects stored words. -/
  | scrubRead (where_ : ErrorPlace)
  /-- PREEMPT_REQUEST (R241). A PREEMPT from the front end reaches a tile and is held pending. -/
  | preemptRequest
  /-- ASYNC_TRAP (R236). At a bundle boundary in task mode the tile takes the first eligible pending asynchronous cause. -/
  | asyncTrap
  /-- SNAPAT_MATCH (R247). At the CYCLE tick equal to SNAPAT the tile latches its snapshot and raises BREAK. -/
  | snapatMatch
  /-- ALL_ASLEEP_DETECT (R248). Every tile of a context asleep with no packets in flight raises ALL_ASLEEP. -/
  | allAsleepDetect (ctx : Nat)
  /-- CONTEXT_LOAD (R242). After the save completes, the incoming context's tile-local state is read and its spill region applied. -/
  | contextLoad
  /-- SAVE_TIMEOUT (R249). The 2 ms save timer expires; the save is abandoned and the context killed. -/
  | saveTimeout
  /-- CUT_REQUEST (R246). The step-boundary cut gathers STEP answers and sets the stop superstep K. -/
  | cutRequest (ctx : Nat) (answers : List Nat)
  /-- COMPUTE_BARRIER_COMPLETE (R197). Once every tile has joined, the copy engines run the exchange records. -/
  | computeBarrierComplete (ctx : Nat)
  /-- EXCHANGE_LANDED (R197). Every exchange record of every tile has landed and the front end declares release. -/
  | exchangeLanded (ctx : Nat)
  /-- BARRIER_RELEASE (R325). A barrier release with its CYCLE value is sent down the tree and sleeping tiles are woken. -/
  | barrierRelease (ctx : Nat) (cycle : Word)
  /-- STAGGER_EXPIRE (R197). CYCLE reaches a tile's release value and its SSTEP ends. -/
  | staggerExpire
  /-- NOTIFY (R306). A write of a queue's notify register announces ready packets or stops the queue. -/
  | notify (queue : BitVec 10) (tail : BitVec 32)
  /-- QUEUE_MAP (R308). The mapper maps the head of the wake list into a free active slot. -/
  | queueMap
  /-- QUEUE_EVICT (R308). The mapper evicts an evictable queue and writes HEAD and CTAIL back. -/
  | queueEvict
  /-- LAUNCH (R312). Checks a LAUNCH packet and holds it for admission. -/
  | launch (queue : BitVec 10)
  /-- LAUNCH_ADMIT (R314). An admitted LAUNCH loads images and creates the context on every tile. -/
  | launchAdmit
  /-- TILE (R319). Runs tile instructions at level 5 as a context with a handle frame. -/
  | tile (queue : BitVec 10)
  /-- COPY (R320). Copies bytes unchanged with the hub's copy engines. -/
  | copy (queue : BitVec 10)
  /-- SIGNAL (R320). Starts a store or atomic add that waits for earlier packets of the queue. -/
  | signal (queue : BitVec 10)
  /-- SIGNAL_PERFORM (R320). Once earlier packets have completed, the SIGNAL stores or adds at system scope. -/
  | signalPerform (queue : BitVec 10)
  /-- WAIT (R320). Starts waiting for a memory condition, blocking later packets of the queue. -/
  | wait (queue : BitVec 10)
  /-- WAIT_SATISFIED (R320). A store to the line or a host poll finds the WAIT condition true and completes it. -/
  | waitSatisfied (queue : BitVec 10)
  /-- WAIT_TIMEOUT (R320). The WAIT timeout expires and the packet completes with STATUS 0x4A. -/
  | waitTimeout (queue : BitVec 10)
  /-- CHECKPOINT (R300). Quiesces a context, flushes it and streams its memory image to a safe tier. -/
  | checkpoint (queue : BitVec 10)
  /-- SHOOT (R321). Privileged shootdown of cached translations of a context. -/
  | shoot (queue : BitVec 10)
  /-- SHOOTDOWN_DIE_ACK (R290). A die acknowledges its shootdown steps; with all four the shootdown completes. -/
  | shootdownDieAck (die : BitVec 2)
  /-- KILL (R321). Privileged kill of a context. -/
  | kill (queue : BitVec 10)
  /-- PFR (R321). Resumes or kills a context parked on a page fault. -/
  | pfr (queue : BitVec 10)
  /-- QSTOP (R321). Stops a queue, unmaps it and clears its error. -/
  | qstop (queue : BitVec 10)
  /-- PACKET_COMPLETE (R311). A packet's operation ends and its completion record and CTAIL are written. -/
  | packetComplete (queue : BitVec 10) (idx : BitVec 32)
  /-- CONTEXT_COMPLETE (R316). A context ends successfully and its LAUNCH completes. -/
  | contextComplete (ctx : Nat)
  /-- QUANTUM_END (R318). A quantum expires; the front end writes ESCR and sends PREEMPT. -/
  | quantumEnd
  /-- HANG_WATCHDOG_EXPIRE (R328). A context's hang watchdog expires and kills it with STATUS 0x48. -/
  | hangWatchdogExpire (ctx : Nat)
  /-- HUB_WATCHDOG_EXPIRE (R327). The hub watchdog fires; the fallback scheduler takes over and the buck core reboots. -/
  | hubWatchdogExpire
  /-- BUCK_REBOOT_DONE (R327). The rebooted buck core resumes and FBACT clears. -/
  | buckRebootDone
  /-- KID_HEARTBEAT_CHECK (R326). The buck core checks kid-core heartbeats each 1 ms and restarts a silent one. -/
  | kidHeartbeatCheck (silent : BitVec 6)
  /-- TASK_APPEND (R322). A die controller appends a task record or refuses it when the queue is full. -/
  | taskAppend (desc : Word) (record : List Word)
  /-- TASK_DISPENSE (R323). The dispenser advances HEAD and hands a record to an idle tile. -/
  | taskDispense (ctx : Nat) (tile : BitVec 24)
  /-- LEASE_REQUEST (R367). The strip controller checks an SPRL request and grants or refuses a lease. -/
  | leaseRequest (tile : BitVec 24) (ctx : Nat) (power duration : Word)
  /-- LEASE_EXPIRE (R368). A lease's REM reaches 0; ST becomes expired and LEASE_EXPIRY is raised. -/
  | leaseExpire (strip : BitVec 8)
  /-- THERMAL_SAMPLE (R360). A strip sensor sample may move the strip between throttled and unthrottled. `power` is the strip's
  power over the last 100 µs (Table 18.4). -/
  | thermalSample (strip : BitVec 8) (temp power : BitVec 16)
  /-- HEAT_STORE_UPDATE (R365). The 1 ms governor update of melted energy, MELT and refreeze. -/
  | heatStoreUpdate (milliwatts : BitVec 32)
  /-- PCAP_WRITE (R362). A new package cap is accepted and enforced by lease revocation and clamps. -/
  | pcapWrite (cap : BitVec 12)
  /-- GOVERNOR_TRIP (R362). Supply current above the trip level raises every strip's clamp within 10 µs. -/
  | governorTrip
  /-- GOVERNOR_RELEASE (R362). After 1 ms below the limit the governor drops its clamp. -/
  | governorRelease
  /-- CAP_BREACH_DETECT (R363). A clamp held a tile below FMIN for a whole millisecond; CAP_BREACH is raised. -/
  | capBreachDetect (power : BitVec 16)
  /-- HOLD_EXPIRE (R357). 20 µs in HOLD end; the tile writes back state and enters GATED. -/
  | holdExpire
  /-- TILE_POWER_UP (R358). The in-rush arbiter powers a waking tile, which runs 100 ns later. -/
  | tilePowerUp
  /-- ENERGY_TICK (R371). Each 1,024th resident cycle charges EWS to ENERGY. -/
  | energyTick
  /-- JOIN (R338). A station's JOIN flit reaches the segment leader for rendezvous. -/
  | join (att station : BitVec 4) (fields : JoinFields)
  /-- START (R338). The leader's START flit fixes members and start frame of a collective. -/
  | start (att : BitVec 4) (group : BitVec 12) (members : BitVec 16) (frame : BitVec 48)
  /-- REJECT (R338). A REJECT flit ends joined stations' collectives with its reason. -/
  | reject (att : BitVec 4) (group : BitVec 12) (reason : BitVec 4)
  /-- WITHDRAW (R338). A station withdraws a command in rendezvous. -/
  | withdraw (att : BitVec 4) (group : BitVec 12) (station : BitVec 4)
  /-- WITHDRAWN (R338). The leader confirms the withdrawal; the command counts as not started. -/
  | withdrawn (att : BitVec 4) (group : BitVec 12)
  /-- JOIN_TIMEOUT (R338). JTMO elapses without START and the leader rejects with reason 6. -/
  | joinTimeout (att : BitVec 4) (group : BitVec 12)
  /-- ACKNOWLEDGEMENT_FIELD (R345). Reading a group's acknowledgement field accepts it or marks it for resend. `lit` says
  that another station lights it; `counts` is what the other stations light, by unit and plane in plane order, then
  presence, r0 and r1; `ownReads` is what this station's detector reads where it errs, none being an invalid reading
  (R333), and empty where it does not err. -/
  | acknowledgementField (att : BitVec 4) (wave : BitVec 3) (group : Nat) (lit : Bool) (counts : List (List Nat))
      (ownReads : List (List (Option Nat)))
  /-- COLLECTIVE_END (R349). A counting collective ends and the engine pushes its completion element. -/
  | collectiveEnd (att : BitVec 4)
  /-- FLIT (R335). A packet-class request, response or write-data flit is received in SEQ order: the one
  that the bit stream of station `src` has completed (R334). What the spec leaves open: `errors`, the bit errors of each
  byte of one that cannot be corrected; `wait` and `payload`, the frame and the PAYLOAD of a RETIRE that it makes this
  station send (R337). -/
  | flit (att src : BitVec 4) (errors : List Nat) (wait : BitVec 48) (payload : List Byte)
  /-- RETRY_FLIT (R335). A retry flit makes the sender resend from the named sequence number. -/
  | retryFlit (att station : BitVec 4) (seq : BitVec 8)
  /-- RETIRE (R337). A RETIRE flit removes a wavelength from use from an effective frame. -/
  | retire (att : BitVec 4) (wave : BitVec 3) (frame : BitVec 48)
  /-- REINSTATE (R337). A REINSTATE flit returns a retrained wavelength to packet class. -/
  | reinstate (att : BitVec 4) (change : WaveChange)
  /-- RETRAIN_DONE (R337). Background retraining of a wavelength succeeds: its launch delay, WLIM and ACKLAG (R332). -/
  | retrainDone (att : BitVec 4) (done : Retraining)
  /-- LINK_TRAINING (R332). Kid core 5 trains launch delays, WLIM and ACKLAG of a segment. -/
  | linkTraining (att station nstn lead : BitVec 4) (actw : BitVec 8) (wlim acklag : BitVec 4) (delays : List (BitVec 8))
  /-- LAUNCH_DELAY_TRIM (R332). Every 100 ms launch delays are trimmed by at most 1/64 slot. -/
  | launchDelayTrim (att : BitVec 4) (wave : BitVec 3) (later : Bool)
  /-- SEGMENT_DOWN (R346). A segment goes down, ending any collective with reason 9. -/
  | segmentDown (att : BitVec 4)
  /-- DEVICE_RESET (R385). Reset releases the buck core into the boot ROM, which verifies and starts the image or enters minimal mode. -/
  | deviceReset
  /-- START_TIMER_EXPIRE (R385). The 2 s start timer expires before BOOTOK and the start fails. -/
  | startTimerExpire
  /-- BOOTOK_SET (R385). Firmware sets BOOTOK, clearing FSCNT and stopping the start timer. -/
  | bootokSet
  /-- STANDBY_POWER_LOSS (R385). Loss of standby power clears FSCNT and REASON. -/
  | standbyPowerLoss
  /-- RECOV_WRITE (R387). In minimal mode, verifies and installs the recovery image. -/
  | recovWrite (len : BitVec 24)
  /-- PKGID_WRITE (R394). The first write of PKGID sets the package ID and SET. -/
  | pkgidWrite (id : BitVec 12)
  /-- FUNCTION_LEVEL_RESET (R381). A function-level reset unlocks the host outbound windows. -/
  | functionLevelReset
  /-- HOWLK_WRITE (R381). Setting LOCK activates the host outbound windows and freezes them. -/
  | howlkWrite (write : BarWrite)
  /-- ATTEST_REQUEST (R393). A nonce to the attestation mailbox returns a doubly signed report. -/
  | attestRequest (nonce : BitVec 256)
  /-- SNAPT_WRITE (R395). Arms a package snapshot of every block at a CYCLE value. -/
  | snaptWrite (cycle : Word)
  /-- SNAPIN_EDGE (R395). A rising edge on SNAPIN with PINEN set arms a package snapshot. -/
  | snapinEdge
  /-- PACKAGE_SNAPSHOT_LATCH (R395). At the latch tick every block latches its snapshot set, halting issue when HALT is set. -/
  | packageSnapshotLatch
  /-- SNAPRES_REARM (R395). Clears TRIG and allows a new package trigger. -/
  | snapresRearm
  /-- SNAPRES_RESUME (R397). Ends a debug halt. -/
  | snapresResume
  /-- ACCTL_CLR (R295). Clears every access counter and pending notification. -/
  | acctlClr (die : BitVec 2)
  /-- ACRST_WRITE (R295). Clears one page's counter and pending notification. -/
  | acrstWrite (die : BitVec 2) (value : Word)
  /-- ANQH_WRITE (R295). Advancing the queue head lets pending notifications be posted. -/
  | anqhWrite (die : BitVec 2) (head : BitVec 32)
  /-- SWLF_CLR (R350). Clears NFAIL, GROUP and REASON of SWLF. -/
  | swlfClr (att : BitVec 4)
  /-- REGISTER_WRITE (R5). A write to a control register without behaviour of its own takes effect per its access code. -/
  | registerWrite (offset : BitVec 24) (write : BarWrite)
  /-- DISCOVERY_START (R399). The die controller starts the discovery agent in supervisor mode. -/
  | discoveryStart (die : BitVec 2) (agent : BitVec 10)
  /-- DFAWN (R400). The first write injects the fawn packet. -/
  | dfawn (die : BitVec 2)
  /-- FAWN_PACKET (R388). A router receives the fawn packet, forwards the first one and replies once. -/
  | fawnPacket (die : BitVec 2) (x y : BitVec 5)
  /-- FAWN_REPLY (R401). A router reply reaches the agent's reply queue. -/
  | fawnReply (die : BitVec 2) (reply : BitVec 21)
  /-- DREPLY (R400). A read pops the oldest held reply. -/
  | dreply (die : BitVec 2)
  /-- DCOORD (R400). Writes a tile's COORD and makes it a logical tile of the multicast. -/
  | dcoord (die : BitVec 2) (value : Word)
  /-- DMOFF (R400). Sets the SPM offset of the next packet and discards a partial packet. -/
  | dmoff (die : BitVec 2) (value : Word)
  /-- DMDATA (R402). Appends a dword; the eighth sends a multicast packet. -/
  | dmdata (die : BitVec 2) (value : Word)
  /-- MULTICAST_PACKET (R402). A logical tile stores a multicast packet and acknowledges it. -/
  | multicastPacket (die : BitVec 2) (pidx : BitVec 10)
  /-- DDONE (R399). Ends discovery with F, or fails it. -/
  | ddone (die : BitVec 2) (value : Word)
  /-- DISCOVERY_TIMEOUT (R399). Replies missing within 1 ms or no DDONE within 10 ms fails discovery with REASON 0x07. -/
  | discoveryTimeout (die : BitVec 2)
  /-- UNASSIGNED_ENCODING (R78). A fetched word with form 0b11, an unassigned major, function or TOP, or a reserved field traps ILLEGAL_ENCODING or ILLEGAL_INSTR, or retires guarded off. -/
  | unassignedEncoding (aHalf bad : Bool) (word : Word)
  /-- UNASSIGNED_TYPE (R309). A packet with an unassigned TYPE is started and completes at once with STATUS 0x41. -/
  | unassignedType (queue : BitVec 10)
  /-- SOFT_ERROR_IN_STORED_BITS (R296). A soft error arises in stored bits of an SPM, vault, L1 or weight-buffer word at any time after its last write. -/
  | softErrorInStoredBits (where_ : ErrorPlace) (correctable : Bool)
  /-- SLEEP_LIMIT_REACHED (R201). The ga[31:0] CYCLE-tick limit of a SLEEP runs out, waking the tile with bit 2 set in gd. -/
  | sleepLimitReached
  /-- RESERVATION_CONFIRMED (R183). A line's home confirms a transactional reservation, letting a waiting TXC write its group. -/
  | reservationConfirmed (line : Word)
  /-- RAIL_LEVEL_REACHED (R356). A strip rail reaches its new voltage level, after which the faster divider takes effect. -/
  | railLevelReached (strip : BitVec 8)
  /-- KID_CORE_RESTARTED (R326). A restarted kid core resumes its duties and the kept queue wakes are served. -/
  | kidCoreRestarted (core : BitVec 3)
  /-- TILE_LEVEL_FAULT_REPORT (R36). A tile-level fault report from a halted tile reaches the front end, which kills the context. -/
  | tileLevelFaultReport (coord : BitVec 24) (cause : BitVec 8) (value : Word)
  /-- FUSED_SVN_RAISE (R386). After BOOTOK, firmware raises the fused SVN to its own image's SVN, and the fuse never decreases. -/
  | fusedSvnRaise
  deriving DecidableEq, Repr

end Sys2Proof
end

