-- ==== Sys2Proof/WellFormed.lean ====
section
/-!
DEFINITION. Well-formed instructions: those whose fields pass checks 2 to 4 and the assigned sub-fields of
check 6 of Table 3.7. An operation that has no encoding is well formed.
-/

namespace Sys2Proof

/-- N = 1 with predicate 0 is reserved (R75). -/
def Guard.ok (g : Guard) : Bool := !(decide (g.neg = 1) && decide (g.pred = 0))

/-- An operand name of Table 3.4. -/
def operandOk (x : BitVec 5) : Bool := decide (x.toNat < 29)

/-- A type code of Table 3.5. -/
def typeOk (t : BitVec 3) : Bool := decide (t.toNat < 7)

/-- Checks 2 to 4 of Table 3.7 on the fields of an instruction, and its assigned sub-fields. -/
def Instr.wf : Instr → Bool
  | .nop g => g.ok
  | .halt g => g.ok
  | .trap g _ => g.ok
  | .tret g => g.ok
  | .ebrk g _ => g.ok
  | .wpsw g _ _ => g.ok
  | .yield g => g.ok
  | .csrr g _ _ => g.ok
  | .csrw g _ _ _ => g.ok
  | .csrs g _ _ _ => g.ok
  | .csrc g _ _ _ => g.ok
  | .add g _ _ _ => g.ok
  | .sub g _ _ _ => g.ok
  | .and g _ _ _ => g.ok
  | .or g _ _ _ => g.ok
  | .xor g _ _ _ => g.ok
  | .andn g _ _ _ => g.ok
  | .shl g _ _ _ => g.ok
  | .shr g _ _ _ => g.ok
  | .sra g _ _ _ => g.ok
  | .rol g _ _ _ => g.ok
  | .mul g _ _ _ => g.ok
  | .mulh g _ _ _ => g.ok
  | .mulhu g _ _ _ => g.ok
  | .div g _ _ _ => g.ok
  | .divu g _ _ _ => g.ok
  | .rem g _ _ _ => g.ok
  | .remu g _ _ _ => g.ok
  | .min g _ _ _ => g.ok
  | .max g _ _ _ => g.ok
  | .minu g _ _ _ => g.ok
  | .maxu g _ _ _ => g.ok
  | .slt g _ _ _ => g.ok
  | .sltu g _ _ _ => g.ok
  | .clz g _ _ => g.ok
  | .ctz g _ _ => g.ok
  | .popc g _ _ => g.ok
  | .addi g _ _ _ => g.ok
  | .andi g _ _ _ => g.ok
  | .ori g _ _ _ => g.ok
  | .xori g _ _ _ => g.ok
  | .shli g _ _ _ => g.ok
  | .shri g _ _ _ => g.ok
  | .srai g _ _ _ => g.ok
  | .roli g _ _ _ => g.ok
  | .slti g _ _ _ => g.ok
  | .ldi g _ _ => g.ok
  | .ldih g _ _ => g.ok
  | .pset g _ _ _ c => g.ok && decide (c.toNat < 6)
  | .plogAnd g _ _ _ => g.ok
  | .plogOr g _ _ _ => g.ok
  | .plogXor g _ _ _ => g.ok
  | .plogAndn g _ _ _ => g.ok
  | .plogNot g _ _ => g.ok
  | .br g _ => g.ok
  | .call g _ => g.ok
  | .jmpr g _ _ => g.ok
  | .beq g _ _ _ => g.ok
  | .bne g _ _ _ => g.ok
  | .blt g _ _ _ => g.ok
  | .bge g _ _ _ => g.ok
  | .bltu g _ _ _ => g.ok
  | .bgeu g _ _ _ => g.ok
  | .bp g m q _ => g.ok && !(decide (m = 1) && decide (q = 0))
  | .loop g _ _ => g.ok
  | .rpt g _ _ _ => g.ok
  | .repeatMarker => true
  | .ld g _ _ z _ => g.ok && decide (z.toNat < 7)
  | .st g _ _ z _ => g.ok && decide (z.toNat < 4)
  | .ldq g _ _ _ _ => g.ok
  | .stq g k _ _ _ => g.ok && decide (k.toNat < 4)
  | .aadd g _ _ _ _ => g.ok
  | .amin g _ _ _ _ => g.ok
  | .amax g _ _ _ _ => g.ok
  | .aand g _ _ _ _ => g.ok
  | .aor g _ _ _ _ => g.ok
  | .axor g _ _ _ _ => g.ok
  | .aswp g _ _ _ _ => g.ok
  | .acas g _ _ _ _ => g.ok
  | .frel g s => g.ok && decide (s.toNat < 5)
  | .facq g s => g.ok && decide (s.toNat < 5)
  | .fseq g s => g.ok && decide (s.toNat < 5)
  | .txb g _ _ => g.ok
  | .txc g s => g.ok && decide (s.toNat < 5)
  | .txa g _ => g.ok
  | .txConflict _ _ => true
  | .coord g _ _ => g.ok
  | .mkaddr g _ _ _ => g.ok
  | .addp g _ _ _ => g.ok
  | .fmtset g _ _ _ => g.ok
  | .absaddr g _ _ => g.ok
  | .bind g _ _ _ => g.ok
  | .unbind g _ => g.ok
  | .pdrop g _ _ => g.ok
  | .plvl g _ _ => g.ok
  | .movx g _ _ => g.ok
  | .movg g _ _ => g.ok
  | .orderedOpExecute => true
  | .rset g _ _ => g.ok
  | .wfill g _ _ => g.ok
  | .wfree g _ => g.ok
  | .pub g _ => g.ok
  | .cons g _ _ => g.ok
  | .epush g _ e => g.ok && decide (e.toNat < 3)
  | .epop g _ _ e => g.ok && decide (e.toNat < 3)
  | .cpy g _ _ _ => g.ok
  | .mbw g _ _ => g.ok
  | .send g _ _ _ => g.ok
  | .recv g _ => g.ok
  | .waitm g => g.ok
  | .mstat g _ => g.ok
  | .sstep g _ _ _ => g.ok
  | .barj g _ _ _ => g.ok
  | .waite g _ _ => g.ok
  | .sleep g _ _ => g.ok
  | .tspawn g _ _ _ => g.ok
  | .tjoin g _ _ _ => g.ok
  | .tdone g _ => g.ok
  | .sprl g _ _ _ => g.ok
  | .sprx g _ _ => g.ok
  | .swrb g _ => g.ok
  | .swmx g _ => g.ok
  | .gang g c => g.ok && decide (c.toNat < 3)
  | .ungang g => g.ok
  | .anop g => g.ok
  | .vadd g d a b t => g.ok && operandOk d && operandOk a && operandOk b && typeOk t
  | .vsub g d a b t => g.ok && operandOk d && operandOk a && operandOk b && typeOk t
  | .vmul g d a b t => g.ok && operandOk d && operandOk a && operandOk b && typeOk t
  | .vmulh g d a b t => g.ok && operandOk d && operandOk a && operandOk b && typeOk t
  | .vmin g d a b t => g.ok && operandOk d && operandOk a && operandOk b && typeOk t
  | .vmax g d a b t => g.ok && operandOk d && operandOk a && operandOk b && typeOk t
  | .vand g d a b t => g.ok && operandOk d && operandOk a && operandOk b && typeOk t
  | .vor g d a b t => g.ok && operandOk d && operandOk a && operandOk b && typeOk t
  | .vxor g d a b t => g.ok && operandOk d && operandOk a && operandOk b && typeOk t
  | .vshl g d a b t => g.ok && operandOk d && operandOk a && operandOk b && typeOk t
  | .vshr g d a b t => g.ok && operandOk d && operandOk a && operandOk b && typeOk t
  | .vsra g d a b t => g.ok && operandOk d && operandOk a && operandOk b && typeOk t
  | .vabs g d a t => g.ok && operandOk d && operandOk a && typeOk t
  | .vneg g d a t => g.ok && operandOk d && operandOk a && typeOk t
  | .vadds g d a b t => g.ok && operandOk d && operandOk a && operandOk b && typeOk t
  | .vsubs g d a b t => g.ok && operandOk d && operandOk a && operandOk b && typeOk t
  | .fadd g d a b t => g.ok && operandOk d && operandOk a && operandOk b && typeOk t
  | .fsub g d a b t => g.ok && operandOk d && operandOk a && operandOk b && typeOk t
  | .fmul g d a b t => g.ok && operandOk d && operandOk a && operandOk b && typeOk t
  | .fmin g d a b t => g.ok && operandOk d && operandOk a && operandOk b && typeOk t
  | .fmax g d a b t => g.ok && operandOk d && operandOk a && operandOk b && typeOk t
  | .fabs g d a t => g.ok && operandOk d && operandOk a && typeOk t
  | .fneg g d a t => g.ok && operandOk d && operandOk a && typeOk t
  | .ffma g d a b t => g.ok && operandOk d && operandOk a && operandOk b && typeOk t
  | .vcmpEq g d a b t => g.ok && operandOk d && operandOk a && operandOk b && typeOk t
  | .vcmpNe g d a b t => g.ok && operandOk d && operandOk a && operandOk b && typeOk t
  | .vcmpLt g d a b t => g.ok && operandOk d && operandOk a && operandOk b && typeOk t
  | .vcmpLe g d a b t => g.ok && operandOk d && operandOk a && operandOk b && typeOk t
  | .vcmpGt g d a b t => g.ok && operandOk d && operandOk a && operandOk b && typeOk t
  | .vcmpGe g d a b t => g.ok && operandOk d && operandOk a && operandOk b && typeOk t
  | .vcmpOrd g d a b t => g.ok && operandOk d && operandOk a && operandOk b && typeOk t
  | .vcmpUno g d a b t => g.ok && operandOk d && operandOk a && operandOk b && typeOk t
  | .vtestAny g _ a t => g.ok && operandOk a && typeOk t
  | .vtestAll g _ a t => g.ok && operandOk a && typeOk t
  | .vsel g d a b => g.ok && operandOk d && operandOk a && operandOk b
  | .frcp g d a t => g.ok && operandOk d && operandOk a && typeOk t
  | .frsq g d a t => g.ok && operandOk d && operandOk a && typeOk t
  | .fsqrt g d a t => g.ok && operandOk d && operandOk a && typeOk t
  | .fexp2 g d a t => g.ok && operandOk d && operandOk a && typeOk t
  | .flog2 g d a t => g.ok && operandOk d && operandOk a && typeOk t
  | .ftanh g d a t => g.ok && operandOk d && operandOk a && typeOk t
  | .vcvt g d a _ s t => g.ok && operandOk d && operandOk a && typeOk t && typeOk s
  | .vqnt g d a _ t => g.ok && operandOk d && operandOk a && typeOk t
  | .vdq g d a _ t => g.ok && operandOk d && operandOk a && typeOk t
  | .vpack g d a b => g.ok && operandOk d && operandOk a && operandOk b
  | .vunpk g d a _ => g.ok && operandOk d && operandOk a
  | .vrsum g d a t => g.ok && operandOk d && operandOk a && typeOk t
  | .vrmax g d a t => g.ok && operandOk d && operandOk a && typeOk t
  | .vrmin g d a t => g.ok && operandOk d && operandOk a && typeOk t
  | .vtopk g d a b t => g.ok && operandOk d && operandOk a && operandOk b && typeOk t
  | .vshuf g d a b t => g.ok && operandOk d && operandOk a && operandOk b && typeOk t
  | .vbcst g d a _ t => g.ok && operandOk d && operandOk a && typeOk t
  | .vslide g d a _ t => g.ok && operandOk d && operandOk a && typeOk t
  | .vidx g d a t => g.ok && operandOk d && operandOk a && typeOk t
  | .vrng g d a _ t => g.ok && operandOk d && operandOk a && typeOk t
  | .vmov g d a => g.ok && operandOk d && operandOk a
  | .mldb g _ _ _ _ => g.ok
  | .mswp g o => g.ok && decide (o.toNat < 3)
  | .mma g _ _ _ _ => g.ok
  | .macz g _ => g.ok
  | .mrd g d _ _ _ => g.ok && operandOk d
  | .mcfg g d a => g.ok && operandOk d && operandOk a
  | .tshape g _ => g.ok
  | .tbind g _ ha mode _ => g.ok && decide (mode.toNat < 2) && (decide (mode ≠ 0) || decide (ha = 0))
  | .tmma g _ _ _ _ _ _ => g.ok
  | .tmm g _ _ _ _ _ => g.ok
  | .tew g _ _ hb mode _ => g.ok && decide (mode.toNat < 6) && (decide (mode ≠ 5) || decide (hb = 0))
  | .tcvt g _ _ mode _ => g.ok && decide (mode.toNat < 4)
  | .tred g _ _ mode _ => g.ok && decide (mode.toNat < 12)
  | .ttopk g _ _ hc mode _ => g.ok && decide (mode.toNat < 4) && (decide (mode.toNat / 2 % 2 = 1) || decide (hc = 0))
  | .tcopy g _ _ _ => g.ok
  | .tfill g _ mode _ => g.ok && decide (mode.toNat < 2)
  | .ttrans g _ _ _ _ => g.ok
  | .tdrop g _ _ hc mode _ => g.ok && decide (mode.toNat < 4) && (decide (mode.toNat / 2 % 2 = 1) || decide (hc = 0))
  | .tsync g mode _ => g.ok && decide (mode.toNat < 5)
  | .tsyncDrop g _ => g.ok
  | .tcoll g _ _ mode _ => g.ok && decide (mode.toNat < 2)
  | .tileInsnStart => true
  | .tileInsnCommit => true
  | .childComplete _ _ _ => true
  | .childFaultReport _ _ _ _ _ _ _ => true
  | .ldqRowDeliver _ => true
  | .stqRowWrite _ => true
  | .copyStreamRow _ => true
  | .copyComplete _ => true
  | .remoteAccess _ _ _ _ => true
  | .remoteAnswer _ => true
  | .postedStoreReject _ => true
  | .remoteTimeout _ => true
  | .messageArrival _ _ _ => true
  | .depositArrival _ _ _ _ => true
  | .allowanceReturn => true
  | .scopeMissMessage _ _ _ => true
  | .l1Eviction _ => true
  | .pageWalkComplete => true
  | .scrubRead _ => true
  | .preemptRequest => true
  | .asyncTrap => true
  | .snapatMatch => true
  | .allAsleepDetect _ => true
  | .contextLoad => true
  | .saveTimeout => true
  | .cutRequest _ _ => true
  | .computeBarrierComplete _ => true
  | .exchangeLanded _ => true
  | .barrierRelease _ _ => true
  | .staggerExpire => true
  | .notify _ _ => true
  | .queueMap => true
  | .queueEvict => true
  | .launch _ => true
  | .launchAdmit => true
  | .tile _ => true
  | .copy _ => true
  | .signal _ => true
  | .signalPerform _ => true
  | .wait _ => true
  | .waitSatisfied _ => true
  | .waitTimeout _ => true
  | .checkpoint _ => true
  | .shoot _ => true
  | .shootdownDieAck _ => true
  | .kill _ => true
  | .pfr _ => true
  | .qstop _ => true
  | .packetComplete _ _ => true
  | .contextComplete _ => true
  | .quantumEnd => true
  | .hangWatchdogExpire _ => true
  | .hubWatchdogExpire => true
  | .buckRebootDone => true
  | .kidHeartbeatCheck _ => true
  | .taskAppend _ _ => true
  | .taskDispense _ _ => true
  | .leaseRequest _ _ _ _ => true
  | .leaseExpire _ => true
  | .thermalSample _ _ _ => true
  | .heatStoreUpdate _ => true
  | .pcapWrite _ => true
  | .governorTrip => true
  | .governorRelease => true
  | .capBreachDetect _ => true
  | .holdExpire => true
  | .tilePowerUp => true
  | .energyTick => true
  | .join _ _ _ => true
  | .start _ _ _ _ => true
  | .reject _ _ _ => true
  | .withdraw _ _ _ => true
  | .withdrawn _ _ => true
  | .joinTimeout _ _ => true
  | .acknowledgementField _ _ _ _ _ _ => true
  | .collectiveEnd _ => true
  | .flit _ _ _ _ _ => true
  | .retryFlit _ _ _ => true
  | .retire _ _ _ => true
  | .reinstate _ _ => true
  | .retrainDone _ _ => true
  | .linkTraining _ _ _ _ _ _ _ _ => true
  | .launchDelayTrim _ _ _ => true
  | .segmentDown _ => true
  | .deviceReset => true
  | .startTimerExpire => true
  | .bootokSet => true
  | .standbyPowerLoss => true
  | .recovWrite _ => true
  | .pkgidWrite _ => true
  | .functionLevelReset => true
  | .howlkWrite _ => true
  | .attestRequest _ => true
  | .snaptWrite _ => true
  | .snapinEdge => true
  | .packageSnapshotLatch => true
  | .snapresRearm => true
  | .snapresResume => true
  | .acctlClr _ => true
  | .acrstWrite _ _ => true
  | .anqhWrite _ _ => true
  | .swlfClr _ => true
  | .registerWrite _ _ => true
  | .discoveryStart _ _ => true
  | .dfawn _ => true
  | .fawnPacket _ _ _ => true
  | .fawnReply _ _ => true
  | .dreply _ => true
  | .dcoord _ _ => true
  | .dmoff _ _ => true
  | .dmdata _ _ => true
  | .multicastPacket _ _ => true
  | .ddone _ _ => true
  | .discoveryTimeout _ => true
  | .unassignedEncoding _ _ _ => true
  | .unassignedType _ => true
  | .softErrorInStoredBits _ _ => true
  | .sleepLimitReached => true
  | .reservationConfirmed _ => true
  | .railLevelReached _ => true
  | .kidCoreRestarted _ => true
  | .tileLevelFaultReport _ _ _ => true
  | .fusedSvnRaise => true

end Sys2Proof
end

