-- ==== Sys2Proof/Decode.lean ====
section
/-!
DEFINITION. Decoding of C-words, A-words and tile instructions by Tables 3.1 to 3.9, 6.1 and 6.7, total on
any words and refusing by name, and the encoder written from the same tables.
-/

namespace Sys2Proof

/-- What a word decodes to. `encoding`: one of checks 1 to 4 of Table 3.7 fails. `unassigned`: the major,
function, TOP or a coded sub-field is not assigned (check 6). -/
inductive Decoded where
  | ok (i : Instr)
  | encoding
  | unassigned
  deriving DecidableEq, Repr

/-- Bits [lo + n - 1 : lo] of a word. -/
def fld (w lo n : Nat) : BitVec n := BitVec.ofNat n (w / 2 ^ lo)

/-- The guard of a C-word (R67). -/
def guardC (w : Nat) : Guard := { neg := fld w 29 1, pred := fld w 26 3 }

/-- The guard of an A-word (R70). -/
def guardA (w : Nat) : Guard := { neg := fld w 31 1, pred := fld w 28 3 }

/-- The guard of a tile instruction (Table 3.6). -/
def guardT (w : Nat) : Guard := { neg := fld w 7 1, pred := fld w 4 3 }

/-- An immediate field, or the literal that replaces it in the lone form (R69). -/
def immOf (lone : Bool) (n lo w lit : Nat) : Imm n :=
  if lone then .lone (BitVec.ofNat 32 lit) else .fld (fld w lo n)

/-- C-word major 0x00 (Table 3.8). -/
def decodeC00 (lone : Bool) (w _lit : Nat) : Decoded :=
  match w % 32 with
  | 0 =>
    if lone = true ∨ ¬(w / 2 ^ 5 % 2 ^ 15 = 0) then .encoding
      else .ok (.nop (guardC w))
  | 1 =>
    if lone = true ∨ ¬(w / 2 ^ 5 % 2 ^ 15 = 0) then .encoding
      else .ok (.halt (guardC w))
  | 2 =>
    if lone = true then .encoding
      else .ok (.trap (guardC w) (fld w 5 15))
  | 3 =>
    if lone = true ∨ ¬(w / 2 ^ 5 % 2 ^ 15 = 0) then .encoding
      else .ok (.tret (guardC w))
  | 4 =>
    if lone = true then .encoding
      else .ok (.ebrk (guardC w) (fld w 5 15))
  | 5 =>
    if lone = true ∨ ¬(w / 2 ^ 5 % 2 ^ 5 = 0) then .encoding
      else .ok (.wpsw (guardC w) (fld w 15 5) (fld w 10 5))
  | 6 =>
    if lone = true ∨ ¬(w / 2 ^ 5 % 2 ^ 15 = 0) then .encoding
      else .ok (.yield (guardC w))
  | _ => .unassigned

/-- C-word major 0x01 (Table 3.8). -/
def decodeC01 (lone : Bool) (w _lit : Nat) : Decoded :=
  if lone = true ∨ ¬(w / 2 ^ 10 % 2 ^ 5 = 0) then .encoding
    else .ok (.csrr (guardC w) (fld w 15 5) (fld w 0 10))

/-- C-word major 0x02 (Table 3.8). -/
def decodeC02 (lone : Bool) (w _lit : Nat) : Decoded :=
  if lone = true then .encoding
    else .ok (.csrw (guardC w) (fld w 15 5) (fld w 10 5) (fld w 0 10))

/-- C-word major 0x03 (Table 3.8). -/
def decodeC03 (lone : Bool) (w _lit : Nat) : Decoded :=
  if lone = true then .encoding
    else .ok (.csrs (guardC w) (fld w 15 5) (fld w 10 5) (fld w 0 10))

/-- C-word major 0x04 (Table 3.8). -/
def decodeC04 (lone : Bool) (w _lit : Nat) : Decoded :=
  if lone = true then .encoding
    else .ok (.csrc (guardC w) (fld w 15 5) (fld w 10 5) (fld w 0 10))

/-- C-word major 0x05 (Table 3.8). -/
def decodeC05 (lone : Bool) (w _lit : Nat) : Decoded :=
  match w % 32 with
  | 0 =>
    if lone = true then .encoding
      else .ok (.add (guardC w) (fld w 15 5) (fld w 10 5) (fld w 5 5))
  | 1 =>
    if lone = true then .encoding
      else .ok (.sub (guardC w) (fld w 15 5) (fld w 10 5) (fld w 5 5))
  | 2 =>
    if lone = true then .encoding
      else .ok (.and (guardC w) (fld w 15 5) (fld w 10 5) (fld w 5 5))
  | 3 =>
    if lone = true then .encoding
      else .ok (.or (guardC w) (fld w 15 5) (fld w 10 5) (fld w 5 5))
  | 4 =>
    if lone = true then .encoding
      else .ok (.xor (guardC w) (fld w 15 5) (fld w 10 5) (fld w 5 5))
  | 5 =>
    if lone = true then .encoding
      else .ok (.andn (guardC w) (fld w 15 5) (fld w 10 5) (fld w 5 5))
  | 6 =>
    if lone = true then .encoding
      else .ok (.shl (guardC w) (fld w 15 5) (fld w 10 5) (fld w 5 5))
  | 7 =>
    if lone = true then .encoding
      else .ok (.shr (guardC w) (fld w 15 5) (fld w 10 5) (fld w 5 5))
  | 8 =>
    if lone = true then .encoding
      else .ok (.sra (guardC w) (fld w 15 5) (fld w 10 5) (fld w 5 5))
  | 9 =>
    if lone = true then .encoding
      else .ok (.rol (guardC w) (fld w 15 5) (fld w 10 5) (fld w 5 5))
  | 10 =>
    if lone = true then .encoding
      else .ok (.mul (guardC w) (fld w 15 5) (fld w 10 5) (fld w 5 5))
  | 11 =>
    if lone = true then .encoding
      else .ok (.mulh (guardC w) (fld w 15 5) (fld w 10 5) (fld w 5 5))
  | 12 =>
    if lone = true then .encoding
      else .ok (.mulhu (guardC w) (fld w 15 5) (fld w 10 5) (fld w 5 5))
  | 13 =>
    if lone = true then .encoding
      else .ok (.div (guardC w) (fld w 15 5) (fld w 10 5) (fld w 5 5))
  | 14 =>
    if lone = true then .encoding
      else .ok (.divu (guardC w) (fld w 15 5) (fld w 10 5) (fld w 5 5))
  | 15 =>
    if lone = true then .encoding
      else .ok (.rem (guardC w) (fld w 15 5) (fld w 10 5) (fld w 5 5))
  | 16 =>
    if lone = true then .encoding
      else .ok (.remu (guardC w) (fld w 15 5) (fld w 10 5) (fld w 5 5))
  | 17 =>
    if lone = true then .encoding
      else .ok (.min (guardC w) (fld w 15 5) (fld w 10 5) (fld w 5 5))
  | 18 =>
    if lone = true then .encoding
      else .ok (.max (guardC w) (fld w 15 5) (fld w 10 5) (fld w 5 5))
  | 19 =>
    if lone = true then .encoding
      else .ok (.minu (guardC w) (fld w 15 5) (fld w 10 5) (fld w 5 5))
  | 20 =>
    if lone = true then .encoding
      else .ok (.maxu (guardC w) (fld w 15 5) (fld w 10 5) (fld w 5 5))
  | 21 =>
    if lone = true then .encoding
      else .ok (.slt (guardC w) (fld w 15 5) (fld w 10 5) (fld w 5 5))
  | 22 =>
    if lone = true then .encoding
      else .ok (.sltu (guardC w) (fld w 15 5) (fld w 10 5) (fld w 5 5))
  | 23 =>
    if lone = true ∨ ¬(w / 2 ^ 5 % 2 ^ 5 = 0) then .encoding
      else .ok (.clz (guardC w) (fld w 15 5) (fld w 10 5))
  | 24 =>
    if lone = true ∨ ¬(w / 2 ^ 5 % 2 ^ 5 = 0) then .encoding
      else .ok (.ctz (guardC w) (fld w 15 5) (fld w 10 5))
  | 25 =>
    if lone = true ∨ ¬(w / 2 ^ 5 % 2 ^ 5 = 0) then .encoding
      else .ok (.popc (guardC w) (fld w 15 5) (fld w 10 5))
  | _ => .unassigned

/-- C-word major 0x06 (Table 3.8). -/
def decodeC06 (lone : Bool) (w lit : Nat) : Decoded :=
  if (lone = true ∧ ¬(w % 2 ^ 10 = 0)) then .encoding
    else .ok (.addi (guardC w) (fld w 15 5) (fld w 10 5) (immOf lone 10 0 w lit))

/-- C-word major 0x07 (Table 3.8). -/
def decodeC07 (lone : Bool) (w lit : Nat) : Decoded :=
  if (lone = true ∧ ¬(w % 2 ^ 10 = 0)) then .encoding
    else .ok (.andi (guardC w) (fld w 15 5) (fld w 10 5) (immOf lone 10 0 w lit))

/-- C-word major 0x08 (Table 3.8). -/
def decodeC08 (lone : Bool) (w lit : Nat) : Decoded :=
  if (lone = true ∧ ¬(w % 2 ^ 10 = 0)) then .encoding
    else .ok (.ori (guardC w) (fld w 15 5) (fld w 10 5) (immOf lone 10 0 w lit))

/-- C-word major 0x09 (Table 3.8). -/
def decodeC09 (lone : Bool) (w lit : Nat) : Decoded :=
  if (lone = true ∧ ¬(w % 2 ^ 10 = 0)) then .encoding
    else .ok (.xori (guardC w) (fld w 15 5) (fld w 10 5) (immOf lone 10 0 w lit))

/-- C-word major 0x0A (Table 3.8). -/
def decodeC0A (lone : Bool) (w _lit : Nat) : Decoded :=
  match w / 2 ^ 8 % 4 with
  | 0 =>
    if lone = true ∨ ¬(w / 2 ^ 6 % 2 ^ 2 = 0) then .encoding
      else .ok (.shli (guardC w) (fld w 15 5) (fld w 10 5) (fld w 0 6))
  | 1 =>
    if lone = true ∨ ¬(w / 2 ^ 6 % 2 ^ 2 = 0) then .encoding
      else .ok (.shri (guardC w) (fld w 15 5) (fld w 10 5) (fld w 0 6))
  | 2 =>
    if lone = true ∨ ¬(w / 2 ^ 6 % 2 ^ 2 = 0) then .encoding
      else .ok (.srai (guardC w) (fld w 15 5) (fld w 10 5) (fld w 0 6))
  | 3 =>
    if lone = true ∨ ¬(w / 2 ^ 6 % 2 ^ 2 = 0) then .encoding
      else .ok (.roli (guardC w) (fld w 15 5) (fld w 10 5) (fld w 0 6))
  | _ => .unassigned

/-- C-word major 0x0B (Table 3.8). -/
def decodeC0B (lone : Bool) (w lit : Nat) : Decoded :=
  if (lone = true ∧ ¬(w % 2 ^ 10 = 0)) then .encoding
    else .ok (.slti (guardC w) (fld w 15 5) (fld w 10 5) (immOf lone 10 0 w lit))

/-- C-word major 0x0C (Table 3.8). -/
def decodeC0C (lone : Bool) (w lit : Nat) : Decoded :=
  if (lone = true ∧ ¬(w % 2 ^ 15 = 0)) then .encoding
    else .ok (.ldi (guardC w) (fld w 15 5) (immOf lone 15 0 w lit))

/-- C-word major 0x0D (Table 3.8). -/
def decodeC0D (lone : Bool) (w lit : Nat) : Decoded :=
  if (lone = true ∧ ¬(w % 2 ^ 15 = 0)) then .encoding
    else .ok (.ldih (guardC w) (fld w 15 5) (immOf lone 15 0 w lit))

/-- C-word major 0x0E (Table 3.8). -/
def decodeC0E (lone : Bool) (w lit : Nat) : Decoded :=
  if ¬(w % 2 ^ 4 = 0) ∨ (lone = true ∧ ¬(w / 2 ^ 7 % 2 ^ 5 = 0)) then .encoding
    else if 6 ≤ w / 2 ^ 4 % 2 ^ 3 then .unassigned else .ok (.pset (guardC w) (fld w 17 3) (fld w 12 5) (immOf lone 5 7 w lit) (fld w 4 3))

/-- C-word major 0x0F (Table 3.8). -/
def decodeC0F (lone : Bool) (w _lit : Nat) : Decoded :=
  match w % 32 with
  | 0 =>
    if lone = true ∨ ¬(w / 2 ^ 5 % 2 ^ 6 = 0) then .encoding
      else .ok (.plogAnd (guardC w) (fld w 17 3) (fld w 14 3) (fld w 11 3))
  | 1 =>
    if lone = true ∨ ¬(w / 2 ^ 5 % 2 ^ 6 = 0) then .encoding
      else .ok (.plogOr (guardC w) (fld w 17 3) (fld w 14 3) (fld w 11 3))
  | 2 =>
    if lone = true ∨ ¬(w / 2 ^ 5 % 2 ^ 6 = 0) then .encoding
      else .ok (.plogXor (guardC w) (fld w 17 3) (fld w 14 3) (fld w 11 3))
  | 3 =>
    if lone = true ∨ ¬(w / 2 ^ 5 % 2 ^ 6 = 0) then .encoding
      else .ok (.plogAndn (guardC w) (fld w 17 3) (fld w 14 3) (fld w 11 3))
  | 4 =>
    if lone = true ∨ ¬(w / 2 ^ 5 % 2 ^ 9 = 0) then .encoding
      else .ok (.plogNot (guardC w) (fld w 17 3) (fld w 14 3))
  | _ => .unassigned

/-- C-word major 0x10 (Table 3.8). -/
def decodeC10 (lone : Bool) (w lit : Nat) : Decoded :=
  if (lone = true ∧ ¬(w % 2 ^ 20 = 0)) then .encoding
    else .ok (.br (guardC w) (immOf lone 20 0 w lit))

/-- C-word major 0x11 (Table 3.8). -/
def decodeC11 (lone : Bool) (w lit : Nat) : Decoded :=
  if (lone = true ∧ ¬(w % 2 ^ 20 = 0)) then .encoding
    else .ok (.call (guardC w) (immOf lone 20 0 w lit))

/-- C-word major 0x12 (Table 3.8). -/
def decodeC12 (lone : Bool) (w _lit : Nat) : Decoded :=
  match w % 32 with
  | 0 =>
    if lone = true ∨ ¬(w / 2 ^ 5 % 2 ^ 5 = 0) then .encoding
      else .ok (.jmpr (guardC w) (fld w 15 5) (fld w 10 5))
  | _ => .unassigned

/-- C-word major 0x13 (Table 3.8). -/
def decodeC13 (lone : Bool) (w lit : Nat) : Decoded :=
  if (lone = true ∧ ¬(w % 2 ^ 10 = 0)) then .encoding
    else .ok (.beq (guardC w) (fld w 15 5) (fld w 10 5) (immOf lone 10 0 w lit))

/-- C-word major 0x14 (Table 3.8). -/
def decodeC14 (lone : Bool) (w lit : Nat) : Decoded :=
  if (lone = true ∧ ¬(w % 2 ^ 10 = 0)) then .encoding
    else .ok (.bne (guardC w) (fld w 15 5) (fld w 10 5) (immOf lone 10 0 w lit))

/-- C-word major 0x15 (Table 3.8). -/
def decodeC15 (lone : Bool) (w lit : Nat) : Decoded :=
  if (lone = true ∧ ¬(w % 2 ^ 10 = 0)) then .encoding
    else .ok (.blt (guardC w) (fld w 15 5) (fld w 10 5) (immOf lone 10 0 w lit))

/-- C-word major 0x16 (Table 3.8). -/
def decodeC16 (lone : Bool) (w lit : Nat) : Decoded :=
  if (lone = true ∧ ¬(w % 2 ^ 10 = 0)) then .encoding
    else .ok (.bge (guardC w) (fld w 15 5) (fld w 10 5) (immOf lone 10 0 w lit))

/-- C-word major 0x17 (Table 3.8). -/
def decodeC17 (lone : Bool) (w lit : Nat) : Decoded :=
  if (lone = true ∧ ¬(w % 2 ^ 10 = 0)) then .encoding
    else .ok (.bltu (guardC w) (fld w 15 5) (fld w 10 5) (immOf lone 10 0 w lit))

/-- C-word major 0x18 (Table 3.8). -/
def decodeC18 (lone : Bool) (w lit : Nat) : Decoded :=
  if (lone = true ∧ ¬(w % 2 ^ 10 = 0)) then .encoding
    else .ok (.bgeu (guardC w) (fld w 15 5) (fld w 10 5) (immOf lone 10 0 w lit))

/-- C-word major 0x19 (Table 3.8). -/
def decodeC19 (lone : Bool) (w lit : Nat) : Decoded :=
  if (lone = true ∧ ¬(w % 2 ^ 16 = 0)) ∨ (w / 2 ^ 19 % 2 = 1 ∧ w / 2 ^ 16 % 2 ^ 3 = 0) then .encoding
    else .ok (.bp (guardC w) (fld w 19 1) (fld w 16 3) (immOf lone 16 0 w lit))

/-- C-word major 0x1A (Table 3.8). -/
def decodeC1A (lone : Bool) (w lit : Nat) : Decoded :=
  if (lone = true ∧ ¬(w % 2 ^ 15 = 0)) then .encoding
    else .ok (.loop (guardC w) (fld w 15 5) (immOf lone 15 0 w lit))

/-- C-word major 0x1B (Table 3.8). -/
def decodeC1B (lone : Bool) (w _lit : Nat) : Decoded :=
  if lone = true ∨ ¬(w % 2 ^ 4 = 0) then .encoding
    else .ok (.rpt (guardC w) (fld w 16 4) (fld w 8 8) (fld w 4 4))

/-- C-word major 0x20 (Table 3.8). -/
def decodeC20 (lone : Bool) (w lit : Nat) : Decoded :=
  if (lone = true ∧ ¬(w % 2 ^ 7 = 0)) then .encoding
    else if w / 2 ^ 7 % 2 ^ 3 = 7 then .unassigned else .ok (.ld (guardC w) (fld w 15 5) (fld w 10 5) (fld w 7 3) (immOf lone 7 0 w lit))

/-- C-word major 0x21 (Table 3.8). -/
def decodeC21 (lone : Bool) (w lit : Nat) : Decoded :=
  if (lone = true ∧ ¬(w % 2 ^ 7 = 0)) then .encoding
    else if 4 ≤ w / 2 ^ 7 % 2 ^ 3 then .unassigned else .ok (.st (guardC w) (fld w 15 5) (fld w 10 5) (fld w 7 3) (immOf lone 7 0 w lit))

/-- C-word major 0x22 (Table 3.8). -/
def decodeC22 (lone : Bool) (w _lit : Nat) : Decoded :=
  if lone = true then .encoding
    else .ok (.ldq (guardC w) (fld w 17 3) (fld w 10 7) (fld w 5 5) (fld w 0 5))

/-- C-word major 0x23 (Table 3.8). -/
def decodeC23 (lone : Bool) (w _lit : Nat) : Decoded :=
  if lone = true ∨ 4 ≤ w / 2 ^ 17 % 2 ^ 3 then .encoding
    else .ok (.stq (guardC w) (fld w 17 3) (fld w 10 7) (fld w 5 5) (fld w 0 5))

/-- C-word major 0x24 (Table 3.8). -/
def decodeC24 (lone : Bool) (w _lit : Nat) : Decoded :=
  match w / 2 ^ 2 % 8 with
  | 0 =>
    if lone = true ∨ ¬(w % 2 ^ 1 = 0) then .encoding
      else .ok (.aadd (guardC w) (fld w 15 5) (fld w 10 5) (fld w 5 5) (fld w 1 1))
  | 1 =>
    if lone = true ∨ ¬(w % 2 ^ 1 = 0) then .encoding
      else .ok (.amin (guardC w) (fld w 15 5) (fld w 10 5) (fld w 5 5) (fld w 1 1))
  | 2 =>
    if lone = true ∨ ¬(w % 2 ^ 1 = 0) then .encoding
      else .ok (.amax (guardC w) (fld w 15 5) (fld w 10 5) (fld w 5 5) (fld w 1 1))
  | 3 =>
    if lone = true ∨ ¬(w % 2 ^ 1 = 0) then .encoding
      else .ok (.aand (guardC w) (fld w 15 5) (fld w 10 5) (fld w 5 5) (fld w 1 1))
  | 4 =>
    if lone = true ∨ ¬(w % 2 ^ 1 = 0) then .encoding
      else .ok (.aor (guardC w) (fld w 15 5) (fld w 10 5) (fld w 5 5) (fld w 1 1))
  | 5 =>
    if lone = true ∨ ¬(w % 2 ^ 1 = 0) then .encoding
      else .ok (.axor (guardC w) (fld w 15 5) (fld w 10 5) (fld w 5 5) (fld w 1 1))
  | 6 =>
    if lone = true ∨ ¬(w % 2 ^ 1 = 0) then .encoding
      else .ok (.aswp (guardC w) (fld w 15 5) (fld w 10 5) (fld w 5 5) (fld w 1 1))
  | 7 =>
    if lone = true ∨ ¬(w % 2 ^ 1 = 0) then .encoding
      else .ok (.acas (guardC w) (fld w 15 5) (fld w 10 5) (fld w 5 5) (fld w 1 1))
  | _ => .unassigned

/-- C-word major 0x25 (Table 3.8). -/
def decodeC25 (lone : Bool) (w _lit : Nat) : Decoded :=
  match w % 4 with
  | 0 =>
    if lone = true ∨ ¬(w / 2 ^ 2 % 2 ^ 2 = 0) ∨ ¬(w / 2 ^ 7 % 2 ^ 13 = 0) ∨ 5 ≤ w / 2 ^ 4 % 2 ^ 3 then .encoding
      else .ok (.frel (guardC w) (fld w 4 3))
  | 1 =>
    if lone = true ∨ ¬(w / 2 ^ 2 % 2 ^ 2 = 0) ∨ ¬(w / 2 ^ 7 % 2 ^ 13 = 0) ∨ 5 ≤ w / 2 ^ 4 % 2 ^ 3 then .encoding
      else .ok (.facq (guardC w) (fld w 4 3))
  | 2 =>
    if lone = true ∨ ¬(w / 2 ^ 2 % 2 ^ 2 = 0) ∨ ¬(w / 2 ^ 7 % 2 ^ 13 = 0) ∨ 5 ≤ w / 2 ^ 4 % 2 ^ 3 then .encoding
      else .ok (.fseq (guardC w) (fld w 4 3))
  | _ => .unassigned

/-- C-word major 0x26 (Table 3.8). -/
def decodeC26 (lone : Bool) (w lit : Nat) : Decoded :=
  match w % 32 with
  | 0 =>
    if lone = false ∨ ¬(w / 2 ^ 5 % 2 ^ 10 = 0) then .encoding
      else .ok (.txb (guardC w) (fld w 15 5) (BitVec.ofNat 32 lit))
  | 1 =>
    if lone = true ∨ ¬(w / 2 ^ 8 % 2 ^ 12 = 0) ∨ 5 ≤ w / 2 ^ 5 % 2 ^ 3 then .encoding
      else .ok (.txc (guardC w) (fld w 5 3))
  | 2 =>
    if lone = true ∨ ¬(w / 2 ^ 13 % 2 ^ 7 = 0) then .encoding
      else .ok (.txa (guardC w) (fld w 5 8))
  | _ => .unassigned

/-- C-word major 0x27 (Table 3.8). -/
def decodeC27 (lone : Bool) (w lit : Nat) : Decoded :=
  match w % 32 with
  | 0 =>
    if lone = true ∨ ¬(w / 2 ^ 5 % 2 ^ 5 = 0) then .encoding
      else .ok (.coord (guardC w) (fld w 15 5) (fld w 10 5))
  | 1 =>
    if lone = true then .encoding
      else .ok (.mkaddr (guardC w) (fld w 15 5) (fld w 10 5) (fld w 5 5))
  | 2 =>
    if (lone = true ∧ ¬(w / 2 ^ 5 % 2 ^ 5 = 0)) then .encoding
      else .ok (.addp (guardC w) (fld w 15 5) (fld w 10 5) (immOf lone 5 5 w lit))
  | 3 =>
    if (lone = true ∧ ¬(w / 2 ^ 5 % 2 ^ 5 = 0)) then .encoding
      else .ok (.fmtset (guardC w) (fld w 15 5) (fld w 10 5) (immOf lone 5 5 w lit))
  | 4 =>
    if lone = true ∨ ¬(w / 2 ^ 5 % 2 ^ 5 = 0) then .encoding
      else .ok (.absaddr (guardC w) (fld w 15 5) (fld w 10 5))
  | _ => .unassigned

/-- C-word major 0x28 (Table 3.8). -/
def decodeC28 (lone : Bool) (w _lit : Nat) : Decoded :=
  match w % 32 with
  | 0 =>
    if lone = true then .encoding
      else .ok (.bind (guardC w) (fld w 15 5) (fld w 10 5) (fld w 5 5))
  | 1 =>
    if lone = true ∨ ¬(w / 2 ^ 5 % 2 ^ 10 = 0) then .encoding
      else .ok (.unbind (guardC w) (fld w 15 5))
  | 2 =>
    if lone = true ∨ ¬(w / 2 ^ 5 % 2 ^ 5 = 0) then .encoding
      else .ok (.pdrop (guardC w) (fld w 15 5) (fld w 10 5))
  | 3 =>
    if lone = true ∨ ¬(w / 2 ^ 5 % 2 ^ 5 = 0) then .encoding
      else .ok (.plvl (guardC w) (fld w 15 5) (fld w 10 5))
  | 4 =>
    if lone = true ∨ ¬(w / 2 ^ 5 % 2 ^ 5 = 0) then .encoding
      else .ok (.movx (guardC w) (fld w 15 5) (fld w 10 5))
  | 5 =>
    if lone = true ∨ ¬(w / 2 ^ 5 % 2 ^ 5 = 0) then .encoding
      else .ok (.movg (guardC w) (fld w 15 5) (fld w 10 5))
  | _ => .unassigned

/-- C-word major 0x29 (Table 3.8). -/
def decodeC29 (lone : Bool) (w _lit : Nat) : Decoded :=
  match w % 32 with
  | 0 =>
    if lone = true ∨ ¬(w / 2 ^ 9 % 2 ^ 1 = 0) ∨ ¬(w / 2 ^ 15 % 2 ^ 5 = 0) then .encoding
      else .ok (.rset (guardC w) (fld w 10 5) (fld w 5 4))
  | 1 =>
    if lone = true ∨ ¬(w / 2 ^ 9 % 2 ^ 6 = 0) then .encoding
      else .ok (.wfill (guardC w) (fld w 15 5) (fld w 5 4))
  | 2 =>
    if lone = true ∨ ¬(w / 2 ^ 9 % 2 ^ 11 = 0) then .encoding
      else .ok (.wfree (guardC w) (fld w 5 4))
  | 3 =>
    if lone = true ∨ ¬(w / 2 ^ 9 % 2 ^ 11 = 0) then .encoding
      else .ok (.pub (guardC w) (fld w 5 4))
  | 4 =>
    if lone = true ∨ ¬(w / 2 ^ 9 % 2 ^ 6 = 0) then .encoding
      else .ok (.cons (guardC w) (fld w 15 5) (fld w 5 4))
  | _ => .unassigned

/-- C-word major 0x2A (Table 3.8). -/
def decodeC2A (lone : Bool) (w _lit : Nat) : Decoded :=
  match w % 32 with
  | 0 =>
    if lone = true ∨ ¬(w / 2 ^ 8 % 2 ^ 2 = 0) ∨ ¬(w / 2 ^ 15 % 2 ^ 5 = 0) then .encoding
      else if 3 ≤ w / 2 ^ 5 % 2 ^ 3 then .unassigned else .ok (.epush (guardC w) (fld w 10 5) (fld w 5 3))
  | 1 =>
    if lone = true ∨ ¬(w / 2 ^ 8 % 2 ^ 2 = 0) ∨ ¬(w / 2 ^ 11 % 2 ^ 4 = 0) then .encoding
      else if 3 ≤ w / 2 ^ 5 % 2 ^ 3 then .unassigned else .ok (.epop (guardC w) (fld w 15 5) (fld w 10 1) (fld w 5 3))
  | 2 =>
    if lone = true then .encoding
      else .ok (.cpy (guardC w) (fld w 15 5) (fld w 10 5) (fld w 5 5))
  | _ => .unassigned

/-- C-word major 0x2B (Table 3.8). -/
def decodeC2B (lone : Bool) (w _lit : Nat) : Decoded :=
  match w % 32 with
  | 0 =>
    if lone = true ∨ ¬(w / 2 ^ 5 % 2 ^ 5 = 0) ∨ ¬(w / 2 ^ 18 % 2 ^ 2 = 0) then .encoding
      else .ok (.mbw (guardC w) (fld w 15 3) (fld w 10 5))
  | 1 =>
    if lone = true ∨ ¬(w / 2 ^ 15 % 2 ^ 2 = 0) then .encoding
      else .ok (.send (guardC w) (fld w 17 3) (fld w 10 5) (fld w 5 5))
  | 2 =>
    if lone = true ∨ ¬(w / 2 ^ 5 % 2 ^ 10 = 0) then .encoding
      else .ok (.recv (guardC w) (fld w 15 5))
  | 3 =>
    if lone = true ∨ ¬(w / 2 ^ 5 % 2 ^ 15 = 0) then .encoding
      else .ok (.waitm (guardC w))
  | 4 =>
    if lone = true ∨ ¬(w / 2 ^ 5 % 2 ^ 10 = 0) then .encoding
      else .ok (.mstat (guardC w) (fld w 15 5))
  | _ => .unassigned

/-- C-word major 0x2C (Table 3.8). -/
def decodeC2C (lone : Bool) (w _lit : Nat) : Decoded :=
  match w % 32 with
  | 0 =>
    if lone = true ∨ ¬(w / 2 ^ 16 % 2 ^ 4 = 0) then .encoding
      else .ok (.sstep (guardC w) (fld w 15 1) (fld w 10 5) (fld w 5 5))
  | 1 =>
    if lone = true then .encoding
      else .ok (.barj (guardC w) (fld w 15 5) (fld w 10 5) (fld w 5 5))
  | 2 =>
    if lone = true ∨ ¬(w / 2 ^ 8 % 2 ^ 7 = 0) then .encoding
      else .ok (.waite (guardC w) (fld w 15 5) (fld w 5 3))
  | 3 =>
    if lone = true ∨ ¬(w / 2 ^ 5 % 2 ^ 5 = 0) then .encoding
      else .ok (.sleep (guardC w) (fld w 15 5) (fld w 10 5))
  | _ => .unassigned

/-- C-word major 0x2D (Table 3.8). -/
def decodeC2D (lone : Bool) (w _lit : Nat) : Decoded :=
  match w % 32 with
  | 0 =>
    if lone = true then .encoding
      else .ok (.tspawn (guardC w) (fld w 15 5) (fld w 10 5) (fld w 5 5))
  | 1 =>
    if lone = true then .encoding
      else .ok (.tjoin (guardC w) (fld w 15 5) (fld w 10 5) (fld w 5 5))
  | 2 =>
    if lone = true ∨ ¬(w / 2 ^ 5 % 2 ^ 5 = 0) ∨ ¬(w / 2 ^ 15 % 2 ^ 5 = 0) then .encoding
      else .ok (.tdone (guardC w) (fld w 10 5))
  | _ => .unassigned

/-- C-word major 0x2E (Table 3.8). -/
def decodeC2E (lone : Bool) (w _lit : Nat) : Decoded :=
  match w % 32 with
  | 0 =>
    if lone = true then .encoding
      else .ok (.sprl (guardC w) (fld w 15 5) (fld w 10 5) (fld w 5 5))
  | 1 =>
    if lone = true ∨ ¬(w / 2 ^ 5 % 2 ^ 5 = 0) then .encoding
      else .ok (.sprx (guardC w) (fld w 15 5) (fld w 10 5))
  | _ => .unassigned

/-- C-word major 0x2F (Table 3.8). -/
def decodeC2F (lone : Bool) (w _lit : Nat) : Decoded :=
  match w % 32 with
  | 0 =>
    if lone = true ∨ ¬(w / 2 ^ 5 % 2 ^ 5 = 0) ∨ ¬(w / 2 ^ 15 % 2 ^ 5 = 0) then .encoding
      else .ok (.swrb (guardC w) (fld w 10 5))
  | 1 =>
    if lone = true ∨ ¬(w / 2 ^ 5 % 2 ^ 5 = 0) ∨ ¬(w / 2 ^ 15 % 2 ^ 5 = 0) then .encoding
      else .ok (.swmx (guardC w) (fld w 10 5))
  | _ => .unassigned

/-- C-word major 0x30 (Table 3.8). -/
def decodeC30 (lone : Bool) (w _lit : Nat) : Decoded :=
  match w % 32 with
  | 0 =>
    if lone = true ∨ ¬(w / 2 ^ 5 % 2 ^ 10 = 0) ∨ ¬(w / 2 ^ 17 % 2 ^ 3 = 0) ∨ w / 2 ^ 15 % 2 ^ 2 = 3 then .encoding
      else .ok (.gang (guardC w) (fld w 15 2))
  | 1 =>
    if lone = true ∨ ¬(w / 2 ^ 5 % 2 ^ 15 = 0) then .encoding
      else .ok (.ungang (guardC w))
  | _ => .unassigned

/-- A C-word, lone or paired (R65 to R69, R77, R78): checks 2 to 4, then the map. -/
def decodeC (lone : Bool) (w lit : Nat) : Decoded :=
  if w / 2 ^ 26 % 2 ^ 4 = 8 then .encoding
  else match w / 2 ^ 20 % 64 with
  | 0 => decodeC00 lone w lit
  | 1 => decodeC01 lone w lit
  | 2 => decodeC02 lone w lit
  | 3 => decodeC03 lone w lit
  | 4 => decodeC04 lone w lit
  | 5 => decodeC05 lone w lit
  | 6 => decodeC06 lone w lit
  | 7 => decodeC07 lone w lit
  | 8 => decodeC08 lone w lit
  | 9 => decodeC09 lone w lit
  | 10 => decodeC0A lone w lit
  | 11 => decodeC0B lone w lit
  | 12 => decodeC0C lone w lit
  | 13 => decodeC0D lone w lit
  | 14 => decodeC0E lone w lit
  | 15 => decodeC0F lone w lit
  | 16 => decodeC10 lone w lit
  | 17 => decodeC11 lone w lit
  | 18 => decodeC12 lone w lit
  | 19 => decodeC13 lone w lit
  | 20 => decodeC14 lone w lit
  | 21 => decodeC15 lone w lit
  | 22 => decodeC16 lone w lit
  | 23 => decodeC17 lone w lit
  | 24 => decodeC18 lone w lit
  | 25 => decodeC19 lone w lit
  | 26 => decodeC1A lone w lit
  | 27 => decodeC1B lone w lit
  | 32 => decodeC20 lone w lit
  | 33 => decodeC21 lone w lit
  | 34 => decodeC22 lone w lit
  | 35 => decodeC23 lone w lit
  | 36 => decodeC24 lone w lit
  | 37 => decodeC25 lone w lit
  | 38 => decodeC26 lone w lit
  | 39 => decodeC27 lone w lit
  | 40 => decodeC28 lone w lit
  | 41 => decodeC29 lone w lit
  | 42 => decodeC2A lone w lit
  | 43 => decodeC2B lone w lit
  | 44 => decodeC2C lone w lit
  | 45 => decodeC2D lone w lit
  | 46 => decodeC2E lone w lit
  | 47 => decodeC2F lone w lit
  | 48 => decodeC30 lone w lit
  | _ => .unassigned

/-- A-word major 0x00 (Table 3.9). -/
def decodeA00 (w : Nat) : Decoded :=
  match w % 16 with
  | 0 =>
    if ¬(w / 2 ^ 4 % 2 ^ 18 = 0) then .encoding
      else .ok (.anop (guardA w))
  | _ => .unassigned

/-- A-word major 0x01 (Table 3.9). -/
def decodeA01 (w : Nat) : Decoded :=
  match w % 16 with
  | 0 =>
    if 29 ≤ w / 2 ^ 17 % 2 ^ 5 ∨ 29 ≤ w / 2 ^ 12 % 2 ^ 5 ∨ 29 ≤ w / 2 ^ 7 % 2 ^ 5 ∨ w / 2 ^ 4 % 2 ^ 3 = 7 then .encoding
      else .ok (.vadd (guardA w) (fld w 17 5) (fld w 12 5) (fld w 7 5) (fld w 4 3))
  | 1 =>
    if 29 ≤ w / 2 ^ 17 % 2 ^ 5 ∨ 29 ≤ w / 2 ^ 12 % 2 ^ 5 ∨ 29 ≤ w / 2 ^ 7 % 2 ^ 5 ∨ w / 2 ^ 4 % 2 ^ 3 = 7 then .encoding
      else .ok (.vsub (guardA w) (fld w 17 5) (fld w 12 5) (fld w 7 5) (fld w 4 3))
  | 2 =>
    if 29 ≤ w / 2 ^ 17 % 2 ^ 5 ∨ 29 ≤ w / 2 ^ 12 % 2 ^ 5 ∨ 29 ≤ w / 2 ^ 7 % 2 ^ 5 ∨ w / 2 ^ 4 % 2 ^ 3 = 7 then .encoding
      else .ok (.vmul (guardA w) (fld w 17 5) (fld w 12 5) (fld w 7 5) (fld w 4 3))
  | 3 =>
    if 29 ≤ w / 2 ^ 17 % 2 ^ 5 ∨ 29 ≤ w / 2 ^ 12 % 2 ^ 5 ∨ 29 ≤ w / 2 ^ 7 % 2 ^ 5 ∨ w / 2 ^ 4 % 2 ^ 3 = 7 then .encoding
      else .ok (.vmulh (guardA w) (fld w 17 5) (fld w 12 5) (fld w 7 5) (fld w 4 3))
  | 4 =>
    if 29 ≤ w / 2 ^ 17 % 2 ^ 5 ∨ 29 ≤ w / 2 ^ 12 % 2 ^ 5 ∨ 29 ≤ w / 2 ^ 7 % 2 ^ 5 ∨ w / 2 ^ 4 % 2 ^ 3 = 7 then .encoding
      else .ok (.vmin (guardA w) (fld w 17 5) (fld w 12 5) (fld w 7 5) (fld w 4 3))
  | 5 =>
    if 29 ≤ w / 2 ^ 17 % 2 ^ 5 ∨ 29 ≤ w / 2 ^ 12 % 2 ^ 5 ∨ 29 ≤ w / 2 ^ 7 % 2 ^ 5 ∨ w / 2 ^ 4 % 2 ^ 3 = 7 then .encoding
      else .ok (.vmax (guardA w) (fld w 17 5) (fld w 12 5) (fld w 7 5) (fld w 4 3))
  | 6 =>
    if 29 ≤ w / 2 ^ 17 % 2 ^ 5 ∨ 29 ≤ w / 2 ^ 12 % 2 ^ 5 ∨ 29 ≤ w / 2 ^ 7 % 2 ^ 5 ∨ w / 2 ^ 4 % 2 ^ 3 = 7 then .encoding
      else .ok (.vand (guardA w) (fld w 17 5) (fld w 12 5) (fld w 7 5) (fld w 4 3))
  | 7 =>
    if 29 ≤ w / 2 ^ 17 % 2 ^ 5 ∨ 29 ≤ w / 2 ^ 12 % 2 ^ 5 ∨ 29 ≤ w / 2 ^ 7 % 2 ^ 5 ∨ w / 2 ^ 4 % 2 ^ 3 = 7 then .encoding
      else .ok (.vor (guardA w) (fld w 17 5) (fld w 12 5) (fld w 7 5) (fld w 4 3))
  | 8 =>
    if 29 ≤ w / 2 ^ 17 % 2 ^ 5 ∨ 29 ≤ w / 2 ^ 12 % 2 ^ 5 ∨ 29 ≤ w / 2 ^ 7 % 2 ^ 5 ∨ w / 2 ^ 4 % 2 ^ 3 = 7 then .encoding
      else .ok (.vxor (guardA w) (fld w 17 5) (fld w 12 5) (fld w 7 5) (fld w 4 3))
  | 9 =>
    if 29 ≤ w / 2 ^ 17 % 2 ^ 5 ∨ 29 ≤ w / 2 ^ 12 % 2 ^ 5 ∨ 29 ≤ w / 2 ^ 7 % 2 ^ 5 ∨ w / 2 ^ 4 % 2 ^ 3 = 7 then .encoding
      else .ok (.vshl (guardA w) (fld w 17 5) (fld w 12 5) (fld w 7 5) (fld w 4 3))
  | 10 =>
    if 29 ≤ w / 2 ^ 17 % 2 ^ 5 ∨ 29 ≤ w / 2 ^ 12 % 2 ^ 5 ∨ 29 ≤ w / 2 ^ 7 % 2 ^ 5 ∨ w / 2 ^ 4 % 2 ^ 3 = 7 then .encoding
      else .ok (.vshr (guardA w) (fld w 17 5) (fld w 12 5) (fld w 7 5) (fld w 4 3))
  | 11 =>
    if 29 ≤ w / 2 ^ 17 % 2 ^ 5 ∨ 29 ≤ w / 2 ^ 12 % 2 ^ 5 ∨ 29 ≤ w / 2 ^ 7 % 2 ^ 5 ∨ w / 2 ^ 4 % 2 ^ 3 = 7 then .encoding
      else .ok (.vsra (guardA w) (fld w 17 5) (fld w 12 5) (fld w 7 5) (fld w 4 3))
  | 12 =>
    if ¬(w / 2 ^ 7 % 2 ^ 5 = 0) ∨ 29 ≤ w / 2 ^ 17 % 2 ^ 5 ∨ 29 ≤ w / 2 ^ 12 % 2 ^ 5 ∨ w / 2 ^ 4 % 2 ^ 3 = 7 then .encoding
      else .ok (.vabs (guardA w) (fld w 17 5) (fld w 12 5) (fld w 4 3))
  | 13 =>
    if ¬(w / 2 ^ 7 % 2 ^ 5 = 0) ∨ 29 ≤ w / 2 ^ 17 % 2 ^ 5 ∨ 29 ≤ w / 2 ^ 12 % 2 ^ 5 ∨ w / 2 ^ 4 % 2 ^ 3 = 7 then .encoding
      else .ok (.vneg (guardA w) (fld w 17 5) (fld w 12 5) (fld w 4 3))
  | 14 =>
    if 29 ≤ w / 2 ^ 17 % 2 ^ 5 ∨ 29 ≤ w / 2 ^ 12 % 2 ^ 5 ∨ 29 ≤ w / 2 ^ 7 % 2 ^ 5 ∨ w / 2 ^ 4 % 2 ^ 3 = 7 then .encoding
      else .ok (.vadds (guardA w) (fld w 17 5) (fld w 12 5) (fld w 7 5) (fld w 4 3))
  | 15 =>
    if 29 ≤ w / 2 ^ 17 % 2 ^ 5 ∨ 29 ≤ w / 2 ^ 12 % 2 ^ 5 ∨ 29 ≤ w / 2 ^ 7 % 2 ^ 5 ∨ w / 2 ^ 4 % 2 ^ 3 = 7 then .encoding
      else .ok (.vsubs (guardA w) (fld w 17 5) (fld w 12 5) (fld w 7 5) (fld w 4 3))
  | _ => .unassigned

/-- A-word major 0x02 (Table 3.9). -/
def decodeA02 (w : Nat) : Decoded :=
  match w % 16 with
  | 0 =>
    if 29 ≤ w / 2 ^ 17 % 2 ^ 5 ∨ 29 ≤ w / 2 ^ 12 % 2 ^ 5 ∨ 29 ≤ w / 2 ^ 7 % 2 ^ 5 ∨ w / 2 ^ 4 % 2 ^ 3 = 7 then .encoding
      else .ok (.fadd (guardA w) (fld w 17 5) (fld w 12 5) (fld w 7 5) (fld w 4 3))
  | 1 =>
    if 29 ≤ w / 2 ^ 17 % 2 ^ 5 ∨ 29 ≤ w / 2 ^ 12 % 2 ^ 5 ∨ 29 ≤ w / 2 ^ 7 % 2 ^ 5 ∨ w / 2 ^ 4 % 2 ^ 3 = 7 then .encoding
      else .ok (.fsub (guardA w) (fld w 17 5) (fld w 12 5) (fld w 7 5) (fld w 4 3))
  | 2 =>
    if 29 ≤ w / 2 ^ 17 % 2 ^ 5 ∨ 29 ≤ w / 2 ^ 12 % 2 ^ 5 ∨ 29 ≤ w / 2 ^ 7 % 2 ^ 5 ∨ w / 2 ^ 4 % 2 ^ 3 = 7 then .encoding
      else .ok (.fmul (guardA w) (fld w 17 5) (fld w 12 5) (fld w 7 5) (fld w 4 3))
  | 3 =>
    if 29 ≤ w / 2 ^ 17 % 2 ^ 5 ∨ 29 ≤ w / 2 ^ 12 % 2 ^ 5 ∨ 29 ≤ w / 2 ^ 7 % 2 ^ 5 ∨ w / 2 ^ 4 % 2 ^ 3 = 7 then .encoding
      else .ok (.fmin (guardA w) (fld w 17 5) (fld w 12 5) (fld w 7 5) (fld w 4 3))
  | 4 =>
    if 29 ≤ w / 2 ^ 17 % 2 ^ 5 ∨ 29 ≤ w / 2 ^ 12 % 2 ^ 5 ∨ 29 ≤ w / 2 ^ 7 % 2 ^ 5 ∨ w / 2 ^ 4 % 2 ^ 3 = 7 then .encoding
      else .ok (.fmax (guardA w) (fld w 17 5) (fld w 12 5) (fld w 7 5) (fld w 4 3))
  | 5 =>
    if ¬(w / 2 ^ 7 % 2 ^ 5 = 0) ∨ 29 ≤ w / 2 ^ 17 % 2 ^ 5 ∨ 29 ≤ w / 2 ^ 12 % 2 ^ 5 ∨ w / 2 ^ 4 % 2 ^ 3 = 7 then .encoding
      else .ok (.fabs (guardA w) (fld w 17 5) (fld w 12 5) (fld w 4 3))
  | 6 =>
    if ¬(w / 2 ^ 7 % 2 ^ 5 = 0) ∨ 29 ≤ w / 2 ^ 17 % 2 ^ 5 ∨ 29 ≤ w / 2 ^ 12 % 2 ^ 5 ∨ w / 2 ^ 4 % 2 ^ 3 = 7 then .encoding
      else .ok (.fneg (guardA w) (fld w 17 5) (fld w 12 5) (fld w 4 3))
  | 7 =>
    if 29 ≤ w / 2 ^ 17 % 2 ^ 5 ∨ 29 ≤ w / 2 ^ 12 % 2 ^ 5 ∨ 29 ≤ w / 2 ^ 7 % 2 ^ 5 ∨ w / 2 ^ 4 % 2 ^ 3 = 7 then .encoding
      else .ok (.ffma (guardA w) (fld w 17 5) (fld w 12 5) (fld w 7 5) (fld w 4 3))
  | _ => .unassigned

/-- A-word major 0x03 (Table 3.9). -/
def decodeA03 (w : Nat) : Decoded :=
  match w % 16 with
  | 0 =>
    if 29 ≤ w / 2 ^ 17 % 2 ^ 5 ∨ 29 ≤ w / 2 ^ 12 % 2 ^ 5 ∨ 29 ≤ w / 2 ^ 7 % 2 ^ 5 ∨ w / 2 ^ 4 % 2 ^ 3 = 7 then .encoding
      else .ok (.vcmpEq (guardA w) (fld w 17 5) (fld w 12 5) (fld w 7 5) (fld w 4 3))
  | 1 =>
    if 29 ≤ w / 2 ^ 17 % 2 ^ 5 ∨ 29 ≤ w / 2 ^ 12 % 2 ^ 5 ∨ 29 ≤ w / 2 ^ 7 % 2 ^ 5 ∨ w / 2 ^ 4 % 2 ^ 3 = 7 then .encoding
      else .ok (.vcmpNe (guardA w) (fld w 17 5) (fld w 12 5) (fld w 7 5) (fld w 4 3))
  | 2 =>
    if 29 ≤ w / 2 ^ 17 % 2 ^ 5 ∨ 29 ≤ w / 2 ^ 12 % 2 ^ 5 ∨ 29 ≤ w / 2 ^ 7 % 2 ^ 5 ∨ w / 2 ^ 4 % 2 ^ 3 = 7 then .encoding
      else .ok (.vcmpLt (guardA w) (fld w 17 5) (fld w 12 5) (fld w 7 5) (fld w 4 3))
  | 3 =>
    if 29 ≤ w / 2 ^ 17 % 2 ^ 5 ∨ 29 ≤ w / 2 ^ 12 % 2 ^ 5 ∨ 29 ≤ w / 2 ^ 7 % 2 ^ 5 ∨ w / 2 ^ 4 % 2 ^ 3 = 7 then .encoding
      else .ok (.vcmpLe (guardA w) (fld w 17 5) (fld w 12 5) (fld w 7 5) (fld w 4 3))
  | 4 =>
    if 29 ≤ w / 2 ^ 17 % 2 ^ 5 ∨ 29 ≤ w / 2 ^ 12 % 2 ^ 5 ∨ 29 ≤ w / 2 ^ 7 % 2 ^ 5 ∨ w / 2 ^ 4 % 2 ^ 3 = 7 then .encoding
      else .ok (.vcmpGt (guardA w) (fld w 17 5) (fld w 12 5) (fld w 7 5) (fld w 4 3))
  | 5 =>
    if 29 ≤ w / 2 ^ 17 % 2 ^ 5 ∨ 29 ≤ w / 2 ^ 12 % 2 ^ 5 ∨ 29 ≤ w / 2 ^ 7 % 2 ^ 5 ∨ w / 2 ^ 4 % 2 ^ 3 = 7 then .encoding
      else .ok (.vcmpGe (guardA w) (fld w 17 5) (fld w 12 5) (fld w 7 5) (fld w 4 3))
  | 6 =>
    if 29 ≤ w / 2 ^ 17 % 2 ^ 5 ∨ 29 ≤ w / 2 ^ 12 % 2 ^ 5 ∨ 29 ≤ w / 2 ^ 7 % 2 ^ 5 ∨ w / 2 ^ 4 % 2 ^ 3 = 7 then .encoding
      else .ok (.vcmpOrd (guardA w) (fld w 17 5) (fld w 12 5) (fld w 7 5) (fld w 4 3))
  | 7 =>
    if 29 ≤ w / 2 ^ 17 % 2 ^ 5 ∨ 29 ≤ w / 2 ^ 12 % 2 ^ 5 ∨ 29 ≤ w / 2 ^ 7 % 2 ^ 5 ∨ w / 2 ^ 4 % 2 ^ 3 = 7 then .encoding
      else .ok (.vcmpUno (guardA w) (fld w 17 5) (fld w 12 5) (fld w 7 5) (fld w 4 3))
  | 8 =>
    if ¬(w / 2 ^ 7 % 2 ^ 5 = 0) ∨ ¬(w / 2 ^ 20 % 2 ^ 2 = 0) ∨ 29 ≤ w / 2 ^ 12 % 2 ^ 5 ∨ w / 2 ^ 4 % 2 ^ 3 = 7 then .encoding
      else .ok (.vtestAny (guardA w) (fld w 17 3) (fld w 12 5) (fld w 4 3))
  | 9 =>
    if ¬(w / 2 ^ 7 % 2 ^ 5 = 0) ∨ ¬(w / 2 ^ 20 % 2 ^ 2 = 0) ∨ 29 ≤ w / 2 ^ 12 % 2 ^ 5 ∨ w / 2 ^ 4 % 2 ^ 3 = 7 then .encoding
      else .ok (.vtestAll (guardA w) (fld w 17 3) (fld w 12 5) (fld w 4 3))
  | 10 =>
    if ¬(w / 2 ^ 4 % 2 ^ 3 = 0) ∨ 29 ≤ w / 2 ^ 17 % 2 ^ 5 ∨ 29 ≤ w / 2 ^ 12 % 2 ^ 5 ∨ 29 ≤ w / 2 ^ 7 % 2 ^ 5 then .encoding
      else .ok (.vsel (guardA w) (fld w 17 5) (fld w 12 5) (fld w 7 5))
  | _ => .unassigned

/-- A-word major 0x04 (Table 3.9). -/
def decodeA04 (w : Nat) : Decoded :=
  match w % 16 with
  | 0 =>
    if ¬(w / 2 ^ 7 % 2 ^ 5 = 0) ∨ 29 ≤ w / 2 ^ 17 % 2 ^ 5 ∨ 29 ≤ w / 2 ^ 12 % 2 ^ 5 ∨ w / 2 ^ 4 % 2 ^ 3 = 7 then .encoding
      else .ok (.frcp (guardA w) (fld w 17 5) (fld w 12 5) (fld w 4 3))
  | 1 =>
    if ¬(w / 2 ^ 7 % 2 ^ 5 = 0) ∨ 29 ≤ w / 2 ^ 17 % 2 ^ 5 ∨ 29 ≤ w / 2 ^ 12 % 2 ^ 5 ∨ w / 2 ^ 4 % 2 ^ 3 = 7 then .encoding
      else .ok (.frsq (guardA w) (fld w 17 5) (fld w 12 5) (fld w 4 3))
  | 2 =>
    if ¬(w / 2 ^ 7 % 2 ^ 5 = 0) ∨ 29 ≤ w / 2 ^ 17 % 2 ^ 5 ∨ 29 ≤ w / 2 ^ 12 % 2 ^ 5 ∨ w / 2 ^ 4 % 2 ^ 3 = 7 then .encoding
      else .ok (.fsqrt (guardA w) (fld w 17 5) (fld w 12 5) (fld w 4 3))
  | 3 =>
    if ¬(w / 2 ^ 7 % 2 ^ 5 = 0) ∨ 29 ≤ w / 2 ^ 17 % 2 ^ 5 ∨ 29 ≤ w / 2 ^ 12 % 2 ^ 5 ∨ w / 2 ^ 4 % 2 ^ 3 = 7 then .encoding
      else .ok (.fexp2 (guardA w) (fld w 17 5) (fld w 12 5) (fld w 4 3))
  | 4 =>
    if ¬(w / 2 ^ 7 % 2 ^ 5 = 0) ∨ 29 ≤ w / 2 ^ 17 % 2 ^ 5 ∨ 29 ≤ w / 2 ^ 12 % 2 ^ 5 ∨ w / 2 ^ 4 % 2 ^ 3 = 7 then .encoding
      else .ok (.flog2 (guardA w) (fld w 17 5) (fld w 12 5) (fld w 4 3))
  | 5 =>
    if ¬(w / 2 ^ 7 % 2 ^ 5 = 0) ∨ 29 ≤ w / 2 ^ 17 % 2 ^ 5 ∨ 29 ≤ w / 2 ^ 12 % 2 ^ 5 ∨ w / 2 ^ 4 % 2 ^ 3 = 7 then .encoding
      else .ok (.ftanh (guardA w) (fld w 17 5) (fld w 12 5) (fld w 4 3))
  | _ => .unassigned

/-- A-word major 0x05 (Table 3.9). -/
def decodeA05 (w : Nat) : Decoded :=
  match w % 16 with
  | 0 =>
    if 29 ≤ w / 2 ^ 17 % 2 ^ 5 ∨ 29 ≤ w / 2 ^ 12 % 2 ^ 5 ∨ w / 2 ^ 7 % 2 ^ 3 = 7 ∨ w / 2 ^ 4 % 2 ^ 3 = 7 then .encoding
      else .ok (.vcvt (guardA w) (fld w 17 5) (fld w 12 5) (fld w 10 2) (fld w 7 3) (fld w 4 3))
  | 1 =>
    if 29 ≤ w / 2 ^ 17 % 2 ^ 5 ∨ 29 ≤ w / 2 ^ 12 % 2 ^ 5 ∨ w / 2 ^ 4 % 2 ^ 3 = 7 then .encoding
      else .ok (.vqnt (guardA w) (fld w 17 5) (fld w 12 5) (fld w 7 5) (fld w 4 3))
  | 2 =>
    if 29 ≤ w / 2 ^ 17 % 2 ^ 5 ∨ 29 ≤ w / 2 ^ 12 % 2 ^ 5 ∨ w / 2 ^ 4 % 2 ^ 3 = 7 then .encoding
      else .ok (.vdq (guardA w) (fld w 17 5) (fld w 12 5) (fld w 7 5) (fld w 4 3))
  | 3 =>
    if ¬(w / 2 ^ 4 % 2 ^ 3 = 0) ∨ 29 ≤ w / 2 ^ 17 % 2 ^ 5 ∨ 29 ≤ w / 2 ^ 12 % 2 ^ 5 ∨ 29 ≤ w / 2 ^ 7 % 2 ^ 5 then .encoding
      else .ok (.vpack (guardA w) (fld w 17 5) (fld w 12 5) (fld w 7 5))
  | 4 =>
    if ¬(w / 2 ^ 4 % 2 ^ 3 = 0) ∨ 29 ≤ w / 2 ^ 17 % 2 ^ 5 ∨ 29 ≤ w / 2 ^ 12 % 2 ^ 5 then .encoding
      else .ok (.vunpk (guardA w) (fld w 17 5) (fld w 12 5) (fld w 7 5))
  | _ => .unassigned

/-- A-word major 0x06 (Table 3.9). -/
def decodeA06 (w : Nat) : Decoded :=
  match w % 16 with
  | 0 =>
    if ¬(w / 2 ^ 7 % 2 ^ 5 = 0) ∨ 29 ≤ w / 2 ^ 17 % 2 ^ 5 ∨ 29 ≤ w / 2 ^ 12 % 2 ^ 5 ∨ w / 2 ^ 4 % 2 ^ 3 = 7 then .encoding
      else .ok (.vrsum (guardA w) (fld w 17 5) (fld w 12 5) (fld w 4 3))
  | 1 =>
    if ¬(w / 2 ^ 7 % 2 ^ 5 = 0) ∨ 29 ≤ w / 2 ^ 17 % 2 ^ 5 ∨ 29 ≤ w / 2 ^ 12 % 2 ^ 5 ∨ w / 2 ^ 4 % 2 ^ 3 = 7 then .encoding
      else .ok (.vrmax (guardA w) (fld w 17 5) (fld w 12 5) (fld w 4 3))
  | 2 =>
    if ¬(w / 2 ^ 7 % 2 ^ 5 = 0) ∨ 29 ≤ w / 2 ^ 17 % 2 ^ 5 ∨ 29 ≤ w / 2 ^ 12 % 2 ^ 5 ∨ w / 2 ^ 4 % 2 ^ 3 = 7 then .encoding
      else .ok (.vrmin (guardA w) (fld w 17 5) (fld w 12 5) (fld w 4 3))
  | 3 =>
    if 29 ≤ w / 2 ^ 17 % 2 ^ 5 ∨ 29 ≤ w / 2 ^ 12 % 2 ^ 5 ∨ 29 ≤ w / 2 ^ 7 % 2 ^ 5 ∨ w / 2 ^ 4 % 2 ^ 3 = 7 then .encoding
      else .ok (.vtopk (guardA w) (fld w 17 5) (fld w 12 5) (fld w 7 5) (fld w 4 3))
  | 4 =>
    if 29 ≤ w / 2 ^ 17 % 2 ^ 5 ∨ 29 ≤ w / 2 ^ 12 % 2 ^ 5 ∨ 29 ≤ w / 2 ^ 7 % 2 ^ 5 ∨ w / 2 ^ 4 % 2 ^ 3 = 7 then .encoding
      else .ok (.vshuf (guardA w) (fld w 17 5) (fld w 12 5) (fld w 7 5) (fld w 4 3))
  | 5 =>
    if 29 ≤ w / 2 ^ 17 % 2 ^ 5 ∨ 29 ≤ w / 2 ^ 12 % 2 ^ 5 ∨ w / 2 ^ 4 % 2 ^ 3 = 7 then .encoding
      else .ok (.vbcst (guardA w) (fld w 17 5) (fld w 12 5) (fld w 7 5) (fld w 4 3))
  | 6 =>
    if 29 ≤ w / 2 ^ 17 % 2 ^ 5 ∨ 29 ≤ w / 2 ^ 12 % 2 ^ 5 ∨ w / 2 ^ 4 % 2 ^ 3 = 7 then .encoding
      else .ok (.vslide (guardA w) (fld w 17 5) (fld w 12 5) (fld w 7 5) (fld w 4 3))
  | 7 =>
    if ¬(w / 2 ^ 7 % 2 ^ 5 = 0) ∨ 29 ≤ w / 2 ^ 17 % 2 ^ 5 ∨ 29 ≤ w / 2 ^ 12 % 2 ^ 5 ∨ w / 2 ^ 4 % 2 ^ 3 = 7 then .encoding
      else .ok (.vidx (guardA w) (fld w 17 5) (fld w 12 5) (fld w 4 3))
  | _ => .unassigned

/-- A-word major 0x07 (Table 3.9). -/
def decodeA07 (w : Nat) : Decoded :=
  match w % 16 with
  | 0 =>
    if ¬(w / 2 ^ 9 % 2 ^ 3 = 0) ∨ 29 ≤ w / 2 ^ 17 % 2 ^ 5 ∨ 29 ≤ w / 2 ^ 12 % 2 ^ 5 ∨ w / 2 ^ 4 % 2 ^ 3 = 7 then .encoding
      else .ok (.vrng (guardA w) (fld w 17 5) (fld w 12 5) (fld w 7 2) (fld w 4 3))
  | _ => .unassigned

/-- A-word major 0x08 (Table 3.9). -/
def decodeA08 (w : Nat) : Decoded :=
  match w % 16 with
  | 0 =>
    if ¬(w / 2 ^ 4 % 2 ^ 8 = 0) ∨ 29 ≤ w / 2 ^ 17 % 2 ^ 5 ∨ 29 ≤ w / 2 ^ 12 % 2 ^ 5 then .encoding
      else .ok (.vmov (guardA w) (fld w 17 5) (fld w 12 5))
  | _ => .unassigned

/-- A-word major 0x09 (Table 3.9). -/
def decodeA09 (w : Nat) : Decoded :=
  match w % 16 with
  | 0 =>
    if ¬(w / 2 ^ 4 % 2 ^ 6 = 0) then .encoding
      else .ok (.mldb (guardA w) (fld w 21 1) (fld w 14 7) (fld w 13 1) (fld w 10 3))
  | 1 =>
    if ¬(w / 2 ^ 4 % 2 ^ 16 = 0) ∨ w / 2 ^ 20 % 2 ^ 2 = 3 then .encoding
      else .ok (.mswp (guardA w) (fld w 20 2))
  | 2 =>
    if ¬(w / 2 ^ 4 % 2 ^ 3 = 0) then .encoding
      else .ok (.mma (guardA w) (fld w 18 4) (fld w 17 1) (fld w 10 7) (fld w 7 3))
  | 3 =>
    if ¬(w / 2 ^ 4 % 2 ^ 2 = 0) then .encoding
      else .ok (.macz (guardA w) (fld w 6 16))
  | 4 =>
    if ¬(w / 2 ^ 4 % 2 ^ 7 = 0) ∨ 29 ≤ w / 2 ^ 17 % 2 ^ 5 then .encoding
      else .ok (.mrd (guardA w) (fld w 17 5) (fld w 13 4) (fld w 12 1) (fld w 11 1))
  | 5 =>
    if ¬(w / 2 ^ 4 % 2 ^ 8 = 0) ∨ 29 ≤ w / 2 ^ 17 % 2 ^ 5 ∨ 29 ≤ w / 2 ^ 12 % 2 ^ 5 then .encoding
      else .ok (.mcfg (guardA w) (fld w 17 5) (fld w 12 5))
  | _ => .unassigned

/-- An A-word (R70 to R72, R77, R78). -/
def decodeA (w : Nat) : Decoded :=
  if w / 2 ^ 28 % 2 ^ 4 = 8 then .encoding
  else match w / 2 ^ 22 % 64 with
  | 0 => decodeA00 w
  | 1 => decodeA01 w
  | 2 => decodeA02 w
  | 3 => decodeA03 w
  | 4 => decodeA04 w
  | 5 => decodeA05 w
  | 6 => decodeA06 w
  | 7 => decodeA07 w
  | 8 => decodeA08 w
  | 9 => decodeA09 w
  | _ => .unassigned

/-- A tile instruction (R73, R151, Tables 3.9 and 6.7): word 0 and PARAM. -/
def decodeT (w param : Nat) : Decoded :=
  if w / 2 ^ 4 % 2 ^ 4 = 8 then .encoding
  else match w / 2 ^ 24 % 64 with
  | 0 =>
    if ¬(w / 2 ^ 20 % 2 ^ 4 = 0) ∨ ¬(w / 2 ^ 16 % 2 ^ 4 = 0) ∨ ¬(w / 2 ^ 12 % 2 ^ 4 = 0) ∨ ¬(w / 2 ^ 8 % 2 ^ 4 = 0) then .encoding
    else if w % 16 = 0 then .ok (.tshape (guardT w) (BitVec.ofNat 32 param)) else .unassigned
  | 1 =>
    if ¬(w / 2 ^ 12 % 2 ^ 4 = 0) ∨ ¬(w / 2 ^ 8 % 2 ^ 4 = 0) ∨ (w % 16 = 0 ∧ ¬(w / 2 ^ 16 % 2 ^ 4 = 0)) then .encoding
    else if w % 16 < 2 then .ok (.tbind (guardT w) (fld w 20 4) (fld w 16 4) (fld w 0 4) (BitVec.ofNat 32 param)) else .unassigned
  | 2 =>
    .ok (.tmma (guardT w) (fld w 20 4) (fld w 16 4) (fld w 12 4) (fld w 8 4) (fld w 0 4) (BitVec.ofNat 32 param))
  | 3 =>
    if ¬(w / 2 ^ 8 % 2 ^ 4 = 0) then .encoding
    else .ok (.tmm (guardT w) (fld w 20 4) (fld w 16 4) (fld w 12 4) (fld w 0 4) (BitVec.ofNat 32 param))
  | 4 =>
    if ¬(w / 2 ^ 8 % 2 ^ 4 = 0) ∨ (w % 16 = 5 ∧ ¬(w / 2 ^ 12 % 2 ^ 4 = 0)) then .encoding
    else if w % 16 < 6 then .ok (.tew (guardT w) (fld w 20 4) (fld w 16 4) (fld w 12 4) (fld w 0 4) (BitVec.ofNat 32 param)) else .unassigned
  | 5 =>
    if ¬(w / 2 ^ 12 % 2 ^ 4 = 0) ∨ ¬(w / 2 ^ 8 % 2 ^ 4 = 0) then .encoding
    else if w % 16 < 4 then .ok (.tcvt (guardT w) (fld w 20 4) (fld w 16 4) (fld w 0 4) (BitVec.ofNat 32 param)) else .unassigned
  | 6 =>
    if ¬(w / 2 ^ 12 % 2 ^ 4 = 0) ∨ ¬(w / 2 ^ 8 % 2 ^ 4 = 0) then .encoding
    else if w % 16 < 12 then .ok (.tred (guardT w) (fld w 20 4) (fld w 16 4) (fld w 0 4) (BitVec.ofNat 32 param)) else .unassigned
  | 7 =>
    if ¬(w / 2 ^ 12 % 2 ^ 4 = 0) ∨ (w / 2 % 2 = 0 ∧ ¬(w / 2 ^ 8 % 2 ^ 4 = 0)) then .encoding
    else if w % 16 < 4 then .ok (.ttopk (guardT w) (fld w 20 4) (fld w 16 4) (fld w 8 4) (fld w 0 4) (BitVec.ofNat 32 param)) else .unassigned
  | 8 =>
    if ¬(w / 2 ^ 12 % 2 ^ 4 = 0) ∨ ¬(w / 2 ^ 8 % 2 ^ 4 = 0) then .encoding
    else if w % 16 = 0 then .ok (.tcopy (guardT w) (fld w 20 4) (fld w 16 4) (BitVec.ofNat 32 param)) else .unassigned
  | 9 =>
    if ¬(w / 2 ^ 16 % 2 ^ 4 = 0) ∨ ¬(w / 2 ^ 12 % 2 ^ 4 = 0) ∨ ¬(w / 2 ^ 8 % 2 ^ 4 = 0) then .encoding
    else if w % 16 < 2 then .ok (.tfill (guardT w) (fld w 20 4) (fld w 0 4) (BitVec.ofNat 32 param)) else .unassigned
  | 10 =>
    if ¬(w / 2 ^ 12 % 2 ^ 4 = 0) ∨ ¬(w / 2 ^ 8 % 2 ^ 4 = 0) then .encoding
    else .ok (.ttrans (guardT w) (fld w 20 4) (fld w 16 4) (fld w 0 4) (BitVec.ofNat 32 param))
  | 11 =>
    if ¬(w / 2 ^ 12 % 2 ^ 4 = 0) ∨ (w / 2 % 2 = 0 ∧ ¬(w / 2 ^ 8 % 2 ^ 4 = 0)) then .encoding
    else if w % 16 < 4 then .ok (.tdrop (guardT w) (fld w 20 4) (fld w 16 4) (fld w 8 4) (fld w 0 4) (BitVec.ofNat 32 param)) else .unassigned
  | 12 =>
    if ¬(w / 2 ^ 20 % 2 ^ 4 = 0) ∨ ¬(w / 2 ^ 16 % 2 ^ 4 = 0) ∨ ¬(w / 2 ^ 12 % 2 ^ 4 = 0) ∨ ¬(w / 2 ^ 8 % 2 ^ 4 = 0) then .encoding
    else if w % 16 < 5 then .ok (.tsync (guardT w) (fld w 0 4) (BitVec.ofNat 32 param))
    else if w % 16 = 8 then .ok (.tsyncDrop (guardT w) (BitVec.ofNat 32 param))
    else .unassigned
  | 13 =>
    if ¬(w / 2 ^ 12 % 2 ^ 4 = 0) ∨ ¬(w / 2 ^ 8 % 2 ^ 4 = 0) then .encoding
    else if w % 16 < 2 then .ok (.tcoll (guardT w) (fld w 20 4) (fld w 16 4) (fld w 0 4) (BitVec.ofNat 32 param)) else .unassigned
  | _ => .unassigned

/-- A bundle of 64 bits (R65, Table 3.1): its C-word or tile instruction. Form 0b11 fails check 1. -/
def decodeBundle (w0 w1 : Nat) : Decoded :=
  match w0 / 2 ^ 30 % 4 with
  | 0 => decodeC false w0 w1
  | 1 => decodeC true w0 w1
  | 2 => decodeT w0 w1
  | _ => .encoding

/-- What the encoder writes: the two words of a bundle for a C-word or a tile instruction, one A-word, or
nothing for an operation that has no encoding. -/
inductive Encoded where
  | bundle (w0 w1 : Nat)
  | aWord (w : Nat)
  | none
  deriving DecidableEq, Repr

/-- The bits a guard adds to a word, N at 2^`n` and the predicate at 2^`p` (R86, R119, Table 3.6). -/
def Guard.bits (g : Guard) (n p : Nat) : Nat := g.neg.toNat * 2 ^ n + g.pred.toNat * 2 ^ p

/-- The bits an immediate adds to word 0: its field at 2^`lo`, or the lone form (R86). -/
def Imm.bits {n : Nat} (i : Imm n) (lo : Nat) : Nat :=
  match i with
  | .fld v => v.toNat * 2 ^ lo
  | .lone _ => 2 ^ 30

/-- Word 1 that an immediate gives: the literal of the lone form, or ANOP. -/
def Imm.word1 {n : Nat} (i : Imm n) : Nat :=
  match i with
  | .fld _ => 0
  | .lone v => v.toNat

/-- A field's contribution to a word. -/
def up {n : Nat} (v : BitVec n) (lo : Nat) : Nat := v.toNat * 2 ^ lo

/-- A base and the sum of its fields' contributions. -/
def fields (base : Nat) : List Nat → Nat
  | [] => base
  | x :: r => x + fields base r

/-- A C-word's bundle: the base of Table 3.8, the guard, the fields, and word 1. -/
def encodeC (base : Nat) (g : Guard) (fs : List Nat) (w1 : Nat) : Encoded :=
  .bundle (fields base (g.bits 29 26 :: fs)) w1

/-- An A-word: the base of Table 3.9, the guard and the fields. -/
def encodeA (base : Nat) (g : Guard) (fs : List Nat) : Encoded := .aWord (fields base (g.bits 31 28 :: fs))

/-- A tile instruction's bundle: the base of Table 6.7, the guard, the handles and mode, and PARAM. -/
def encodeT (base : Nat) (g : Guard) (fs : List Nat) (param : BitVec 32) : Encoded :=
  .bundle (fields base (g.bits 7 4 :: fs)) param.toNat

/-- The words of an instruction, from the bases and field places of Tables 3.2, 3.8, 5.1, 6.1, 6.7 and 7.1. -/
def encode : Instr → Encoded
  | .nop g => encodeC 0x00000000 g [] 0
  | .halt g => encodeC 0x00000001 g [] 0
  | .trap g c => encodeC 0x00000002 g [up c 5] 0
  | .tret g => encodeC 0x00000003 g [] 0
  | .ebrk g c => encodeC 0x00000004 g [up c 5] 0
  | .wpsw g d a => encodeC 0x00000005 g [up d 15, up a 10] 0
  | .yield g => encodeC 0x00000006 g [] 0
  | .csrr g d c => encodeC 0x00100000 g [up d 15, up c 0] 0
  | .csrw g d a c => encodeC 0x00200000 g [up d 15, up a 10, up c 0] 0
  | .csrs g d a c => encodeC 0x00300000 g [up d 15, up a 10, up c 0] 0
  | .csrc g d a c => encodeC 0x00400000 g [up d 15, up a 10, up c 0] 0
  | .add g d a b => encodeC 0x00500000 g [up d 15, up a 10, up b 5] 0
  | .sub g d a b => encodeC 0x00500001 g [up d 15, up a 10, up b 5] 0
  | .and g d a b => encodeC 0x00500002 g [up d 15, up a 10, up b 5] 0
  | .or g d a b => encodeC 0x00500003 g [up d 15, up a 10, up b 5] 0
  | .xor g d a b => encodeC 0x00500004 g [up d 15, up a 10, up b 5] 0
  | .andn g d a b => encodeC 0x00500005 g [up d 15, up a 10, up b 5] 0
  | .shl g d a b => encodeC 0x00500006 g [up d 15, up a 10, up b 5] 0
  | .shr g d a b => encodeC 0x00500007 g [up d 15, up a 10, up b 5] 0
  | .sra g d a b => encodeC 0x00500008 g [up d 15, up a 10, up b 5] 0
  | .rol g d a b => encodeC 0x00500009 g [up d 15, up a 10, up b 5] 0
  | .mul g d a b => encodeC 0x0050000A g [up d 15, up a 10, up b 5] 0
  | .mulh g d a b => encodeC 0x0050000B g [up d 15, up a 10, up b 5] 0
  | .mulhu g d a b => encodeC 0x0050000C g [up d 15, up a 10, up b 5] 0
  | .div g d a b => encodeC 0x0050000D g [up d 15, up a 10, up b 5] 0
  | .divu g d a b => encodeC 0x0050000E g [up d 15, up a 10, up b 5] 0
  | .rem g d a b => encodeC 0x0050000F g [up d 15, up a 10, up b 5] 0
  | .remu g d a b => encodeC 0x00500010 g [up d 15, up a 10, up b 5] 0
  | .min g d a b => encodeC 0x00500011 g [up d 15, up a 10, up b 5] 0
  | .max g d a b => encodeC 0x00500012 g [up d 15, up a 10, up b 5] 0
  | .minu g d a b => encodeC 0x00500013 g [up d 15, up a 10, up b 5] 0
  | .maxu g d a b => encodeC 0x00500014 g [up d 15, up a 10, up b 5] 0
  | .slt g d a b => encodeC 0x00500015 g [up d 15, up a 10, up b 5] 0
  | .sltu g d a b => encodeC 0x00500016 g [up d 15, up a 10, up b 5] 0
  | .clz g d a => encodeC 0x00500017 g [up d 15, up a 10] 0
  | .ctz g d a => encodeC 0x00500018 g [up d 15, up a 10] 0
  | .popc g d a => encodeC 0x00500019 g [up d 15, up a 10] 0
  | .addi g d a i => encodeC 0x00600000 g [up d 15, up a 10, i.bits 0] i.word1
  | .andi g d a i => encodeC 0x00700000 g [up d 15, up a 10, i.bits 0] i.word1
  | .ori g d a i => encodeC 0x00800000 g [up d 15, up a 10, i.bits 0] i.word1
  | .xori g d a i => encodeC 0x00900000 g [up d 15, up a 10, i.bits 0] i.word1
  | .shli g d a s => encodeC 0x00A00000 g [up d 15, up a 10, up s 0] 0
  | .shri g d a s => encodeC 0x00A00100 g [up d 15, up a 10, up s 0] 0
  | .srai g d a s => encodeC 0x00A00200 g [up d 15, up a 10, up s 0] 0
  | .roli g d a s => encodeC 0x00A00300 g [up d 15, up a 10, up s 0] 0
  | .slti g d a i => encodeC 0x00B00000 g [up d 15, up a 10, i.bits 0] i.word1
  | .ldi g d i => encodeC 0x00C00000 g [up d 15, i.bits 0] i.word1
  | .ldih g d i => encodeC 0x00D00000 g [up d 15, i.bits 0] i.word1
  | .pset g d a b c => encodeC 0x00E00000 g [up d 17, up a 12, b.bits 7, up c 4] b.word1
  | .plogAnd g d a b => encodeC 0x00F00000 g [up d 17, up a 14, up b 11] 0
  | .plogOr g d a b => encodeC 0x00F00001 g [up d 17, up a 14, up b 11] 0
  | .plogXor g d a b => encodeC 0x00F00002 g [up d 17, up a 14, up b 11] 0
  | .plogAndn g d a b => encodeC 0x00F00003 g [up d 17, up a 14, up b 11] 0
  | .plogNot g d a => encodeC 0x00F00004 g [up d 17, up a 14] 0
  | .br g i => encodeC 0x01000000 g [i.bits 0] i.word1
  | .call g i => encodeC 0x01100000 g [i.bits 0] i.word1
  | .jmpr g d a => encodeC 0x01200000 g [up d 15, up a 10] 0
  | .beq g a b i => encodeC 0x01300000 g [up a 15, up b 10, i.bits 0] i.word1
  | .bne g a b i => encodeC 0x01400000 g [up a 15, up b 10, i.bits 0] i.word1
  | .blt g a b i => encodeC 0x01500000 g [up a 15, up b 10, i.bits 0] i.word1
  | .bge g a b i => encodeC 0x01600000 g [up a 15, up b 10, i.bits 0] i.word1
  | .bltu g a b i => encodeC 0x01700000 g [up a 15, up b 10, i.bits 0] i.word1
  | .bgeu g a b i => encodeC 0x01800000 g [up a 15, up b 10, i.bits 0] i.word1
  | .bp g m q i => encodeC 0x01900000 g [up m 19, up q 16, i.bits 0] i.word1
  | .loop g a l => encodeC 0x01A00000 g [up a 15, l.bits 0] l.word1
  | .rpt g k c s => encodeC 0x01B00000 g [up k 16, up c 8, up s 4] 0
  | .repeatMarker => .none
  | .ld g d a z i => encodeC 0x02000000 g [up d 15, up a 10, up z 7, i.bits 0] i.word1
  | .st g s a z i => encodeC 0x02100000 g [up s 15, up a 10, up z 7, i.bits 0] i.word1
  | .ldq g k r a b => encodeC 0x02200000 g [up k 17, up r 10, up a 5, up b 0] 0
  | .stq g k r a b => encodeC 0x02300000 g [up k 17, up r 10, up a 5, up b 0] 0
  | .aadd g d a b w => encodeC 0x02400000 g [up d 15, up a 10, up b 5, up w 1] 0
  | .amin g d a b w => encodeC 0x02400004 g [up d 15, up a 10, up b 5, up w 1] 0
  | .amax g d a b w => encodeC 0x02400008 g [up d 15, up a 10, up b 5, up w 1] 0
  | .aand g d a b w => encodeC 0x0240000C g [up d 15, up a 10, up b 5, up w 1] 0
  | .aor g d a b w => encodeC 0x02400010 g [up d 15, up a 10, up b 5, up w 1] 0
  | .axor g d a b w => encodeC 0x02400014 g [up d 15, up a 10, up b 5, up w 1] 0
  | .aswp g d a b w => encodeC 0x02400018 g [up d 15, up a 10, up b 5, up w 1] 0
  | .acas g d a b w => encodeC 0x0240001C g [up d 15, up a 10, up b 5, up w 1] 0
  | .frel g s => encodeC 0x02500000 g [up s 4] 0
  | .facq g s => encodeC 0x02500001 g [up s 4] 0
  | .fseq g s => encodeC 0x02500002 g [up s 4] 0
  | .txb g d disp => encodeC 0x42600000 g [up d 15] disp.toNat
  | .txc g s => encodeC 0x02600001 g [up s 5] 0
  | .txa g c => encodeC 0x02600002 g [up c 5] 0
  | .txConflict _ _ => .none
  | .coord g d a => encodeC 0x02700000 g [up d 15, up a 10] 0
  | .mkaddr g d a b => encodeC 0x02700001 g [up d 15, up a 10, up b 5] 0
  | .addp g d a b => encodeC 0x02700002 g [up d 15, up a 10, b.bits 5] b.word1
  | .fmtset g d a b => encodeC 0x02700003 g [up d 15, up a 10, b.bits 5] b.word1
  | .absaddr g d a => encodeC 0x02700004 g [up d 15, up a 10] 0
  | .bind g k t s => encodeC 0x02800000 g [up k 15, up t 10, up s 5] 0
  | .unbind g k => encodeC 0x02800001 g [up k 15] 0
  | .pdrop g k c => encodeC 0x02800002 g [up k 15, up c 10] 0
  | .plvl g d k => encodeC 0x02800003 g [up d 15, up k 10] 0
  | .movx g k a => encodeC 0x02800004 g [up k 15, up a 10] 0
  | .movg g d k => encodeC 0x02800005 g [up d 15, up k 10] 0
  | .orderedOpExecute => .none
  | .rset g a c => encodeC 0x02900000 g [up a 10, up c 5] 0
  | .wfill g d c => encodeC 0x02900001 g [up d 15, up c 5] 0
  | .wfree g c => encodeC 0x02900002 g [up c 5] 0
  | .pub g c => encodeC 0x02900003 g [up c 5] 0
  | .cons g d c => encodeC 0x02900004 g [up d 15, up c 5] 0
  | .epush g a e => encodeC 0x02A00000 g [up a 10, up e 5] 0
  | .epop g d w e => encodeC 0x02A00001 g [up d 15, up w 10, up e 5] 0
  | .cpy g c a b => encodeC 0x02A00002 g [up c 15, up a 10, up b 5] 0
  | .mbw g m a => encodeC 0x02B00000 g [up m 15, up a 10] 0
  | .send g d a b => encodeC 0x02B00001 g [up d 17, up a 10, up b 5] 0
  | .recv g d => encodeC 0x02B00002 g [up d 15] 0
  | .waitm g => encodeC 0x02B00003 g [] 0
  | .mstat g d => encodeC 0x02B00004 g [up d 15] 0
  | .sstep g e a b => encodeC 0x02C00000 g [up e 15, up a 10, up b 5] 0
  | .barj g d a b => encodeC 0x02C00001 g [up d 15, up a 10, up b 5] 0
  | .waite g d m => encodeC 0x02C00002 g [up d 15, up m 5] 0
  | .sleep g d a => encodeC 0x02C00003 g [up d 15, up a 10] 0
  | .tspawn g d a b => encodeC 0x02D00000 g [up d 15, up a 10, up b 5] 0
  | .tjoin g d a b => encodeC 0x02D00001 g [up d 15, up a 10, up b 5] 0
  | .tdone g a => encodeC 0x02D00002 g [up a 10] 0
  | .sprl g d a b => encodeC 0x02E00000 g [up d 15, up a 10, up b 5] 0
  | .sprx g d a => encodeC 0x02E00001 g [up d 15, up a 10] 0
  | .swrb g a => encodeC 0x02F00000 g [up a 10] 0
  | .swmx g a => encodeC 0x02F00001 g [up a 10] 0
  | .gang g c => encodeC 0x03000000 g [up c 15] 0
  | .ungang g => encodeC 0x03000001 g [] 0
  | .anop g => encodeA 0x00000000 g []
  | .vadd g d a b t => encodeA 0x00400000 g [up d 17, up a 12, up b 7, up t 4]
  | .vsub g d a b t => encodeA 0x00400001 g [up d 17, up a 12, up b 7, up t 4]
  | .vmul g d a b t => encodeA 0x00400002 g [up d 17, up a 12, up b 7, up t 4]
  | .vmulh g d a b t => encodeA 0x00400003 g [up d 17, up a 12, up b 7, up t 4]
  | .vmin g d a b t => encodeA 0x00400004 g [up d 17, up a 12, up b 7, up t 4]
  | .vmax g d a b t => encodeA 0x00400005 g [up d 17, up a 12, up b 7, up t 4]
  | .vand g d a b t => encodeA 0x00400006 g [up d 17, up a 12, up b 7, up t 4]
  | .vor g d a b t => encodeA 0x00400007 g [up d 17, up a 12, up b 7, up t 4]
  | .vxor g d a b t => encodeA 0x00400008 g [up d 17, up a 12, up b 7, up t 4]
  | .vshl g d a b t => encodeA 0x00400009 g [up d 17, up a 12, up b 7, up t 4]
  | .vshr g d a b t => encodeA 0x0040000A g [up d 17, up a 12, up b 7, up t 4]
  | .vsra g d a b t => encodeA 0x0040000B g [up d 17, up a 12, up b 7, up t 4]
  | .vabs g d a t => encodeA 0x0040000C g [up d 17, up a 12, up t 4]
  | .vneg g d a t => encodeA 0x0040000D g [up d 17, up a 12, up t 4]
  | .vadds g d a b t => encodeA 0x0040000E g [up d 17, up a 12, up b 7, up t 4]
  | .vsubs g d a b t => encodeA 0x0040000F g [up d 17, up a 12, up b 7, up t 4]
  | .fadd g d a b t => encodeA 0x00800000 g [up d 17, up a 12, up b 7, up t 4]
  | .fsub g d a b t => encodeA 0x00800001 g [up d 17, up a 12, up b 7, up t 4]
  | .fmul g d a b t => encodeA 0x00800002 g [up d 17, up a 12, up b 7, up t 4]
  | .fmin g d a b t => encodeA 0x00800003 g [up d 17, up a 12, up b 7, up t 4]
  | .fmax g d a b t => encodeA 0x00800004 g [up d 17, up a 12, up b 7, up t 4]
  | .fabs g d a t => encodeA 0x00800005 g [up d 17, up a 12, up t 4]
  | .fneg g d a t => encodeA 0x00800006 g [up d 17, up a 12, up t 4]
  | .ffma g d a b t => encodeA 0x00800007 g [up d 17, up a 12, up b 7, up t 4]
  | .vcmpEq g d a b t => encodeA 0x00C00000 g [up d 17, up a 12, up b 7, up t 4]
  | .vcmpNe g d a b t => encodeA 0x00C00001 g [up d 17, up a 12, up b 7, up t 4]
  | .vcmpLt g d a b t => encodeA 0x00C00002 g [up d 17, up a 12, up b 7, up t 4]
  | .vcmpLe g d a b t => encodeA 0x00C00003 g [up d 17, up a 12, up b 7, up t 4]
  | .vcmpGt g d a b t => encodeA 0x00C00004 g [up d 17, up a 12, up b 7, up t 4]
  | .vcmpGe g d a b t => encodeA 0x00C00005 g [up d 17, up a 12, up b 7, up t 4]
  | .vcmpOrd g d a b t => encodeA 0x00C00006 g [up d 17, up a 12, up b 7, up t 4]
  | .vcmpUno g d a b t => encodeA 0x00C00007 g [up d 17, up a 12, up b 7, up t 4]
  | .vtestAny g c a t => encodeA 0x00C00008 g [up c 17, up a 12, up t 4]
  | .vtestAll g c a t => encodeA 0x00C00009 g [up c 17, up a 12, up t 4]
  | .vsel g d a b => encodeA 0x00C0000A g [up d 17, up a 12, up b 7]
  | .frcp g d a t => encodeA 0x01000000 g [up d 17, up a 12, up t 4]
  | .frsq g d a t => encodeA 0x01000001 g [up d 17, up a 12, up t 4]
  | .fsqrt g d a t => encodeA 0x01000002 g [up d 17, up a 12, up t 4]
  | .fexp2 g d a t => encodeA 0x01000003 g [up d 17, up a 12, up t 4]
  | .flog2 g d a t => encodeA 0x01000004 g [up d 17, up a 12, up t 4]
  | .ftanh g d a t => encodeA 0x01000005 g [up d 17, up a 12, up t 4]
  | .vcvt g d a r s t => encodeA 0x01400000 g [up d 17, up a 12, up r 10, up s 7, up t 4]
  | .vqnt g d a k t => encodeA 0x01400001 g [up d 17, up a 12, up k 7, up t 4]
  | .vdq g d a k t => encodeA 0x01400002 g [up d 17, up a 12, up k 7, up t 4]
  | .vpack g d a b => encodeA 0x01400003 g [up d 17, up a 12, up b 7]
  | .vunpk g d a h => encodeA 0x01400004 g [up d 17, up a 12, up h 7]
  | .vrsum g d a t => encodeA 0x01800000 g [up d 17, up a 12, up t 4]
  | .vrmax g d a t => encodeA 0x01800001 g [up d 17, up a 12, up t 4]
  | .vrmin g d a t => encodeA 0x01800002 g [up d 17, up a 12, up t 4]
  | .vtopk g d a b t => encodeA 0x01800003 g [up d 17, up a 12, up b 7, up t 4]
  | .vshuf g d a b t => encodeA 0x01800004 g [up d 17, up a 12, up b 7, up t 4]
  | .vbcst g d a l t => encodeA 0x01800005 g [up d 17, up a 12, up l 7, up t 4]
  | .vslide g d a k t => encodeA 0x01800006 g [up d 17, up a 12, up k 7, up t 4]
  | .vidx g d a t => encodeA 0x01800007 g [up d 17, up a 12, up t 4]
  | .vrng g d a w t => encodeA 0x01C00000 g [up d 17, up a 12, up w 7, up t 4]
  | .vmov g d a => encodeA 0x02000000 g [up d 17, up a 12]
  | .mldb g b s c k => encodeA 0x02400000 g [up b 21, up s 14, up c 13, up k 10]
  | .mswp g o => encodeA 0x02400001 g [up o 20]
  | .mma g a v s k => encodeA 0x02400002 g [up a 18, up v 17, up s 10, up k 7]
  | .macz g m => encodeA 0x02400003 g [up m 6]
  | .mrd g d j h c => encodeA 0x02400004 g [up d 17, up j 13, up h 12, up c 11]
  | .mcfg g d a => encodeA 0x02400005 g [up d 17, up a 12]
  | .tshape g param => encodeT 0x80000000 g [] param
  | .tbind g hd ha mode param => encodeT 0x81000000 g [up hd 20, up ha 16, up mode 0] param
  | .tmma g hd ha hb hc mode param => encodeT 0x82000000 g [up hd 20, up ha 16, up hb 12, up hc 8, up mode 0] param
  | .tmm g hd ha hb mode param => encodeT 0x83000000 g [up hd 20, up ha 16, up hb 12, up mode 0] param
  | .tew g hd ha hb mode param => encodeT 0x84000000 g [up hd 20, up ha 16, up hb 12, up mode 0] param
  | .tcvt g hd ha mode param => encodeT 0x85000000 g [up hd 20, up ha 16, up mode 0] param
  | .tred g hd ha mode param => encodeT 0x86000000 g [up hd 20, up ha 16, up mode 0] param
  | .ttopk g hd ha hc mode param => encodeT 0x87000000 g [up hd 20, up ha 16, up hc 8, up mode 0] param
  | .tcopy g hd ha param => encodeT 0x88000000 g [up hd 20, up ha 16] param
  | .tfill g hd mode param => encodeT 0x89000000 g [up hd 20, up mode 0] param
  | .ttrans g hd ha mode param => encodeT 0x8A000000 g [up hd 20, up ha 16, up mode 0] param
  | .tdrop g hd ha hc mode param => encodeT 0x8B000000 g [up hd 20, up ha 16, up hc 8, up mode 0] param
  | .tsync g mode param => encodeT 0x8C000000 g [up mode 0] param
  | .tsyncDrop g param => encodeT 0x8C000008 g [] param
  | .tcoll g hd ha mode param => encodeT 0x8D000000 g [up hd 20, up ha 16, up mode 0] param
  | .tileInsnStart => .none
  | .tileInsnCommit => .none
  | .childComplete _ _ _ => .none
  | .childFaultReport _ _ _ _ _ _ _ => .none
  | .ldqRowDeliver _ => .none
  | .stqRowWrite _ => .none
  | .copyStreamRow _ => .none
  | .copyComplete _ => .none
  | .remoteAccess _ _ _ _ => .none
  | .remoteAnswer _ => .none
  | .postedStoreReject _ => .none
  | .remoteTimeout _ => .none
  | .messageArrival _ _ _ => .none
  | .depositArrival _ _ _ _ => .none
  | .allowanceReturn => .none
  | .scopeMissMessage _ _ _ => .none
  | .l1Eviction _ => .none
  | .pageWalkComplete => .none
  | .scrubRead _ => .none
  | .preemptRequest => .none
  | .asyncTrap => .none
  | .snapatMatch => .none
  | .allAsleepDetect _ => .none
  | .contextLoad => .none
  | .saveTimeout => .none
  | .cutRequest _ _ => .none
  | .computeBarrierComplete _ => .none
  | .exchangeLanded _ => .none
  | .barrierRelease _ _ => .none
  | .staggerExpire => .none
  | .notify _ _ => .none
  | .queueMap => .none
  | .queueEvict => .none
  | .launch _ => .none
  | .launchAdmit => .none
  | .tile _ => .none
  | .copy _ => .none
  | .signal _ => .none
  | .signalPerform _ => .none
  | .wait _ => .none
  | .waitSatisfied _ => .none
  | .waitTimeout _ => .none
  | .checkpoint _ => .none
  | .shoot _ => .none
  | .shootdownDieAck _ => .none
  | .kill _ => .none
  | .pfr _ => .none
  | .qstop _ => .none
  | .packetComplete _ _ => .none
  | .contextComplete _ => .none
  | .quantumEnd => .none
  | .hangWatchdogExpire _ => .none
  | .hubWatchdogExpire => .none
  | .buckRebootDone => .none
  | .kidHeartbeatCheck _ => .none
  | .taskAppend _ _ => .none
  | .taskDispense _ _ => .none
  | .leaseRequest _ _ _ _ => .none
  | .leaseExpire _ => .none
  | .thermalSample _ _ _ => .none
  | .heatStoreUpdate _ => .none
  | .pcapWrite _ => .none
  | .governorTrip => .none
  | .governorRelease => .none
  | .capBreachDetect _ => .none
  | .holdExpire => .none
  | .tilePowerUp => .none
  | .energyTick => .none
  | .join _ _ _ => .none
  | .start _ _ _ _ => .none
  | .reject _ _ _ => .none
  | .withdraw _ _ _ => .none
  | .withdrawn _ _ => .none
  | .joinTimeout _ _ => .none
  | .acknowledgementField _ _ _ _ _ _ => .none
  | .collectiveEnd _ => .none
  | .flit _ _ _ _ _ => .none
  | .retryFlit _ _ _ => .none
  | .retire _ _ _ => .none
  | .reinstate _ _ => .none
  | .retrainDone _ _ => .none
  | .linkTraining _ _ _ _ _ _ _ _ => .none
  | .launchDelayTrim _ _ _ => .none
  | .segmentDown _ => .none
  | .deviceReset => .none
  | .startTimerExpire => .none
  | .bootokSet => .none
  | .standbyPowerLoss => .none
  | .recovWrite _ => .none
  | .pkgidWrite _ => .none
  | .functionLevelReset => .none
  | .howlkWrite _ => .none
  | .attestRequest _ => .none
  | .snaptWrite _ => .none
  | .snapinEdge => .none
  | .packageSnapshotLatch => .none
  | .snapresRearm => .none
  | .snapresResume => .none
  | .acctlClr _ => .none
  | .acrstWrite _ _ => .none
  | .anqhWrite _ _ => .none
  | .swlfClr _ => .none
  | .registerWrite _ _ => .none
  | .discoveryStart _ _ => .none
  | .dfawn _ => .none
  | .fawnPacket _ _ _ => .none
  | .fawnReply _ _ => .none
  | .dreply _ => .none
  | .dcoord _ _ => .none
  | .dmoff _ _ => .none
  | .dmdata _ _ => .none
  | .multicastPacket _ _ => .none
  | .ddone _ _ => .none
  | .discoveryTimeout _ => .none
  | .unassignedEncoding _ _ _ => .none
  | .unassignedType _ => .none
  | .softErrorInStoredBits _ _ => .none
  | .sleepLimitReached => .none
  | .reservationConfirmed _ => .none
  | .railLevelReached _ => .none
  | .kidCoreRestarted _ => .none
  | .tileLevelFaultReport _ _ _ => .none
  | .fusedSvnRaise => .none

/-- The A-words with every operand field zero that are the zero-operand word of no C-word row: such a 32-bit
word is read as the A-word (log 8). -/
def aBases : List Nat :=
  [0x00400001, 0x00400002, 0x00400003, 0x00400004, 0x00400005, 0x00400006, 0x00400007, 0x00400008, 0x00400009, 0x0040000A, 0x0040000B, 0x0040000C, 0x0040000D, 0x0040000E, 0x0040000F, 0x00800001, 0x00800002, 0x00800003, 0x00800004, 0x00800005, 0x00800006, 0x00800007, 0x00C00001, 0x00C00002, 0x00C00003, 0x00C00004, 0x00C00005, 0x00C00006, 0x00C00007, 0x00C00008]
    ++ [0x00C00009, 0x00C0000A, 0x01000001, 0x01000002, 0x01000003, 0x01000004, 0x01000005, 0x01400001, 0x01400002, 0x01400003, 0x01400004, 0x01800001, 0x01800002, 0x01800003, 0x01800004, 0x01800005, 0x01800006, 0x01800007, 0x01C00000, 0x02400001, 0x02400002, 0x02400003, 0x02400005]

/-- The instruction of a decoding result. -/
def Decoded.instr? : Decoded → Option Instr
  | .ok i => some i
  | .encoding => none
  | .unassigned => none

/-- The instruction that a 32-bit word of the opcode table names: its C-word (in a lone form with literal 0),
or its A-word. A word alone does not say which half it is for, so an A-word base is read as an A-word, and any
other word as a C-word where that decodes, and as an A-word where it does not (log 8). -/
def decodeWord32 (w : Nat) : Option Instr :=
  if aBases.contains w then (decodeA w).instr?
  else match (decodeBundle w 0).instr? with
    | some i => some i
    | none => (decodeA w).instr?

/-- The instruction the decoder reads from `nbits` bits `w` of the opcode table. -/
def decodeTableWord (nbits w : Nat) : Option Instr :=
  if nbits ≤ 32 then decodeWord32 (w % 2 ^ 32)
  else (decodeBundle (w % 2 ^ 32) (w / 2 ^ 32 % 2 ^ 32)).instr?

end Sys2Proof
end

