-- ==== Sys2Proof/Config.lean ====
section
/-!
DEFINITION. What an implementation fixes, and the values the spec leaves open: opaque constants with no
body, so nothing can be proved about their values (log 6).
-/

namespace Sys2Proof

/-- SHADOW.G, a fuse value (Table 1.11; log 6). -/
opaque Config.shadowG : BitVec 5

/-- SHADOW.V, a fuse value (Table 1.11; log 6). -/
opaque Config.shadowV : BitVec 5

/-- CYCLE ticks that the model's step number `n` takes (R3, R7: cycle counts are not architectural; log 6). -/
opaque Config.ticks : Nat → BitVec 8

/-- The free choices of R187 and R270, one bit per byte moved: old byte or the byte as already written (log 6). -/
opaque Config.overlapChoice : Nat → Nat → Bool

/-- The lease code of R367: the strip's power model is not architectural (log 6). -/
opaque Config.leaseCode : BitVec 16 → BitVec 4 → BitVec 4

/-- The clamp code that a cap or a governor trip imposes on a strip, by the model's step number and the strip (R362 gives no
number; log 6). -/
opaque Config.clampCode : Nat → Nat → BitVec 4

/-- Does the Ed25519 signature of an image header and body verify (R386)? The keys are in the boot ROM (log 6). -/
opaque Config.ed25519Verifies : List Byte → List Byte → Bool

/-- Does the ML-DSA-65 signature of an image header and body verify (R386; log 6)? -/
opaque Config.mldsaVerifies : List Byte → List Byte → Bool

/-- The measurement that a report gives where no body has been verified (R392, R393 give none; log 12). -/
opaque Config.noMeasurement : BitVec 384

/-- The Ed25519 key pair derived from a device secret, and from a measurement for the alias keys: public and secret key (R392; log 6). -/
opaque Config.ed25519Keys : BitVec 256 → Option (BitVec 384) → List Byte × List Byte

/-- The ML-DSA-65 key pair, likewise (R392; log 6). -/
opaque Config.mldsaKeys : BitVec 256 → Option (BitVec 384) → List Byte × List Byte

/-- The Ed25519 signature with a secret key over bytes (R393; log 6). -/
opaque Config.ed25519Sign : List Byte → List Byte → List Byte

/-- The ML-DSA-65 signature with a secret key over bytes (R393; log 6). -/
opaque Config.mldsaSign : List Byte → List Byte → List Byte

/-- What the device certificates state, of the public device keys and the public alias keys (R393; log 6). -/
opaque Config.certificate : List Byte → List Byte → List Byte

/-- Values the spec leaves open, a new one for each number (log 6). -/
opaque Config.freeWord : Nat → Word

/-- SWP and EVEC of the resident supervisor handler, and the bytes of its code and workspace, as the firmware image
places them (R318; log 21). -/
opaque Config.handlerSwp : Word
/-- EVEC of the resident handler. -/
opaque Config.handlerEvec : Word
/-- Code and workspace of the resident handler. -/
opaque Config.handlerBytes : List Byte

/-- SRC, DST and LEN of the parameter block of discovery, as the firmware sets them (R403; log 50). -/
opaque Config.discoveryPlace : Word × Word × Word
/-- Bytes of the code image at SRC (R403; log 50). -/
opaque Config.discoveryImage : Nat → Byte

/-- Bytes of the staging windows where no derived record stands: the spec does not say which child operands a strip controller
stages, or where (by step number and address; log 43). -/
opaque Config.stagedByte : Nat → Nat → Byte

/-- Bundles that the access half fetches ahead at the model's step number `n`, at most 16 (R232; log 1). -/
opaque Config.prefetch : Nat → Nat

/-- Which of the things that may happen next happens at the model's step number `n` (R3; log 1). -/
opaque Config.choice : Nat → Nat

/-- The field of the RS(48, 36) code of Table 16.1, as the low byte of its reduction polynomial, and the exponent of the first root
of its generator polynomial: the spec gives neither (log 35). -/
opaque Config.fecPoly : Byte
/-- The first root of the generator polynomial. -/
opaque Config.fecRoot : Nat

/-- The training pattern of a wavelength in slots 0 to 15 of a packet frame (R334 gives none; log 6). -/
opaque Config.trainingPattern : BitVec 3 → Nat → Bool

/-- The station of a segment at which a package answers (Table 21.5 names none; log 6). -/
opaque Config.stationOf : BitVec 12 → BitVec 4

/-- PAYLOAD bytes of a flit of a KIND: the spec gives no layout of them (Table 16.1; by step number; log 6). -/
opaque Config.payload : Nat → Byte → List Byte

end Sys2Proof
end

