-- ==== Sys2Proof/Machine/State.lean ====
section
/-!
DEFINITION. The state of the machine as plain data: the executing tile, memory, the tile's view of its
die, and the package (hub) state, with the state right after reset.
-/

namespace Sys2Proof.Machine

/-- No meaning ends the machine: every path of every meaning answers a next state or a refusal, so this
type has no value (safe). -/
inductive Fault where
  deriving DecidableEq, Repr

/-- Why an operation is refused. -/
inductive Refusal where
  /-- Raised only by an arm of `exec` whose meaning is not written; safe, since nothing is claimed of it. -/
  | notModelled (mnemonic : String)
  deriving DecidableEq, Repr

/-- Memory (R214, R281): address and byte pairs, addresses strictly rising, no byte equal to what an
unlisted address reads as. The address of a device byte is the 54 low bits of its absolute mesh pointer;
the address of a host byte is 2^64 plus the host physical address (log 3). -/
abbrev Memory := List Host.Cell

/-- Half states (Table 1.1). -/
inductive HalfState where
  | run | port | resource | wait | asleep | trapped | halted
  deriving DecidableEq, Repr

/-- Power states of a tile (Table 18.2). -/
inductive PowerState where
  | run | hold | gated | waking
  deriving DecidableEq, Repr

/-- An entry of an in port (R20): a row and its side band. -/
structure PortEntry where
  row  : Row
  side : BitVec 128
  deriving DecidableEq, Repr

/-- KIND and SRC of a port binding word (Table 1.5). -/
structure Binding where
  kind : BitVec 4
  src  : BitVec 4
  deriving DecidableEq, Repr

/-- The registers instructions name (Table 1.4). -/
structure Regs where
  g   : Vector Word 32
  v   : Vector Row 16
  p   : BitVec 8
  q   : BitVec 8
  c   : Vector (BitVec 16) 16
  h   : Vector (BitVec 32) 16
  acc : Vector (BitVec 1024) 16
  m   : Vector Word 8
  deriving DecidableEq, Repr

/-- The matrix unit: the configuration image of Table 6.2 (SEL and GRANT in their places) and the banks,
whose bytes are addressed by their offset in the bank image (R29, R143). -/
structure MatrixUnit where
  cfg   : Row
  bankA : Memory
  bankB : Memory
  deriving DecidableEq, Repr

/-- Ports (R20-R23): the bindings as each half sees them (R114), and the entries, oldest first. -/
structure Ports where
  acc  : Vector Binding 12
  exe  : Vector Binding 12
  inq  : Vector (List PortEntry) 8
  outq : Vector (List Row) 4
  deriving DecidableEq, Repr

/-- The context-scope CSRs of Table 1.16, each an image of the whole register. -/
structure CtxCsrs where
  step    : Word
  fcsr    : Word
  seedk   : Word
  seeds   : Word
  srfix   : Word
  energy  : Word
  pgrant  : Word
  stagger : Word
  depmask : Word
  mallow  : Word
  shtb    : Word
  shtn    : Word
  rgtb    : Word
  deriving DecidableEq, Repr

/-- STATUS (its AST, XST and FH fields are kept elsewhere), WP and the tile-scope CSRs (Table 1.8). -/
structure TileCsrs where
  status : Word
  wp     : Word
  swp    : Word
  ecause : Word
  eval   : Word
  evec   : Word
  escr   : Word
  ewp    : Word
  coord  : Word
  pcoord : Word
  snapAt : Word
  /-- SNAPAT was above CYCLE when written (R247). -/
  snapArmed : Bool
  ew     : Vector Word 8
  ews    : Word
  deriving DecidableEq, Repr

/-- The bundle the access half is executing: fetched, begun (its C-word has been charged), and whether its
A-word has been passed. -/
structure Latch where
  bundle : Word
  begun  : Bool
  passed : Bool
  deriving DecidableEq, Repr

/-- An entry of the A-word queue: the A-word and the address of its bundle (R9). -/
structure AItem where
  word : BitVec 32
  addr : Word
  deriving DecidableEq, Repr

/-- An ordered operation passed to the execute half and not yet performed (R114, R121, R100). -/
inductive OrderedOp where
  | bind (port : BitVec 5) (kind src : BitVec 4)
  | unbind (port : BitVec 5)
  | pdrop (port : BitVec 5) (count : BitVec 5)
  | csr (d : BitVec 5) (num : BitVec 10) (value : Word)
  | wpsw (d : BitVec 5) (value : Word)
  | marker (n : BitVec 4) (count : BitVec 8) (stride : BitVec 4)
  deriving DecidableEq, Repr

/-- LOOP state (Table 1.3). -/
structure LoopState where
  lcnt : BitVec 32
  llen : BitVec 20
  lact : Bool
  lbeg : Word
  deriving DecidableEq, Repr

/-- RPT state and the capture with its bundle addresses (Table 1.3, R102). -/
structure RepeatState where
  riter : BitVec 8
  rcnt  : BitVec 8
  rstr  : BitVec 4
  rn    : BitVec 5
  rpos  : BitVec 4
  ract  : Bool
  words : Vector (BitVec 32) 16
  addrs : Vector Word 16
  deriving DecidableEq, Repr

/-- The two halves' places in the program (R9, R10). XPC is read off the queue, the replay and the repeat. -/
structure Front where
  /-- The tile's core issues (a tile not started, or fused off by reset, issues nothing: log 7). -/
  started : Bool
  apc     : Word
  latch   : Option Latch
  /-- Bundles fetched ahead of execution, with their addresses (R232). -/
  ahead   : List (Word × Word)
  /-- Passed A-words not yet issued. -/
  aq      : List AItem
  /-- The A-word the replay of R239 has fetched. -/
  rq      : List AItem
  /-- Next bundle to replay, and where the replay ends (R239). -/
  replay  : Option (Word × Word)
  ordered : Option OrderedOp
  /-- The A-word of the bundle at APC has been captured and issued: it is not passed again (R102, R239; log 9). -/
  skip    : Bool
  /-- FP_ENABLED of a completed A-word, taken when the access half stands between words (R33, R238). -/
  xtrap   : Option (BitVec 8 × Word)
  ast     : HalfState
  xst     : HalfState
  loop    : LoopState
  rpt     : RepeatState
  deriving DecidableEq, Repr

/-- Where a committed SSTEP stands (R197). -/
inductive SstepPhase where
  /-- Joined the compute barrier with its records. -/
  | joined
  /-- The records of this tile have run. -/
  | ran
  /-- Every record of the context has landed; the release CYCLE value is not known yet. -/
  | landed
  /-- The release value of this tile. -/
  | releasing (at_ : Word)
  /-- CYCLE has reached the release value. -/
  | released
  deriving DecidableEq, Repr

/-- What the access half waits for inside one instruction. -/
inductive Wait where
  | idle
  /-- A load or atomic sent to another package (R88). -/
  | remote
  | answered
  | rejected
  /-- SSTEP has joined, with the record pointer and the count that it read at its start (R193, R197). -/
  | sstep (phase : SstepPhase) (records count : Word)
  /-- A deterministic context created here waits for the release of its first global barrier (R314). -/
  | release
  /-- BARJ has counted its arrival and waits for the generation to move on (R193, R199). -/
  | barj
  /-- SLEEP, with the events seen since it began and the CYCLE value of its limit (R201). -/
  | sleep (arrival result limit : Bool) (until_ : Option Word)
  /-- SPRL sent to the strip controller, with its operands (R205). -/
  | lease (power duration : Word)
  | leaseAnswer (value : Word)
  /-- A task append sent to a die controller (R203): the queue and the record. -/
  | append (desc : Word) (record : List Word)
  | appendAnswer (ok : Bool)
  /-- TXC waits for its reservations (R183). -/
  | commit
  /-- GANG issued with this size code (R209). -/
  | gang (code : BitVec 2)
  /-- TRET saves the outgoing context (R242). -/
  | save
  /-- The save has ended; TRET waits for the incoming context's state (R242). -/
  | load
  /-- WFILL or CONS waits at the descriptor at an SPM offset, with its bit of WAITW set (R117). -/
  | ring (off : Nat) (bit : BitVec 32)
  deriving DecidableEq, Repr

/-- A cached translation (R288): the page base, its size code, the leaf entry. -/
structure TEntry where
  ctxid : BitVec 12
  base  : Word
  size  : BitVec 3
  leaf  : Word
  deriving DecidableEq, Repr

/-- A command of engine 0 (R109, R115, R187), with the translations that its issue checked (R108). -/
inductive Cmd where
  | ldq  (port : BitVec 3) (next stride : Word) (left : Nat) (held : List TEntry)
  | stq  (port : BitVec 2) (next stride : Word) (left : Nat) (held : List TEntry)
  | movx (port : BitVec 3) (value : Word)
  | copy (dst src ctrl : Word) (done : Nat) (held : List TEntry)
  deriving DecidableEq, Repr

/-- Where a Sweut command of engine 1 stands (R338, R349). -/
inductive SwPhase where
  | queued | joined | started
  deriving DecidableEq, Repr

/-- A Sweut command (Table 7.12). `tile` marks a TCOLL; `owner` is the context of a TILE packet's TCOLL, 0 for a command of the
resident context (R255); `order` is its place among the commands that the package's tiles have pushed (R330). -/
structure SwCmd where
  desc  : BitVec 256
  phase : SwPhase
  tile  : Bool
  owner : Nat
  order : Nat
  deriving DecidableEq, Repr

/-- The engines' FIFOs and held-back elements (R184). -/
structure Engines where
  fifo0 : List Cmd
  fifo1 : List SwCmd
  res   : Vector (List Word) 3
  held  : Vector (Option Word) 3
  deriving DecidableEq, Repr

/-- A queued tile instruction with its sampled values (R152, R153). -/
structure SeqInsn where
  insn  : Word
  addr  : Word
  seedk : Word
  seeds : Word
  srfix : Word
  rm    : BitVec 3
  ftz   : Bool
  deriving DecidableEq, Repr

/-- An entry of the tile sequencer's queue: an instruction, or a marker of EPUSH (R185). -/
inductive SeqEntry where
  | insn (i : SeqInsn)
  | marker (tag : BitVec 32)
  deriving DecidableEq, Repr

/-- One byte a tile instruction will write: its address, the bits written, and their values (R42, R155). -/
structure StagedByte where
  addr : Nat
  mask : Byte
  bits : Byte
  deriving DecidableEq, Repr

/-- What a started tile instruction will commit (R154, R155). -/
inductive Staged where
  /-- Output bytes, the flags they raised, and the K rows whose weights pass through bank A (R274). -/
  | outputs (bytes : List StagedByte) (flags : BitVec 6) (rows : Nat)
  | handle (reg : BitVec 4) (value : BitVec 32)
  | grant (value : Word)
  /-- A TCOLL waits for its collective (R169). -/
  | collective
  /-- The part of a TILE packet's instruction at this path, received from the strip controller (R152). -/
  | child (ctx : Nat) (path : List Nat)
  /-- A check of Table 6.8 failed at the start. -/
  | failed (cause : BitVec 8) (value : Word)
  deriving DecidableEq, Repr

/-- A held report (R155, R156); `head` says that the instruction at the head of the queue caused it, `taken` that
the report has been taken as a trap from which no TRET has returned (TSYNC.DROP still acts on it, R167). -/
structure Report where
  cause : BitVec 8
  value : Word
  head  : Bool
  taken : Bool
  deriving DecidableEq, Repr

/-- The tile sequencer (engine 2). -/
structure Sequencer where
  queue   : List SeqEntry
  running : Option Staged
  held    : Option Report
  stopped : Bool
  /-- The write-blocked translation at which the head instruction's commit stalls (R289). -/
  blocked : Option TEntry
  deriving DecidableEq, Repr

/-- An L1 line (R215, R226): the address of its first byte, its bytes, masks, and the tag of its latest store. A line of another
tile's vault keeps the places and the pointers of the stores whose bytes its home has not taken (R88). -/
structure Line where
  addr   : Nat
  data   : Row
  valid  : Word
  dirty  : Word
  rlv    : BitVec 3
  writer : BitVec 24
  stores : List (Nat × Nat × Word)
  deriving DecidableEq, Repr

/-- The tag a home keeps for a line (R226). -/
structure HomeTag where
  line   : Nat
  tsc    : BitVec 3
  writer : BitVec 24
  deriving DecidableEq, Repr

/-- A posted store on its way (R88, R215), or a whole row of an STQ (R111): its pointer, address, length and bytes. `more` is the
rest of a row that goes on elsewhere behind a page boundary; `row` says that engine 0 made it. -/
structure Posted where
  ptr  : Word
  addr : Nat
  len  : Nat
  data : BitVec 512
  rlv  : BitVec 3
  more : List (Nat × Nat × BitVec 512)
  row  : Bool
  deriving DecidableEq, Repr

/-- A line of the transactional set (R180). -/
structure TxLine where
  line      : Nat
  stored    : Bool
  confirmed : Bool
  deriving DecidableEq, Repr

/-- An open transaction (R179-R183): the register and target of an abort, the set, the held stores with the translations that
they used (R290), and a conflict detected at a home. -/
structure Tx where
  reg      : BitVec 5
  target   : Word
  lines    : List TxLine
  stores   : Memory
  used     : List TEntry
  conflict : Bool
  deriving DecidableEq, Repr

/-- Something that arrives for a context (R189, R192, R228). -/
inductive Arrival where
  | message (header : Word) (data : List Word)
  | deposit (header : Word) (value : Word)
  | scopeMiss (value : Word)
  deriving DecidableEq, Repr

/-- An arrival that waits in the network, for the context whose CXB the tile held when it arrived; 0 is for whichever
context the tile holds (R243). -/
structure Waiting where
  cxb  : Word
  what : Arrival
  deriving DecidableEq, Repr

/-- Inbox, arrival flag and network interface (R189-R196, R243). -/
structure Net where
  inbox   : List Word
  /-- Data words at the head whose header has been popped. -/
  lead    : Nat
  arrived : Bool
  /-- Messages sent and not yet accepted, by their SEND pointers, oldest first. -/
  sent    : List Word
  /-- Arrivals that wait in the network, oldest first. -/
  waiting : List Waiting
  /-- SPILL_TO: arrivals go to the spill region of this CXB while a save runs. -/
  spillTo : Option Word
  deriving DecidableEq, Repr

/-- Pending asynchronous causes with their EVAL (R236, Table 9.2). -/
structure Pending where
  gangBreak : Option Word
  lease     : Option Word
  capBreach : Option Word
  scopeMiss : Option Word
  allAsleep : Option Word
  snapshot  : Option Word
  preempt   : Option Word
  deriving DecidableEq, Repr

/-- The memory path of the tile: L1, release level, posted stores, held failures, translations, walks. -/
structure MemPath where
  l1       : List Line
  rlv      : BitVec 3
  posted   : List Posted
  /-- Failures held for the next reporting point (R88), oldest first. -/
  failures : List (BitVec 8 × Word)
  tcache   : List TEntry
  /-- Translations that the instruction at APC has walked for and not yet used (R108). -/
  pinned   : List TEntry
  /-- The page walk the access half waits for. -/
  walk     : Option Word
  /-- The virtual pointer whose walk failed. -/
  walkFail : Option Word
  tx       : Option Tx
  /-- Held failures and a held report without a saved record, of contexts switched away, by their CXB (log 15). -/
  away     : List (Nat × List (BitVec 8 × Word) × Option Report)
  deriving DecidableEq, Repr

/-- What a follower takes from its leader with a bundle (R210): the leader's next bundle, its loop state then and its repeat state
behind an RPT, and whether the bundle's guard held at the leader. -/
structure GangLead where
  next  : Word
  loop  : LoopState
  rpt   : RepeatState
  guard : Bool
  deriving DecidableEq, Repr

/-- Which context the tile holds (R37, R283, R318). -/
structure Residence where
  /-- The resident context's number in the hub's list; 0 for none. -/
  ctx   : Nat
  cxb   : Word
  ctxid : BitVec 12
  root  : BitVec 38
  /-- Task records held for contexts of this tile (R323): context number and record address and words. -/
  held  : List (Nat × Word × List Word)
  /-- Step-boundary cut: K (R246). -/
  cut   : Option Nat
  /-- The next record of the step list (R268), and that of each context switched away inside a superstep. -/
  listPos : Nat
  lists : List (Nat × Nat)
  listAddr : Word
  /-- Requests of other tiles for a gang: coordinate and size code (R209). -/
  peers : List (BitVec 24 × BitVec 2)
  /-- For a follower: what the leader gave with the bundle in hand (R210). -/
  leaderNext : Option GangLead
  /-- For a leader: every other member's access half can take the next bundle (R210). -/
  gangReady : Bool
  /-- The guard of the UNGANG in hand holds at another member (R210). -/
  ungang : Bool
  /-- Discovery of its die has not given the tile a COORD: it is a spare or fused, and takes no context (R389). -/
  unnamed : Bool
  /-- Records of the SSTEP that were rejected (R198). -/
  rejected : Option Word
  /-- The CXB of each killed context (R249). -/
  killed : List Word
  /-- A tile-level fault on its way to the front end: cause, value and the progress word of the faulting half (R36, R242, R311). -/
  report : Option (BitVec 8 × Word × Word)
  /-- The context issues its first bundle no earlier than this CYCLE value (R268, R315). -/
  startAt : Option Word
  /-- CYCLE when the quantum of the resident context began (R318), and when the save in progress did (R242). -/
  quantum : Word
  saveAt : Word
  deriving DecidableEq, Repr

/-- Power and energy of the tile (R355, R357, R363, R371). -/
structure TilePower where
  state    : PowerState
  code     : BitVec 4
  /-- CYCLE when the tile entered its power state (R357, R358). -/
  since    : Word
  /-- The wait has been looked at, at this instant, and goes on (log 1). -/
  polled   : Bool
  /-- CAP_BREACH may be taken in this episode (R363). -/
  armed    : Bool
  /-- CYCLE since which a clamp has held the tile slower than FMIN, and since which it has run at FMIN or faster (R363). -/
  slowFrom : Option Word
  fastFrom : Option Word
  /-- Resident cycles of the context since its latest static charge, in 480ths of a cycle (R371). -/
  resident : Nat
  deriving DecidableEq, Repr

/-- The executing tile. -/
structure Tile where
  regs    : Regs
  matrix  : MatrixUnit
  ports   : Ports
  ctx     : CtxCsrs
  csr     : TileCsrs
  front   : Front
  wait    : Wait
  eng     : Engines
  seq     : Sequencer
  net     : Net
  pend    : Pending
  path    : MemPath
  res     : Residence
  power   : TilePower
  deriving DecidableEq, Repr

/-- One counter entry of an access counter unit (R294): the page, its count, whether a notification is pending,
and whether the page has notified since its counter was cleared (R295). The list is oldest first. -/
structure AccEntry where
  ctxid   : BitVec 12
  base    : Word
  size    : BitVec 3
  count   : BitVec 32
  pending : Bool
  notified : Bool
  deriving DecidableEq, Repr

/-- The access counter unit of a die (Table 13.7). `order` lists the pending pages in posting order. -/
structure AccUnit where
  entries : List AccEntry
  order   : List (BitVec 12 × Word)
  en      : Bool
  drops   : BitVec 32
  thr     : BitVec 32
  anqb    : Word
  logn    : BitVec 4
  tail    : BitVec 32
  head    : BitVec 32
  deriving DecidableEq, Repr

/-- Discovery of a die (R388-R402). -/
structure Discovery where
  active   : Bool
  /-- Physical indices of the tiles whose cores are fused (R388). -/
  fuses    : List (BitVec 10)
  /-- CYCLE at the start of the agent, and at the injection of the fawn packet (R388, R399). -/
  since    : Word
  fawnAt   : Word
  /-- Physical index of the agent. -/
  agent    : BitVec 10
  /-- The fawn packet has been injected. -/
  fawned   : Bool
  /-- Routers that have received the fawn packet (and reply once each). -/
  heard    : List (BitVec 10)
  /-- Replies the agent has received, by physical index. -/
  replied  : List (BitVec 10)
  fusedSeen : Nat
  /-- The queue of DREPLY, oldest first; at most 64. -/
  queue    : List (BitVec 21)
  /-- Replies that wait in the mesh. -/
  mesh     : List (BitVec 21)
  /-- COORD of each tile named by DCOORD: physical index and COORD. -/
  coords   : List (BitVec 10 × BitVec 24)
  dmoff    : BitVec 19
  partial_ : List Word
  /-- Packets sent: offset and 64 bytes, with the tiles that still have to acknowledge. -/
  packets  : List (BitVec 19 × Row × List (BitVec 10))
  sentAny  : Bool
  /-- A packet has been discarded, or a tile named after it: DMDONE never reads 1. -/
  discarded : Bool
  fused    : BitVec 11
  failed   : Bool
  done     : Bool
  lmap     : Memory
  deriving DecidableEq, Repr

/-- State of one strip (Table 18.4, R360). -/
structure Strip where
  tcnt   : BitVec 32
  thr    : Bool
  temp   : BitVec 16
  tcode  : BitVec 4
  tthr   : BitVec 16
  /-- The clamp codes that the firmware imposes for the package cap, and the governor at a trip (R362). -/
  clamp  : BitVec 4
  gov    : BitVec 4
  code   : BitVec 4
  /-- The fastest code among the other tiles of the strip, and the one that they are to run at (R356). -/
  others : BitVec 4
  want   : BitVec 4
  /-- The in-rush arbiter's queue: CYCLE and physical x of each wake event (R358). -/
  arbiter : List (Word × BitVec 5)
  /-- CYCLE from which the arbiter is free for the first of them. -/
  arbFree : Word
  vlvl   : BitVec 3
  pwr    : BitVec 16
  id     : BitVec 16
  /-- The duration granted, in µs; 0 when no lease is active. -/
  rem    : BitVec 32
  extra  : BitVec 8
  st     : BitVec 3
  /-- The context that holds the lease. -/
  holder : Nat
  /-- Order of the grant, for revocation newest first (R362). -/
  serial : Nat
  /-- CYCLE at the grant. -/
  granted : Word
  /-- CYCLE of the last transition of the throttle state, and of the latest sample (R360). -/
  turned : Word
  sampled : Word
  /-- The latest four readings, newest first (R360). -/
  recent : List (BitVec 16)
  /-- CYCLE since which the dispenser withholds records from the strip, and of the last record given to it (R323). -/
  withheld : Option Word
  given    : Word
  deriving DecidableEq, Repr

/-- Per-wavelength state of an attachment (Table 16.3). -/
structure Wave where
  bere  : BitVec 32
  corr  : BitVec 32
  retr  : BitVec 16
  ldly  : BitVec 8
  state : BitVec 2
  /-- Bits received and bit errors since the last update of BERE, and the errors of the latest 256 intervals of 2^24 bits, newest
  first (R337). -/
  bits    : Nat
  errs    : Nat
  buckets : List Nat
  /-- A marked wavelength has been retrained before the end of its collective (R346). -/
  trained : Bool
  /-- CYCLE of the latest trim of the launch delay (R332). -/
  trimmed : Word
  deriving DecidableEq, Repr

/-- A rendezvous at the leader (R338), with CYCLE of its first JOIN. `complete` says that the JOINs it needs are held: its START
is to be sent, and a later JOIN opens a new one. -/
structure Rendezvous where
  first    : JoinFields
  joined   : BitVec 16
  since    : Word
  complete : Bool
  deriving DecidableEq, Repr

/-- A wavelength's stream of slots in a collective (R341), counted in counting-frame slots from the start frame: where it
reaches its next batch boundary, and its batches whose acknowledgement fields have not been read whole, each with the slot of
the next pair and the groups left. -/
structure Lane where
  boundary : Nat
  batches  : List (Nat × List Nat)
  /-- Groups that have failed in the acknowledgement field that is being read: they are pending behind it. -/
  late     : List Nat
  deriving DecidableEq, Repr

/-- The bit stream of a station in packet class (R334, R337): the wavelengths that it uses, and the bytes of its flit in hand with
the wavelength of each. -/
structure Stream where
  on   : BitVec 8
  part : List (BitVec 3 × Byte)
  deriving DecidableEq, Repr

/-- A counting collective as this station sees it (R339-R347). -/
structure Collective where
  fields   : JoinFields
  members  : BitVec 16
  frame    : BitVec 48
  /-- The start frame has come: the wavelength set is fixed (R339). -/
  begun    : Bool
  /-- The wavelength set. -/
  waves    : BitVec 8
  /-- Wavelengths marked for the rest of the collective, and those retired with their effective frames (R341, R346). -/
  marked   : BitVec 8
  retired  : List (BitVec 3 × BitVec 48)
  /-- In the exponent phase of a block sum. -/
  exponent : Bool
  /-- Groups that no batch holds: not sent yet, and to be sent again; and what each wavelength sends (R341). -/
  unsent   : List Nat
  resend   : List Nat
  lanes    : Vector Lane 8
  /-- Failures of groups, and consecutive failures on each wavelength. -/
  fails    : List (Nat × Nat)
  runs     : Vector Nat 8
  /-- Agreed block exponents. -/
  exps     : List (Nat × BitVec 8)
  /-- SRC bytes as read before the start frame; none when the read failed, with its cause. -/
  src      : List Byte
  srcFail  : Option (BitVec 8)
  /-- The station lights nothing (R348). -/
  dark     : Bool
  dst      : Word
  /-- Reason of the end, when it has ended; 0 for success. -/
  ended    : Option (BitVec 4)
  /-- A TCOLL: its results wait for the commit of its D (R169). -/
  tile     : Bool
  /-- Results of a TCOLL, and those behind a write-blocked page: pointer, bytes, value. -/
  out      : List (Word × Nat × Nat)
  /-- The write-blocked translation at which they stall (R289). -/
  blocked  : Option TEntry
  deriving DecidableEq, Repr

/-- A Sweut attachment (Table 16.3, R335-R337). -/
structure Attachment where
  jtmo   : BitVec 16
  up     : Bool
  actw   : BitVec 8
  acklag : BitVec 4
  wlim   : BitVec 4
  nstn   : BitVec 4
  stn    : BitVec 4
  /-- The lowest number of an active station of the segment (R329). -/
  lead   : BitVec 4
  /-- WLIM and ACKLAG that training computed while a collective held the segment (R332). -/
  newLim : Option (BitVec 4 × BitVec 4)
  nfail  : BitVec 16
  lfGroup : BitVec 12
  reason : BitVec 4
  berth  : BitVec 32
  waves  : Vector Wave 8
  done   : BitVec 32
  resent : BitVec 32
  groups : List Rendezvous
  /-- Groups and start frames of the collectives that have been started and have not ended, in order (Table 16.3, R339). -/
  busy   : List (BitVec 12 × BitVec 48)
  /-- Start frames of ended collectives, and the frames after their ends, as far as the owners of packet frames need them (R334). -/
  past   : List (BitVec 48 × BitVec 48)
  /-- The collective of this package. -/
  coll   : Option Collective
  /-- SRC of the joined command, where it was read before START: its bytes, or the cause of the failure (R348). -/
  early  : Option (List Byte × Option (BitVec 8))
  /-- The group whose command this station withdraws (R338). -/
  withdrawing : Option (BitVec 12)
  /-- The slot clock (R331): its frame number at CYCLE 0, in 96ths of a frame. -/
  frame0 : Nat
  /-- The latest packet frame that has been read, the owners of the packet frames after it, and the station that was granted a
  frame last (R334). -/
  lastFrame : BitVec 48
  grants : List (Option (BitVec 4))
  prev   : BitVec 4
  /-- RETIRE and REINSTATE not yet effective: the wavelength, whether it returns, and the frame (R337). -/
  changes : List (BitVec 3 × Bool × BitVec 48)
  streams : Vector Stream 16
  /-- Next SEQ expected from each station, of the flits to this station and of those to every station (R335, R336). -/
  expect : Vector (BitVec 8) 16
  expectAll : Vector (BitVec 8) 16
  /-- Next SEQ to send to each destination (R335). -/
  sendSeq : Vector (BitVec 8) 16
  /-- Flits that wait to be sent, and those sent, which a retry may ask for again: bytes 0 to 35 (R335). -/
  sending : List (List Byte)
  sent    : List (List Byte)
  /-- Flits accepted, oldest first: bytes 0 to 35. -/
  accepted : List (List Byte)
  /-- Retry requests sent: station, whether it concerns the flits to every station, and SEQ. -/
  retries : List (BitVec 4 × Bool × BitVec 8)
  deriving DecidableEq, Repr

/-- An effective region control block of a context (R266): its level, rectangle and effective fields. -/
structure Rcb where
  level   : BitVec 3
  die0 : BitVec 2
  die1 : BitVec 2
  x0 : BitVec 5
  y0 : BitVec 5
  x1 : BitVec 5
  y1 : BitVec 5
  parent  : Nat
  pbudget : BitVec 16
  fmin    : BitVec 4
  fmax    : BitVec 4
  boost   : Bool
  prio    : BitVec 4
  fdom    : BitVec 32
  policy  : BitVec 2
  retry   : BitVec 3
  strict  : Bool
  stagger : BitVec 16
  deriving DecidableEq, Repr

/-- A fault record (Table 11.4). -/
structure FaultRecord where
  words : List Word
  deriving DecidableEq, Repr

/-- The part of an instruction of a TILE packet that one tile runs (R254, R258, R261): its unit numbers in the cuts of
the package, the die and the strip, its output block of the package's cut, its tile, and what it commits. -/
structure ChildUnit where
  path  : List Nat
  block : Nat
  tile  : BitVec 24
  strip : Nat
  bytes : List StagedByte
  flags : BitVec 6
  /-- A TCOLL waits for its collective. -/
  ready : Bool
  /-- Why the part failed. -/
  fault : Option (BitVec 8 × Word)
  /-- What I_4, I_3 and I_2 form of D: first index and extent in each dimension. -/
  regions : List (List (Nat × Nat))
  /-- Handles of their derived output records, as far as these have been written (R259). -/
  handles : List (BitVec 32)
  /-- K rows completed when all of them have been: 0 for an instruction without them (R274). -/
  krows : Nat
  /-- Its output has more than one group of eight columns (R274). -/
  wide : Bool
  /-- 0 running, 1 committed, 2 dropped, 3 committed by this tile's sequencer with its report on the way. -/
  state : BitVec 2
  /-- The write-blocked translation at which its tile stalls (R289). -/
  blocked : Option TEntry
  deriving DecidableEq, Repr

/-- The instruction stream of a TILE packet at level 5 (R254, R319). -/
structure TileRun where
  /-- Instructions not completed; the units are those of the first. -/
  insns   : List Word
  units   : List ChildUnit
  /-- P of R261 for the first instruction; 0 when K is not cut. -/
  kparts  : Nat
  /-- Its operands' records as its start checks read them: position and record. -/
  shapes  : List (Nat × BitVec 512)
  frame   : Vector (BitVec 32) 16
  fcsr    : Word
  seedk   : Word
  seeds   : Word
  srfix   : Word
  strict  : Bool
  shtb    : Word
  shtn    : Word
  /-- The package's grant (R256). -/
  grant   : Word
  flags   : BitVec 6
  dropped : Bool
  log     : List FaultRecord
  logPtr  : Word
  logCap  : Nat
  nlog    : Nat
  /-- Tries made of a running instruction, by its path (R265). -/
  tries   : List (List Nat × Nat)
  deriving DecidableEq, Repr

/-- A context (R312-R318). Tiles are named by their COORD. -/
structure Ctx where
  id       : Nat
  queue    : BitVec 10
  lidx     : BitVec 32
  ctxid    : BitVec 12
  root     : BitVec 38
  tiles    : List (BitVec 24)
  /-- The context buffer of each tile to which software has moved the context (R245). -/
  moved    : List (BitVec 24 × Word)
  det      : Bool
  cxen     : Bool
  cxb      : Word
  wp       : Word
  stept    : Word
  /-- Offset and length of the images in the SPM of every tile. -/
  ranges   : List (Nat × Nat)
  pmax     : BitVec 16
  prio     : BitVec 4
  rcbs     : List Rcb
  hwd      : BitVec 16
  running  : Bool
  /-- Parked (R318): VALUE, EPC and COORD of the fault. -/
  parked   : Option (Word × Word × BitVec 24)
  saving   : Bool
  halted   : List (BitVec 24)
  joined   : List (BitVec 24 × Bool)
  idle     : List (BitVec 24)
  asleep   : List (BitVec 24)
  heldRecs : List (BitVec 24)
  /-- The home address of the task-queue descriptor that each tile names. -/
  queues   : List (BitVec 24 × Nat)
  /-- Packets of the context in flight that are not this tile's (R248). -/
  inFlight : Nat
  /-- Tiles whose exchange records have all landed (R197). -/
  landed   : List (BitVec 24)
  release  : Option Word
  /-- K of a step-boundary cut in progress, and the tiles that have taken its PREEMPT (R246). -/
  cut      : Option Nat
  stopped  : List (BitVec 24)
  /-- Tiles that stand before an SSTEP, having taken a PREEMPT there and not returned from it (R241, R246). -/
  before   : List (BitVec 24)
  /-- CYCLE at which its hang watchdog was last restarted (R328). -/
  watched  : Word
  /-- Status, value, EPC and coordinate of a kill that waits for the end of a save (R249, R317). -/
  doomed   : Option (BitVec 8 × Word × Word × BitVec 24)
  run      : Option TileRun
  /-- Status, cause value, EPC and coordinate of its end, once killed or failed. -/
  ended    : Option (BitVec 8 × Word × Word × BitVec 24)
  deriving DecidableEq, Repr

/-- Where a started packet stands (R310). -/
inductive PktPhase where
  /-- Started; its operation runs or waits. -/
  | running
  /-- A LAUNCH that waits for admission. -/
  | waiting
  /-- Its operation has ended with STATUS, COORD, VALUE and EPC. -/
  | finished (status : BitVec 8) (coord : BitVec 24) (value epc : Word)
  deriving DecidableEq, Repr

/-- A started packet. -/
structure Pkt where
  idx   : BitVec 32
  words : List Word
  /-- CYCLE when it started. -/
  since : Word
  phase : PktPhase
  /-- Context it created. -/
  ctx   : Nat
  /-- The write-blocked translation that stalls it until a shootdown covers the page (R289). -/
  blocked : Option TEntry
  /-- The condition of a WAIT has held (R320). -/
  met   : Bool
  deriving DecidableEq, Repr

/-- A user queue as the front end holds it (R305, R306). -/
structure Queue where
  q      : BitVec 10
  slot   : Option (BitVec 5)
  /-- The descriptor dwords read at the mapping. -/
  desc   : List Word
  head   : BitVec 32
  ctail  : BitVec 32
  tail   : BitVec 32
  err    : BitVec 8
  started : List Pkt
  /-- QSTOP has stopped it from starting packets. -/
  stopping : Bool
  /-- Order of its latest start or completion among those of all queues. -/
  last   : Nat
  deriving DecidableEq, Repr

/-- A shootdown in progress (R290). -/
structure Shootdown where
  ctxid : BitVec 12
  all   : Bool
  base  : Word
  count : BitVec 32
  acks  : BitVec 4
  queue : BitVec 10
  idx   : BitVec 32
  deriving DecidableEq, Repr

/-- A slot of a staging area's shape table (R254, R259): the level and unit that hold it, its number, its generation, and the
derived record. -/
structure StageSlot where
  level  : Nat
  unit   : Nat
  slot   : Nat
  gen    : BitVec 12
  record : BitVec 512
  /-- Where a strip's record stands in a staging window. -/
  place  : Option Nat
  deriving DecidableEq, Repr

/-- The front end (R305-R328). -/
structure FrontEnd where
  qdtb     : Word
  queues   : List Queue
  wake     : List (BitVec 10)
  /-- LAUNCH packets that wait for admission, in start order: queue, index and effective RCBs. -/
  launches : List (BitVec 10 × BitVec 32 × List Rcb)
  ctxs     : List Ctx
  nextCtx  : Nat
  /-- Continuation records on their way to a task queue, or held because it is full, with their contexts (R204). -/
  pushes   : List (Nat × Word × List Word)
  /-- NOTIFY writes kept while the queue-wake kid cores are down (R326). -/
  kept     : List (BitVec 10 × BitVec 32)
  shoot    : Option Shootdown
  fbact    : Bool
  kidDown  : BitVec 6
  /-- The slot at which the fallback scheduler's next visit starts (R327). -/
  visit    : Nat
  /-- Starts and completions of packets so far. -/
  clock    : Nat
  msix     : List (BitVec 16)
  /-- PAGE_FAULT events not yet posted: the context and its fault (Tables 15.8, 15.11). -/
  events   : List (Nat × Word × Word × BitVec 24)
  /-- What posted stores have made of lines since the WAITs were last evaluated (R320). -/
  past     : List (Nat × Row)
  /-- TCOLL commands of TILE packets in the engine 1 of other tiles (R255), and the commands pushed so far by the package's tiles
  (R330). -/
  colls    : List SwCmd
  swNext   : Nat
  deriving DecidableEq, Repr

/-- A key pair (R392). -/
structure KeyPair where
  pub : List Byte
  sec : List Byte
  deriving DecidableEq, Repr

/-- An Ed25519 and an ML-DSA-65 key pair (R392). -/
structure KeyPairs where
  ed25519 : KeyPair
  mldsa   : KeyPair
  deriving DecidableEq, Repr

/-- Boot, identity and host registers (R379-R393). -/
structure Boot where
  reason : BitVec 8
  svn    : BitVec 8
  fscnt  : BitVec 2
  mini   : Bool
  bootok : Bool
  /-- The start timer runs, and CYCLE when it was started (R385). -/
  timer  : Bool
  timerAt : Word
  /-- The image that runs: its SVN, entry and body. -/
  image  : Option (BitVec 8 × Word × List Byte)
  flash  : Memory
  /-- The boot flash cannot be read (Table 21.7). -/
  flashBad : Bool
  recov  : Memory
  diag   : BitVec 8
  report : List Byte
  /-- The device secret in fuses, and the device and alias keys inside the signing engine, once derived (R392). -/
  secret : BitVec 256
  device : Option KeyPairs
  alias_ : Option KeyPairs
  /-- The resident supervisor handler has been loaded (R318, R385). -/
  handler : Bool
  pkgId  : BitVec 12
  pkgSet : Bool
  rtmo   : BitVec 16
  howb   : Vector Word 16
  howl   : Vector Word 16
  lock   : Bool
  route  : List (Nat × BitVec 16)
  deriving DecidableEq, Repr

/-- Snapshot control (R395-R397). -/
structure Snap where
  halt   : Bool
  pinEn  : Bool
  trig   : Bool
  trapEn : BitVec 23
  cyc    : Word
  /-- The latch tick of a trigger that has been taken. -/
  latchAt : Option Word
  /-- The tick at which the trigger arose. -/
  armed  : Option Word
  frozen : Bool
  /-- Snapshot sets: die and physical index, eight dwords. -/
  sets   : List (Nat × List Word)
  deriving DecidableEq, Repr

/-- Package power (Table 18.3, R365-R367). Q is in microjoules. -/
structure Power where
  pcap   : BitVec 12
  prej   : BitVec 12
  gceil  : BitVec 12
  clamp  : Bool
  nclamp : BitVec 16
  quj    : Nat
  melt   : BitVec 11
  refz   : Bool
  /-- CYCLE at which the latest refreeze began, and at the latest update of the heat store (R365, R366). -/
  refzAt : Word
  heatAt : Word
  /-- CYCLE since which the measured power has stood below min(PCAP, GCEIL), with no trip of the governor (R362). -/
  below  : Option Word
  ppwr   : BitVec 12
  nextId : BitVec 16
  serial : Nat
  deriving DecidableEq, Repr

/-- A memory with a correctable-error counter of its own (R296): the SPM or the vault of a tile, the executing tile's L1
and its weight buffer. -/
inductive MemoryName where
  | spm (tile : BitVec 24)
  | vault (tile : BitVec 24)
  | l1
  | weights
  deriving DecidableEq, Repr

/-- Soft errors (R296-R299): the uncorrectable and the correctable words, what has been logged, and the correctable-error
counter of each memory that has counted one. -/
structure Errors where
  bad   : List ErrorPlace
  soft  : List ErrorPlace
  log   : List ErrorPlace
  corrected : List (MemoryName × Nat)
  deriving DecidableEq, Repr

/-- The package outside the executing tile. -/
structure Hub where
  fe     : FrontEnd
  boot   : Boot
  snap   : Snap
  power  : Power
  strips : Vector Strip 256
  acu    : Vector AccUnit 4
  disc   : Vector Discovery 4
  sweut  : Vector Attachment 16
  tags   : List HomeTag
  errors : Errors
  /-- The staging areas of Table 11.1. -/
  staging : List StageSlot
  deriving DecidableEq, Repr

/-- What the environment presents to the machine: an operation of the opcode table, or something that other
tiles do and the table has no row for (R209, R210). -/
inductive Input where
  | event (i : Instr)
  /-- Another tile of the row issues GANG. -/
  | gangPeer (coord : BitVec 24) (code : BitVec 2)
  /-- The leader's stream for a follower: the bundle, its address, and what goes with it. -/
  | gangBundle (bundle addr : Word) (lead : GangLead)
  /-- Every other member's access half can take this leader's next bundle (R210). -/
  | gangReady
  /-- Another member's guard holds for the UNGANG in hand, or for the one just executed (R210). -/
  | ungang
  /-- A gang member trapped (R210). -/
  | gangTrap (gidx : BitVec 3) (cause : BitVec 8)
  /-- The cores of another tile of a context halt, idle, sleep or join a barrier (R316, R324). -/
  | peerHalted (ctx : Nat) (coord : BitVec 24)
  | peerIdle (ctx : Nat) (coord : BitVec 24)
  | peerAsleep (ctx : Nat) (coord : BitVec 24)
  | peerJoined (ctx : Nat) (coord : BitVec 24) (ends : Bool)
  /-- The exchange records of another tile have all landed; one of them sets this tile's arrival flag (R197, R269). -/
  | peerLanded (ctx : Nat) (coord : BitVec 24)
  | exchangeNotify
  /-- Another tile of the context has taken the PREEMPT of its cut (R246). -/
  | peerStopped (ctx : Nat) (coord : BitVec 24)
  /-- Packets in flight that the counts of other routers, channels and queues hold for a context (R248). -/
  | inFlight (ctx n : Nat)
  /-- The fastest code that the other tiles of a strip are to run at, and a wake event of one of them, by its physical x (R356, R358). -/
  | stripPeers (strip : BitVec 8) (code : BitVec 4)
  | peerWake (strip : BitVec 8) (x : BitVec 5)
  /-- The resident handler of a tile parks its context on a page fault, or asks for its kill (R318, Table 15.8). -/
  | handlerPark (ctx : Nat) (coord : BitVec 24) (value epc : Word)
  | handlerKill (ctx : Nat) (coord : BitVec 24) (cause : BitVec 8) (value epc : Word)
  /-- The boot flash becomes unreadable, or readable (Table 21.7). -/
  | flashError (bad : Bool)
  /-- Another tile takes a trap, which may trigger a package snapshot (R395). -/
  | peerTrap (cause : BitVec 8)
  /-- The power of the package over the last 100 µs, as measured (Table 18.3). -/
  | packagePower (power : BitVec 12)
  /-- The resident handler of this tile acts (Table 15.8). -/
  | handler
  /-- The host stores `n` bytes into its own memory (R211). -/
  | hostStore (addr : Word) (n : Nat) (value : Word)
  /-- What the other stations light in the packet frame of a segment that is read now: the counts of the request slots, and those of
  slots 16 to 63 of each wavelength; none is an invalid reading (R333, R334). -/
  | packetFrame (a : BitVec 4) (requests : List (Option Nat)) (slots : List (List (Option Nat)))
  deriving DecidableEq, Repr

/-- The machine. -/
structure State where
  tile   : Tile
  mem    : Memory
  hub    : Hub
  /-- CYCLE, the chip-synchronised counter (R7). -/
  cycle  : Word
  /-- The model's own counter for free values (log 6). -/
  free   : Nat
  /-- The model's own schedule of what the environment presents, next first (log 1). -/
  inputs : List Input
  deriving DecidableEq, Repr

/-- No translation, no command, nothing held: the memory path of a tile at reset. -/
def MemPath.reset : MemPath :=
  { l1 := [], rlv := 7, posted := [], failures := [], tcache := [], pinned := [], walk := none, walkFail := none, tx := none, away := [] }

/-- The context-scope CSRs at reset: 0 where Table 1.13 and 1.15 give it, 0 elsewhere, and eight free
allowances (log 5). -/
def CtxCsrs.reset : CtxCsrs :=
  { step := 0, fcsr := 0, seedk := 0, seeds := 0, srfix := 0, energy := 0, pgrant := 0, stagger := 0,
    depmask := 0, mallow := 8, shtb := 0, shtn := 0, rgtb := 0 }

/-- The executing tile at reset (Tables 1.5, 1.10, 1.13, 1.15, 6.2; the rest log 5). -/
def Tile.reset : Tile :=
  { regs := { g := .replicate 32 0, v := .replicate 16 0, p := 1, q := 1, c := .replicate 16 0,
              h := .replicate 16 0, acc := .replicate 16 0, m := .replicate 8 0 }
    matrix := { cfg := 0, bankA := [], bankB := [] }
    ports := { acc := .replicate 12 ⟨0, 0⟩, exe := .replicate 12 ⟨0, 0⟩,
               inq := .replicate 8 [], outq := .replicate 4 [] }
    ctx := .reset
    csr := { status := 1, wp := 0x7000, swp := 0, ecause := 0, eval := 0, evec := 0, escr := 0,
             ewp := 0x7000, coord := 0, pcoord := 0, snapAt := 0, snapArmed := false,
             ew := .replicate 8 0, ews := 0 }
    front := { started := false, apc := 0, latch := none, ahead := [], aq := [], rq := [], replay := none,
               ordered := none, skip := false, xtrap := none, ast := .run, xst := .run,
               loop := { lcnt := 0, llen := 0, lact := false, lbeg := 0 },
               rpt := { riter := 0, rcnt := 0, rstr := 0, rn := 0, rpos := 0, ract := false,
                        words := .replicate 16 0, addrs := .replicate 16 0 } }
    wait := .idle
    eng := { fifo0 := [], fifo1 := [], res := .replicate 3 [], held := .replicate 3 none }
    seq := { queue := [], running := none, held := none, stopped := false, blocked := none }
    net := { inbox := [], lead := 0, arrived := false, sent := [], waiting := [], spillTo := none }
    pend := { gangBreak := none, lease := none, capBreach := none, scopeMiss := none, allAsleep := none,
              snapshot := none, preempt := none }
    path := .reset
    res := { ctx := 0, cxb := 0, ctxid := 0, root := 0, held := [], cut := none, listPos := 0, lists := [],
             listAddr := 0, peers := [], leaderNext := none, gangReady := false, ungang := false, unnamed := false, rejected := none,
             killed := [],
             report := none, startAt := none, quantum := 0, saveAt := 0 }
    power := { state := .hold, code := 9, since := 0, polled := false, armed := true, slowFrom := none, fastFrom := none, resident := 0 } }

/-- An access counter unit at reset (Table 13.7). -/
def AccUnit.reset : AccUnit :=
  { entries := [], order := [], en := false, drops := 0, thr := 0, anqb := 0, logn := 4, tail := 0, head := 0 }

/-- A die not in discovery (log 5). No tile of a part that has not been started is fused: the model's choice (log 34). -/
def Discovery.reset : Discovery :=
  { active := false, fuses := [], since := 0, fawnAt := 0, agent := 0, fawned := false, heard := [], replied := [], fusedSeen := 0, queue := [],
    mesh := [], coords := [], dmoff := 0, partial_ := [], packets := [], sentAny := false,
    discarded := false, fused := 0, failed := false, done := false, lmap := [] }

/-- A strip at reset (Table 18.4). -/
def Strip.reset : Strip :=
  { tcnt := 0, thr := false, temp := 0, tcode := 4, tthr := 0x0550, clamp := 0, gov := 0, code := 9, others := 9, want := 9, arbiter := [],
    arbFree := 0, vlvl := 0, pwr := 0, id := 0, rem := 0, extra := 0, st := 0, holder := 0, serial := 0, granted := 0, turned := 0, sampled := 0, recent := [],
    withheld := none, given := 0 }

/-- An attachment at reset (Table 16.3). -/
def Attachment.reset : Attachment :=
  { jtmo := 10000, up := false, actw := 0, acklag := 0, wlim := 0, nstn := 0, stn := 0, lead := 0, newLim := none,
    nfail := 0, lfGroup := 0, reason := 0, berth := 0xA7C6,
    waves := .replicate 8 { bere := 0, corr := 0, retr := 0, ldly := 0, state := 3, bits := 0, errs := 0, buckets := [],
                            trained := false, trimmed := 0 },
    done := 0, resent := 0, groups := [], busy := [], past := [], coll := none, early := none, withdrawing := none, frame0 := 0,
    lastFrame := 0, grants := [], prev := 15, changes := [], streams := .replicate 16 { on := 0, part := [] },
    expect := .replicate 16 0, expectAll := .replicate 16 0, sendSeq := .replicate 16 0, sending := [], sent := [],
    accepted := [], retries := [] }

/-- The front end at reset. -/
def FrontEnd.reset : FrontEnd :=
  { qdtb := 0, queues := [], wake := [], launches := [], ctxs := [], nextCtx := 1, pushes := [], kept := [],
    shoot := none, fbact := false, kidDown := 0, visit := 0, clock := 0, msix := [], events := [], past := [], colls := [], swNext := 0 }

/-- The package at reset (Tables 13.7, 16.3, 18.3, 18.4, 21.3, 21.4, 21.5; the rest log 5). The fused SVN of a part that has not
been started is the model's choice, 0: Table 21.3 gives its reset only as "Fuse"; so is its device secret, 0 (log 34). -/
def Hub.reset : Hub :=
  { fe := .reset
    boot := { reason := 0, svn := 0, fscnt := 0, mini := false, bootok := false, timer := false, timerAt := 0,
              image := none, flash := [], flashBad := false, recov := [], diag := 0, report := [], secret := 0, device := none, alias_ := none,
              handler := false, pkgId := 0, pkgSet := false,
              rtmo := 2, howb := .replicate 16 0, howl := .replicate 16 0, lock := false, route := [] }
    snap := { halt := false, pinEn := false, trig := false, trapEn := 0, cyc := 0, latchAt := none,
              armed := none, frozen := false, sets := [] }
    power := { pcap := 3000, prej := 2000, gceil := 3000, clamp := false, nclamp := 0, quj := 0, melt := 0,
               refz := false, refzAt := 0, heatAt := 0, below := none, ppwr := 0, nextId := 1, serial := 0 }
    strips := .replicate 256 .reset
    acu := .replicate 4 .reset
    disc := .replicate 4 .reset
    sweut := .replicate 16 .reset
    tags := []
    errors := { bad := [], soft := [], log := [], corrected := [] }
    staging := [] }

/-- The machine right after reset (R5): memory lists nothing, and the tile has not been started: the boot
ROM, discovery and a LAUNCH come first (log 7). -/
def State.reset : State :=
  { tile := .reset, mem := [], hub := .reset, cycle := 0, free := 0, inputs := [] }

end Sys2Proof.Machine
end

