-- ==== Sys2Proof/Machine/Fec.lean ====
section
/-!
DEFINITION. The code of packet-class flits: RS(48, 36) over GF(2^8), which corrects up to 6 byte symbols (R335, Table 16.1). The
field, the roots of the generator polynomial and the order of the symbols are the implementation's (log 35).
-/

namespace Sys2Proof.Machine

/-! ### GF(2^8) -/

/-- Product in the field. -/
def gfMul (a b : Byte) : Byte :=
  ((List.range 8).foldl (fun (x : Byte × Byte) i =>
    (if b.getLsbD i then x.1 ^^^ x.2 else x.1, (x.2 <<< 1) ^^^ (if x.2.getLsbD 7 then Config.fecPoly else 0))) (0, a)).1

/-- Power. -/
def gfPow (a : Byte) : Nat → Byte
  | 0 => 1
  | n + 1 => gfMul a (gfPow a n)

/-- Inverse of an element that is not 0. -/
def gfInv (a : Byte) : Byte := gfPow a 254

/-- Power `n` of the element 2, which generates the field. -/
def gfExp (n : Nat) : Byte := gfPow 2 (n % 255)

/-- Sum of polynomials, lowest coefficient first. -/
def gfAdd : List Byte → List Byte → List Byte
  | [], q => q
  | p, [] => p
  | a :: p, b :: q => (a ^^^ b) :: gfAdd p q

/-- Value of a polynomial, lowest coefficient first. -/
def gfEval (p : List Byte) (x : Byte) : Byte := p.foldr (fun c acc => gfMul acc x ^^^ c) 0

/-- Product of polynomials, lowest coefficient first. -/
def gfConv : List Byte → List Byte → List Byte
  | [], _ => []
  | a :: p, q => gfAdd (q.map (gfMul a)) (0 :: gfConv p q)

/-! ### The code -/

/-- The generator polynomial, lowest coefficient first: its roots are 12 successive powers. -/
def fecGenerator : List Byte := (List.range 12).foldl (fun g j => gfConv g [gfExp (Config.fecRoot + j), 1]) [1]

/-- Bytes 36 to 47 of a flit: the remainder of bytes 0 to 35, byte 0 being the highest coefficient. -/
def fecParity (l : List Byte) : List Byte :=
  let g := (fecGenerator.take 12).reverse
  l.foldl (fun r b =>
    let x := b ^^^ r.headD 0
    List.zipWith (fun a c => a ^^^ gfMul x c) (r.tail ++ [0]) g) (List.replicate 12 0)

/-- The 12 syndromes of a word. -/
def fecSyndromes (l : List Byte) : List Byte := (List.range 12).map fun j => gfEval l.reverse (gfExp (Config.fecRoot + j))

/-- The search for the error locator: the locator, the one before its last change, its length, the steps since, and the
discrepancy then. -/
structure FecSearch where
  c : List Byte
  b : List Byte
  len : Nat
  gap : Nat
  d : Byte
  deriving DecidableEq, Repr

/-- One step of the search, on syndrome `n`. -/
def FecSearch.step (x : FecSearch) (syn : List Byte) (n : Nat) : FecSearch :=
  let d := (List.range (x.len + 1)).foldl (fun a i => a ^^^ gfMul (x.c.getD i 0) (if i ≤ n then syn.getD (n - i) 0 else 0)) 0
  let next := gfAdd x.c (List.replicate x.gap 0 ++ x.b.map (gfMul (gfMul d (gfInv x.d))))
  if d = 0 then { x with gap := x.gap + 1 }
  else if 2 * x.len ≤ n then { c := next, b := x.c, len := n + 1 - x.len, gap := 1, d := d }
  else { x with c := next, gap := x.gap + 1 }

/-- The error locator. -/
def fecLocator (syn : List Byte) : List Byte :=
  ((List.range 12).foldl (fun x n => x.step syn n) ({ c := [1], b := [1], len := 0, gap := 1, d := 1 } : FecSearch)).c

/-- The formal derivative. -/
def gfDeriv (p : List Byte) : List Byte := p.tail.mapIdx fun i c => if i % 2 = 0 then c else 0

/-- The error of byte `i` of a word. -/
def fecError (syn loc : List Byte) (i : Nat) : Byte :=
  let x := gfExp (47 - i)
  let y := gfInv x
  if gfEval loc y ≠ 0 then 0
  else
    let omega := (gfConv syn loc).take 12
    let lead := gfExp (255 + (47 - i) * (256 - Config.fecRoot % 255))
    gfMul lead (gfMul (gfEval omega y) (gfInv (gfEval (gfDeriv loc) y)))

/-- The corrected word; none for one that the code cannot correct. -/
def fecCorrect (l : List Byte) : Option (List Byte) :=
  let syn := fecSyndromes l
  let loc := fecLocator syn
  let fixed := l.mapIdx fun i b => b ^^^ fecError syn loc i
  let changed := (List.zipWith (fun a b => decide (a ≠ b)) l fixed).count true
  if (fecSyndromes fixed).all (fun b => b == 0) && decide (changed ≤ 6) then some fixed else none

end Sys2Proof.Machine
end

