-- ==== Sys2Proof/Machine/Memory.lean ====
section
/-!
DEFINITION. Bytes of memory: reading, writing in canonical form, and the wider little-endian accesses (R4)
built from them in one place.
-/

namespace Sys2Proof.Machine

/-- What an unlisted address reads as (DESIGN CHOICE, log 3). -/
def Memory.unlisted : Byte := 0

/-- The byte at an address. -/
def Memory.read : Memory → Nat → Byte
  | [], _ => Memory.unlisted
  | (a, b) :: m, x => if a = x then b else Memory.read m x

/-- Insert a byte before the first higher address. -/
def Memory.put : Memory → Nat → Byte → Memory
  | [], x, y => [(x, y)]
  | (a, b) :: m, x, y => if x < a then (x, y) :: (a, b) :: m else (a, b) :: Memory.put m x y

/-- Remove an address from the list. -/
def Memory.drop : Memory → Nat → Memory
  | [], _ => []
  | (a, b) :: m, x => if a = x then Memory.drop m x else (a, b) :: Memory.drop m x

/-- Write one byte: an unlisted value removes the entry, so equal memories are equal lists. -/
def Memory.write (m : Memory) (x : Nat) (y : Byte) : Memory :=
  if y = Memory.unlisted then m.drop x else (m.drop x).put x y

/-- Addresses rise strictly from above `lo`, and no entry holds the unlisted value. -/
def Memory.wfFrom : Nat → Memory → Bool
  | _, [] => true
  | lo, (a, b) :: m => decide (lo ≤ a) && decide (b ≠ Memory.unlisted) && Memory.wfFrom (a + 1) m

/-- The canonical form. -/
def Memory.wf (m : Memory) : Bool := Memory.wfFrom 0 m

/-- The number in `n` bytes from an address, little-endian. -/
def Memory.readNat (m : Memory) (x : Nat) : Nat → Nat
  | 0 => 0
  | n + 1 => (m.read x).toNat + 256 * m.readNat (x + 1) n

/-- Write the low `n` bytes of a number from an address, little-endian. -/
def Memory.writeNat (m : Memory) (x : Nat) : Nat → Nat → Memory
  | 0, _ => m
  | n + 1, v => Memory.writeNat (m.write x (BitVec.ofNat 8 v)) (x + 1) n (v / 256)

/-- A dword. -/
def Memory.readWord (m : Memory) (x : Nat) : Word := BitVec.ofNat 64 (m.readNat x 8)

/-- Write a dword. -/
def Memory.writeWord (m : Memory) (x : Nat) (v : Word) : Memory := m.writeNat x 8 v.toNat

/-- A 64-byte row. -/
def Memory.readRow (m : Memory) (x : Nat) : Row := BitVec.ofNat 512 (m.readNat x 64)

/-- The `n` bytes from an address. -/
def Memory.readBytes (m : Memory) (x : Nat) : Nat → List Byte
  | 0 => []
  | n + 1 => m.read x :: m.readBytes (x + 1) n

/-- Write bytes from an address upwards. -/
def Memory.writeBytes (m : Memory) (x : Nat) : List Byte → Memory
  | [] => m
  | b :: bs => Memory.writeBytes (m.write x b) (x + 1) bs

/-- Write dwords from an address upwards. -/
def Memory.writeWords (m : Memory) (x : Nat) : List Word → Memory
  | [] => m
  | w :: ws => Memory.writeWords (m.writeWord x w) (x + 8) ws

/-- `n` dwords from an address. -/
def Memory.readWords (m : Memory) (x : Nat) : Nat → List Word
  | 0 => []
  | n + 1 => m.readWord x :: m.readWords (x + 8) n

/-- The listed bytes of a range, moved to offsets from 0 (for a bank or an image). -/
def Memory.slice (m : Memory) (lo len : Nat) : Memory :=
  (m.filter fun c => decide (lo ≤ c.1) && decide (c.1 < lo + len)).map fun c => (c.1 - lo, c.2)

/-- Remove every listed byte of a range: the range then reads as the unlisted value. -/
def Memory.clear (m : Memory) (lo len : Nat) : Memory :=
  m.filter fun c => !(decide (lo ≤ c.1) && decide (c.1 < lo + len))

/-- Lay a sliced range down at `lo`. -/
def Memory.lay (m : Memory) (lo : Nat) (cells : Memory) : Memory :=
  cells.foldl (fun m c => m.write (lo + c.1) c.2) m

/-- Bytes of an access size. -/
def sizeBytes : AccessSize → Nat
  | .b1 => 1
  | .b2 => 2
  | .b4 => 4
  | .b8 => 8

end Sys2Proof.Machine
end

