-- ==== Sys2Proof/Machine/Ops.lean ====
section
/-!
DEFINITION. The named operations over registers, the workspace, the two halves and the queue; taking a trap
and returning from one.
-/

namespace Sys2Proof.Machine

/-- What a meaning answers. -/
abbrev Out := Host.Outcome State Fault Refusal

/-! ### Updates of the parts of the state -/

def State.setMem (s : State) (m : Memory) : State := { s with mem := m }
def State.setTile (s : State) (t : Tile) : State := { s with tile := t }
def State.setHub (s : State) (h : Hub) : State := { s with hub := h }
def State.setRegs (s : State) (r : Regs) : State := { s with tile := { s.tile with regs := r } }
def State.setMatrix (s : State) (r : MatrixUnit) : State := { s with tile := { s.tile with matrix := r } }
def State.setPorts (s : State) (r : Ports) : State := { s with tile := { s.tile with ports := r } }
def State.setCtx (s : State) (r : CtxCsrs) : State := { s with tile := { s.tile with ctx := r } }
def State.setCsr (s : State) (r : TileCsrs) : State := { s with tile := { s.tile with csr := r } }
def State.setFront (s : State) (r : Front) : State := { s with tile := { s.tile with front := r } }
def State.setWait (s : State) (r : Wait) : State := { s with tile := { s.tile with wait := r } }
def State.setEng (s : State) (r : Engines) : State := { s with tile := { s.tile with eng := r } }
def State.setSeq (s : State) (r : Sequencer) : State := { s with tile := { s.tile with seq := r } }
def State.setNet (s : State) (r : Net) : State := { s with tile := { s.tile with net := r } }
def State.setPend (s : State) (r : Pending) : State := { s with tile := { s.tile with pend := r } }
def State.setPath (s : State) (r : MemPath) : State := { s with tile := { s.tile with path := r } }
def State.setRes (s : State) (r : Residence) : State := { s with tile := { s.tile with res := r } }
def State.setPower (s : State) (r : TilePower) : State := { s with tile := { s.tile with power := r } }
def State.setFe (s : State) (r : FrontEnd) : State := { s with hub := { s.hub with fe := r } }
def State.setBoot (s : State) (r : Boot) : State := { s with hub := { s.hub with boot := r } }
def State.setSnap (s : State) (r : Snap) : State := { s with hub := { s.hub with snap := r } }
def State.setPw (s : State) (r : Power) : State := { s with hub := { s.hub with power := r } }
def State.setErrors (s : State) (r : Errors) : State := { s with hub := { s.hub with errors := r } }
def State.setDisc (s : State) (d : BitVec 2) (r : Discovery) : State :=
  { s with hub := { s.hub with disc := s.hub.disc.set d.toNat r d.isLt } }
def State.setAcu (s : State) (d : BitVec 2) (r : AccUnit) : State :=
  { s with hub := { s.hub with acu := s.hub.acu.set d.toNat r d.isLt } }
def State.setStrip (s : State) (i : BitVec 8) (r : Strip) : State :=
  { s with hub := { s.hub with strips := s.hub.strips.set i.toNat r i.isLt } }
def State.setAtt (s : State) (a : BitVec 4) (r : Attachment) : State :=
  { s with hub := { s.hub with sweut := s.hub.sweut.set a.toNat r a.isLt } }

/-! ### Registers -/

/-- g registers read; g0 reads 0 (R15). -/
def State.g (s : State) (r : BitVec 5) : Word := if r = 0 then 0 else s.tile.regs.g.get r.toFin

/-- g registers written; a write of g0 is discarded (R15). -/
def State.setG (s : State) (r : BitVec 5) (x : Word) : State :=
  if r = 0 then s else s.setRegs { s.tile.regs with g := s.tile.regs.g.set r.toNat x r.isLt }

/-- Access-half predicates; p0 reads 1 (R15). -/
def State.p (s : State) (i : BitVec 3) : Bool := i == 0 || s.tile.regs.p.getLsbD i.toNat

/-- Write a bit of a predicate byte; bit 0 keeps reading 1 (R15). -/
def putPred (byte : BitVec 8) (i : BitVec 3) (b : Bool) : BitVec 8 :=
  if i = 0 then byte
  else (byte &&& ~~~((1 : BitVec 8) <<< i.toNat)) ||| ((if b then 1 else 0 : BitVec 8) <<< i.toNat)

def State.setP (s : State) (i : BitVec 3) (b : Bool) : State :=
  s.setRegs { s.tile.regs with p := putPred s.tile.regs.p i b }

/-- Execute-half predicates; q0 reads 1 (R15). -/
def State.q (s : State) (i : BitVec 3) : Bool := i == 0 || s.tile.regs.q.getLsbD i.toNat

def State.setQ (s : State) (i : BitVec 3) (b : Bool) : State :=
  s.setRegs { s.tile.regs with q := putPred s.tile.regs.q i b }

/-- v registers. -/
def State.v (s : State) (r : BitVec 4) : Row := s.tile.regs.v.get r.toFin

def State.setV (s : State) (r : BitVec 4) (x : Row) : State :=
  s.setRegs { s.tile.regs with v := s.tile.regs.v.set r.toNat x r.isLt }

/-! ### STATUS (Table 1.10) -/

/-- Supervisor mode. -/
def State.sup (s : State) : Bool := s.tile.csr.status.getLsbD 0
def State.ie (s : State) : Bool := s.tile.csr.status.getLsbD 1
def State.dwt (s : State) : Bool := s.tile.csr.status.getLsbD 2
def State.det (s : State) : Bool := s.tile.csr.status.getLsbD 5
def State.cph (s : State) : Bool := s.tile.csr.status.getLsbD 6
def State.txact (s : State) : Bool := s.tile.csr.status.getLsbD 7
def State.grole (s : State) : BitVec 2 := s.tile.csr.status.extractLsb' 16 2

/-- Set or clear one STATUS bit. -/
def State.setStatusBit (s : State) (i : Nat) (b : Bool) : State :=
  s.setCsr { s.tile.csr with
    status := (s.tile.csr.status &&& ~~~((1 : Word) <<< i)) ||| ((if b then 1 else 0 : Word) <<< i) }

/-- Codes of Table 1.1. -/
def halfCode : HalfState → Word
  | .run => 0
  | .port => 1
  | .resource => 2
  | .wait => 3
  | .asleep => 4
  | .trapped => 5
  | .halted => 6

/-- The stored bits of STATUS: MODE, IE, DWT, DET, CPH, TXACT, GROLE, GSZ, GIDX. -/
def statusMask : Word := 0x7F00E7

/-- The image of STATUS with AST and XST and the FH given (Table 1.10). -/
def State.statusImage (s : State) (fh : Bool) : Word :=
  (s.tile.csr.status &&& statusMask) ||| ((if fh then 1 else 0) <<< 4)
    ||| (halfCode s.tile.front.ast <<< 8) ||| (halfCode s.tile.front.xst <<< 12)

/-! ### The tile's own place -/

/-- The base address of the tile named by a COORD (R281). -/
def coordBase (c : BitVec 24) : Nat := c.toNat * 2 ^ 30

def State.own (s : State) : BitVec 24 :=
  if s.tile.res.unnamed then s.tile.csr.coord.setWidth 24 ||| 0x3E0 else s.tile.csr.coord.setWidth 24

/-- An absolute mesh pointer to an offset of the executing tile (FMT 0, REL 0). -/
def State.ownPtr (s : State) (off : Nat) : Word := BitVec.ofNat 64 (coordBase s.own + off)

/-- Address of an SPM offset of the executing tile. -/
def State.ownAddr (s : State) (off : Nat) : Nat := coordBase s.own + off

/-! ### The workspace (R14, Table 1.2) -/

/-- g1 to g31 written to the workspace at an address. -/
def writeGs (m : Memory) (base : Nat) (g : Vector Word 32) : Memory :=
  m.writeWords (base + 8) (g.toList.drop 1)

/-- v0 to v15 written to the workspace. -/
def writeVs (m : Memory) (base : Nat) : List Row → Memory
  | [] => m
  | r :: rs => writeVs (m.writeNat base 64 r.toNat) (base + 64) rs

/-- Write the registers back to the workspace at an SPM offset (R19). -/
def State.writeBack (s : State) (ws : Nat) : State :=
  let b := s.ownAddr ws
  let r := s.tile.regs
  let m := writeGs s.mem b r.g
  let m := writeVs m (b + 0x100) r.v.toList
  let m := (m.write (b + 0x500) (r.p ||| 1)).write (b + 0x501) (r.q ||| 1)
  s.setMem m

/-- The rows of a workspace. -/
def readVs (m : Memory) (base : Nat) : Nat → List Row
  | 0 => []
  | n + 1 => m.readRow base :: readVs m (base + 64) n

/-- Take the registers from the workspace at an SPM offset. -/
def State.loadRegs (s : State) (ws : Nat) : State :=
  let b := s.ownAddr ws
  let r := s.tile.regs
  s.setRegs { r with
    g := Vector.ofFn fun i : Fin 32 => if i.val = 0 then 0 else s.mem.readWord (b + 8 * i.val)
    v := Vector.ofFn fun i : Fin 16 => s.mem.readRow (b + 0x100 + 64 * i.val)
    p := s.mem.read (b + 0x500) ||| 1
    q := s.mem.read (b + 0x501) ||| 1 }

/-- The SPM offset that a workspace pointer holds (R14). -/
def wsOffset (w : Word) : Nat := w.toNat % 2 ^ 19

/-- Switch the active workspace: write back the outgoing one first (R19, R32). -/
def State.switchWp (s : State) (w : Word) : State :=
  let s := s.writeBack (wsOffset s.tile.csr.wp)
  let s := s.setCsr { s.tile.csr with wp := w }
  s.loadRegs (wsOffset w)

/-! ### The two halves -/

/-- A bundle address plus 8 (R89). -/
def nextBundle (a : Word) : Word := a + 8

/-- Every A-word passed has issued, no replay is open and no repeat is being reissued: the execute half
has caught up (R238, log 9). -/
def State.caughtUp (s : State) : Bool :=
  s.tile.front.aq.isEmpty && s.tile.front.rq.isEmpty && s.tile.front.replay.isNone
    && !(s.tile.front.rpt.ract && s.tile.front.rpt.riter != 0)

/-- XPC: the first bundle whose A-word has not completed (R10, R102). -/
def State.xpc (s : State) : Word :=
  let f := s.tile.front
  if f.rpt.ract && f.rpt.riter != 0 then f.rpt.addrs.get f.rpt.rpos.toFin
  else match f.rq, f.replay, f.aq with
    | it :: _, _, _ => it.addr
    | [], some (n, _), _ => n
    | [], none, it :: _ => it.addr
    | [], none, [] => f.apc

/-- The bundle being executed. -/
def State.bundle (s : State) : Word :=
  match s.tile.front.latch with
  | some l => l.bundle
  | none => 0

/-- The A-word of the bundle being executed that has still to be passed (R9): none for lone and tile forms. -/
def State.ownA (s : State) : Option (BitVec 32) :=
  match s.tile.front.latch with
  | some l => if l.bundle.toNat / 2 ^ 30 % 4 = 0 && !l.passed then some (BitVec.ofNat 32 (l.bundle.toNat / 2 ^ 32)) else none
  | none => none

/-- The A-word queue of 64 entries has no room for the bundle's own A-word (R9). -/
def State.queueFull (s : State) : Bool := s.ownA.isSome && decide (64 ≤ s.tile.front.aq.length)

/-- Pass the bundle's own A-word to the execute half. -/
def State.passOwn (s : State) : State :=
  match s.tile.front.latch, s.ownA with
  | some l, some w =>
    s.setFront { s.tile.front with
      latch := some { l with passed := true }
      aq := s.tile.front.aq ++ [{ word := w, addr := s.tile.front.apc }] }
  | _, _ => s

/-- The last bundle of the active loop body (R98). -/
def LoopState.last (l : LoopState) : Word := l.lbeg + BitVec.ofNat 64 (8 * (l.llen.toNat - 1))

/-- The access half stands behind the last bundle of a body that has iterations left: the loop-back of R98
waits for the execute half (R238, log 9). -/
def State.loopPending (s : State) : Bool :=
  let f := s.tile.front
  f.loop.lact && f.latch.isNone && decide (f.apc = nextBundle f.loop.last) && f.loop.lcnt != 0

/-- The loop-back (R98). -/
def State.loopBack (s : State) : State :=
  let f := s.tile.front
  s.setFront { f with apc := f.loop.lbeg, ahead := [], ast := .run, loop := { f.loop with lcnt := f.loop.lcnt - 1 } }

/-- Complete the bundle where the program goes on by itself: to the next bundle, with R98 at the end of a loop body. -/
def State.advance (s : State) : State :=
  let f := s.tile.front
  let atEnd := f.loop.lact && decide (f.apc = f.loop.last)
  let s := s.setFront { f with
    apc := nextBundle f.apc, latch := none, ast := .run, skip := false
    loop := if atEnd && f.loop.lcnt == 0 then { f.loop with lact := false } else f.loop }
  if s.loopPending then (if s.caughtUp then s.loopBack else s.setFront { s.tile.front with ast := .resource }) else s

/-- Complete the bundle with no taken transfer: pass its A-word and go on. A follower goes where its leader went, with
its leader's loop state (R210). -/
def State.retire (s : State) : State :=
  let s := s.passOwn
  match s.tile.res.leaderNext with
  | some l => s.setFront { s.tile.front with apc := l.next, latch := none, ast := .run, skip := false, loop := l.loop }
  | none => s.advance

/-- Loop state after a taken transfer (R98): a target outside the body ends the loop. -/
def LoopState.afterTransfer (l : LoopState) (target : Word) : LoopState :=
  if l.lact && !(decide (l.lbeg.toNat ≤ target.toNat) && decide (target.toNat ≤ l.last.toNat)) then
    { l with lact := false }
  else l

/-- Go to a target: the bundle ends with a taken transfer (R95, R98). A follower goes where its leader went (R210). -/
def State.goTo (s : State) (target : Word) : State :=
  let f := s.tile.front
  match s.tile.res.leaderNext with
  | some l => s.setFront { f with apc := l.next, latch := none, ahead := [], ast := .run, skip := false, loop := l.loop }
  | none => s.setFront { f with apc := target, latch := none, ahead := [], ast := .run, skip := false, loop := f.loop.afterTransfer target }

/-- A port has changed: an execute half that waits on ports looks again. -/
def State.rouse (s : State) : State :=
  if s.tile.front.xst = .port then s.setFront { s.tile.front with xst := .run } else s

/-- Mark the bundle as begun and leave the access half in a stalled state. -/
def State.stall (s : State) (h : HalfState) : State :=
  s.setFront { s.tile.front with ast := h }

/-! ### Energy (R370, R371) -/

/-- ENERGY accrues `x` pJ, saturating (R371). -/
def chargeEnergy (e : Word) (x : Nat) : Word :=
  let t := e.toNat % 2 ^ 48 + x
  if 2 ^ 48 ≤ t then (1 : Word) <<< 63 ||| BitVec.ofNat 64 (2 ^ 48 - 1)
  else (e &&& ((1 : Word) <<< 63)) ||| BitVec.ofNat 64 t

/-- Charge the weight of an energy class for a task-mode issue. -/
def State.charge (s : State) (cls : Fin 8) : State :=
  if s.sup then s
  else s.setCtx { s.tile.ctx with energy := chargeEnergy s.tile.ctx.energy ((s.tile.csr.ew.get cls).toNat % 2 ^ 20) }

/-- The C-word issues: it is charged once, however long it then waits (R370). -/
def State.begin (s : State) (cls : Fin 8) : State :=
  match s.tile.front.latch with
  | some l =>
    if l.begun then s
    else (s.charge cls).setFront { s.tile.front with latch := some { l with begun := true } }
  | none => s.charge cls

/-! ### Snapshots of a trap (R36, R395) -/

/-- The eight dwords of the tile's snapshot set (R396). -/
def State.snapshotSet (s : State) : List Word :=
  [s.cycle ||| ((1 : Word) <<< 63), s.tile.front.apc, s.xpc, s.statusImage false, s.tile.csr.ecause,
   s.tile.csr.eval, s.tile.csr.wp, s.tile.ctx.energy]

/-- The index of the executing tile's snapshot set: die and physical index. -/
def State.snapIndex (s : State) : Nat :=
  (s.tile.csr.pcoord.toNat / 2 ^ 10 % 4) * 1024 + s.tile.csr.pcoord.toNat % 1024

/-- Replace an entry of an association list. -/
def assocPut {α : Type} (k : Nat) (x : α) : List (Nat × α) → List (Nat × α)
  | [] => [(k, x)]
  | (a, b) :: l => if a = k then (k, x) :: l else (a, b) :: assocPut k x l

/-- Latch the tile's snapshot set (R395, R396). -/
def State.latchSnapshot (s : State) : State :=
  s.setSnap { s.hub.snap with sets := assocPut s.snapIndex s.snapshotSet s.hub.snap.sets }

/-- A package trigger at a latch tick (R395): taken only while TRIG is 0; of two that arise at one tick, the one
with the lower latch value is taken. `armed` holds the tick at which the trigger arose. -/
def State.packageTrigger (s : State) (at_ : Word) : State :=
  let n := s.hub.snap
  if n.trig && !(n.armed == some s.cycle && n.latchAt.isSome && decide (at_.toNat < n.cyc.toNat)) then s
  else s.setSnap { n with trig := true, cyc := at_, latchAt := some at_, armed := some s.cycle }

/-- A trap of cause c triggers a package snapshot 256 ticks later when TRAPEN has bit c (R395). -/
def State.trapTrigger (s : State) (cause : BitVec 8) : State :=
  if 1 ≤ cause.toNat && cause.toNat ≤ 23 && s.hub.snap.trapEn.getLsbD (cause.toNat - 1) then
    s.packageTrigger (s.cycle + 256)
  else s

/-! ### Traps (R35 to R37) -/

/-- The LOOP word (Table 1.3). -/
def LoopState.word (l : LoopState) : Word :=
  BitVec.ofNat 64 (l.lcnt.toNat * 2 ^ 32 + l.llen.toNat * 2 ^ 12 + (if l.lact then 1 else 0))

/-- The RPT word (Table 1.3). -/
def RepeatState.word (r : RepeatState) : Word :=
  BitVec.ofNat 64 (r.riter.toNat * 2 ^ 56 + r.rcnt.toNat * 2 ^ 48 + r.rstr.toNat * 2 ^ 44 + r.rn.toNat * 2 ^ 39
    + r.rpos.toNat * 2 ^ 35 + (if r.ract then 1 else 0))

/-- LOOP state from its words. -/
def loopFrom (w lbeg : Word) : LoopState :=
  { lcnt := w.extractLsb' 32 32, llen := w.extractLsb' 12 20, lact := w.getLsbD 0, lbeg := lbeg }

/-- RPT state from its word, with the capture the tile holds. -/
def RepeatState.load (r : RepeatState) (w : Word) : RepeatState :=
  { r with riter := w.extractLsb' 56 8, rcnt := w.extractLsb' 48 8, rstr := w.extractLsb' 44 4,
           rn := w.extractLsb' 39 5, rpos := w.extractLsb' 35 4, ract := w.getLsbD 0 }

/-- Leave the gang: GROLE, GSZ and GIDX become 0 (R210). -/
def State.leaveGang (s : State) : State :=
  let s := s.setCsr { s.tile.csr with status := s.tile.csr.status &&& ~~~(0x7F0000 : Word) }
  s.setRes { s.tile.res with leaderNext := none, gangReady := false, ungang := false, peers := [] }

/-- Abandon a wait; a ring instruction's bit of WAITW is cleared (R117, R171). -/
def State.dropWait (s : State) : State :=
  match s.tile.wait with
  | .ring off bit =>
    let a := s.ownAddr (off + 24)
    (s.setMem (s.mem.writeNat a 4 ((BitVec.ofNat 32 (s.mem.readNat a 4)) &&& ~~~bit).toNat)).setWait .idle
  | _ => s.setWait .idle

/-- The progress word of the half that faults (R35, R311). -/
def State.progress (s : State) (fh : Bool) : Word := if fh then s.xpc else s.tile.front.apc

/-- An ordered port operation that the execute half has not performed is left without effect: the access half sees the bindings
of the execute half again (R114, R171). -/
def State.dropOrdered (s : State) : State :=
  if s.tile.front.ordered.isSome then
    (s.setPorts { s.tile.ports with acc := s.tile.ports.exe }).setFront { s.tile.front with ordered := none }
  else s

/-- Both halves HALTED, with the cause and the faulting half's progress word on its way to the front end (R36). The
snapshot registers are latched before the half states change: the order is the model's choice (log 25). -/
def State.haltWith (s : State) (fh : Bool) (cause : BitVec 8) (value : Word) : State :=
  let epc := s.progress fh
  let s := s.dropWait.dropOrdered.latchSnapshot
  let s := s.setFront { s.tile.front with ast := .halted, xst := .halted, latch := none, xtrap := none }
  s.setRes { s.tile.res with report := some (cause, value, epc) }

/-- Trap entry in task mode (R35). -/
def State.enterTrap (s : State) (fh : Bool) (cause : BitVec 8) (value : Word) : State :=
  let s := s.dropWait.dropOrdered.leaveGang
  let ws := wsOffset s.tile.csr.wp
  let b := s.ownAddr ws
  let f := s.tile.front
  let m := s.mem.writeWords (b + 0x508)
    [f.apc, s.xpc, f.loop.word, f.loop.lbeg, f.rpt.word, s.statusImage fh &&& 0xFFFFFFFF]
  let m := m.writeNat (b + 0x502) 6 0
  let s := (s.setMem m).writeBack ws
  let c := s.tile.csr
  let s := s.setCsr { c with
    ecause := cause.setWidth 64, eval := value, ewp := c.wp, wp := c.swp
    status := (c.status &&& ~~~(0x7 : Word)) ||| 1 }
  let s := s.loadRegs (wsOffset c.swp)
  let f := s.tile.front
  let s := s.setFront { f with
    apc := s.tile.csr.evec, latch := none, ahead := [], aq := [], rq := [], replay := none, ordered := none,
    skip := false, xtrap := none, ast := .run, xst := .run,
    loop := { lcnt := 0, llen := 0, lact := false, lbeg := 0 },
    rpt := { f.rpt with ract := false, riter := 0, rpos := 0 } }
  let s := s.setPath { s.tile.path with pinned := [], walk := none, walkFail := none }
  s.setPower { s.tile.power with state := .run }

/-- Take a trap: entry in task mode, a halt with a tile-level fault in supervisor mode (R35, R36). -/
def State.takeTrap (s : State) (fh : Bool) (cause : BitVec 8) (value : Word) : State :=
  let s := s.trapTrigger cause
  if s.sup then s.haltWith fh cause value else s.enterTrap fh cause value

/-! ### Transactions end (R182) -/

/-- The transaction ends: discard its stores, release its lines, and write the cause word. -/
def State.txClose (s : State) (t : Tx) (cause detail : BitVec 8) : State :=
  let s := s.setPath { s.tile.path with tx := none }
  let s := s.setStatusBit 7 false
  s.setG t.reg (BitVec.ofNat 64 (detail.toNat * 256 + cause.toNat))

/-- Abort the open transaction, and go on at the fallback target. -/
def State.txAbort (s : State) (cause detail : BitVec 8) : State :=
  match s.tile.path.tx with
  | none => s
  | some t => (s.txClose t cause detail).dropWait.goTo t.target

/-- The access half is inside an instruction that has begun to take effect and is not cut: an access or an atomic that has
been sent, an append that has been answered, or SSTEP after its join (R237). -/
def State.committed (s : State) : Bool :=
  match s.tile.wait with
  | .remote | .answered | .rejected | .appendAnswer _ | .sstep .. => true
  | _ => false

/-- A trap of the execute half is held: the half stands TRAPPED at its progress point until the trap is taken (Table 1.1, R13). -/
def State.holdTrap (s : State) (cause : BitVec 8) (value : Word) : State :=
  s.setFront { s.tile.front with xtrap := some (cause, value), xst := .trapped }

/-- The trap that the execute half holds is held no more. -/
def State.unholdTrap (s : State) : State := s.setFront { s.tile.front with xtrap := none, xst := .run }

/-- A trap that a half has found is taken (R235): inside a transaction it aborts the transaction instead (R181), once the
execute half has caught up when the access half raised it (R238, log 10). -/
def State.trapNow (s : State) (fh : Bool) (cause : BitVec 8) (value : Word) : Out :=
  if s.txact then
    if fh || s.caughtUp then .next (s.txAbort 5 cause) else .next (s.stall .resource)
  else .next (s.takeTrap fh cause value)

/-- A synchronous trap of one half. One of the execute half waits for an instruction of the access half that is not cut; one of
the access half gives way to a trap that the execute half holds, and arises again with its bundle (R237). -/
def State.trap (s : State) (fh : Bool) (cause : BitVec 8) (value : Word) : Out :=
  if fh && s.committed then .next (s.holdTrap cause value)
  else match s.tile.front.xtrap with
    | some (c, v) => if fh then s.trapNow fh cause value else s.unholdTrap.trapNow true c v
    | none => s.trapNow fh cause value

/-- The address recorded for the last captured word. -/
def RepeatState.lastAddr (r : RepeatState) : Word := r.addrs.get (BitVec.ofNat 4 (r.rn.toNat - 1)).toFin

/-- Where the replay of R239 begins: behind the captured words when the repeat is being reissued (log 9). -/
def replayFrom (r : RepeatState) (xpc : Word) : Word :=
  if r.ract && r.riter != 0 then nextBundle r.lastAddr else xpc

/-- TRET releases the stopped sequencer: a report that has been taken is held no more, and the sequencer stays stopped
only for a report that has not been taken (R156, Table 9.4). -/
def State.releaseSeq (s : State) : State :=
  let held := match s.tile.seq.held with
    | some r => if r.taken then none else some r
    | none => none
  s.setSeq { s.tile.seq with held := held, stopped := s.tile.seq.stopped && held.isSome }

/-- Resume the context whose workspace is at `ws` (R37, R239): STATUS, both progress words, loop and repeat
state, and the replay of the A-words between XPC and APC. One in the dispenser wait is in HOLD (R357). Bits [2:0] of a saved progress
word that are not zero are taken as they stand, and the fetch traps (log 62). -/
def State.resume (s : State) (ws : Word) : State :=
  let s := s.switchWp ws
  let b := s.ownAddr (wsOffset ws)
  let apc := s.mem.readWord (b + 0x508)
  let rpt := s.tile.front.rpt.load (s.mem.readWord (b + 0x528))
  let start := replayFrom rpt (s.mem.readWord (b + 0x510))
  let status := s.mem.readWord (b + 0x530) &&& statusMask
  let s := s.setCsr { s.tile.csr with status := status }
  let s := s.setFront { s.tile.front with
    apc := apc, latch := none, ahead := [], aq := [], rq := [], ordered := none, xtrap := none
    replay := if start.toNat < apc.toNat then some (start, apc) else none
    skip := rpt.ract && rpt.riter != 0 && decide (rpt.lastAddr = apc)
    ast := if status.getLsbD 2 then .wait else .run, xst := .run
    loop := loopFrom (s.mem.readWord (b + 0x518)) (s.mem.readWord (b + 0x520)), rpt := rpt }
  let s := s.setPower { s.tile.power with state := if status.getLsbD 2 then .hold else .run, since := s.cycle }
  (s.releaseSeq).setWait .idle

/-! ### Words of the access half -/

/-- A guard over a predicate value (R75). -/
def guardValue (gd : Guard) (pred : Bool) : Bool := if gd.neg = 1 then !pred else pred

/-- The guard of a C-word or tile instruction holds (R75). -/
def State.guardC (s : State) (gd : Guard) : Bool := guardValue gd (s.p gd.pred)

/-- The guard of an A-word holds (R75). -/
def State.guardA (s : State) (gd : Guard) : Bool := guardValue gd (s.q gd.pred)

/-- Execute a C-word (R76, R370): it waits while its A-word has no room, is charged once, retires guarded off
when its guard does not hold, and otherwise has its effect. -/
def cWord (cls : Fin 8) (gd : Guard) (s : State) (effect : State → Out) : Out :=
  if s.queueFull then .next (s.stall .resource)
  else if s.guardC gd then effect (s.begin cls)
  else .next (s.begin cls).retire

/-- A C-word that transfers control, loops or repeats: a follower takes its leader's guard (R210). -/
def cWordLed (cls : Fin 8) (gd : Guard) (s : State) (effect : State → Out) : Out :=
  match s.tile.res.leaderNext with
  | none => cWord cls gd s effect
  | some l =>
    if s.queueFull then .next (s.stall .resource)
    else if l.guard then effect (s.begin cls)
    else .next (s.begin cls).retire

/-- A C-word that check 7 allows only under a condition (the mode): refused by ILLEGAL_INSTR without being
charged (R77, R370). -/
def cWordIf (cls : Fin 8) (gd : Guard) (s : State) (legal : Bool) (effect : State → Out) : Out :=
  if s.queueFull then .next (s.stall .resource)
  else if !s.guardC gd then .next (s.begin cls).retire
  else if legal then effect (s.begin cls)
  else s.trap false 0x02 s.bundle

/-- Write a g register and complete the bundle. -/
def State.finishG (s : State) (r : BitVec 5) (x : Word) : Out := .next (s.setG r x).retire

/-- Complete the bundle with a taken transfer (R95): its own A-word is passed first, and the transfer waits
until the execute half has issued every A-word passed (R238). `pre` is what the transfer writes. -/
def State.transfer (s : State) (target : Word) (pre : State → State) : Out :=
  let s := s.passOwn
  if s.caughtUp then
    .next ((pre s).goTo target)
  else .next (s.stall .resource)

/-- The transfer is taken: a follower takes the outcome of its leader (R210). -/
def State.taken (s : State) (cond : Bool) : Bool :=
  match s.tile.res.leaderNext with
  | some l => decide (l.next ≠ nextBundle s.tile.front.apc)
  | none => cond

/-- EVAL of an access-half fault without a value of its own: the whole bundle (R77). -/
def State.trapBundle (s : State) (cause : BitVec 8) : Out := s.trap false cause s.bundle

/-! ### Words of the execute half -/

/-- The A-word the execute half issues next, with the address of its bundle: the reissue of a repeat, the
replayed word, or the head of the queue (R100, R239). -/
def State.headA (s : State) : Option AItem :=
  let f := s.tile.front
  if f.rpt.ract && f.rpt.riter != 0 then
    some { word := f.rpt.words.get f.rpt.rpos.toFin, addr := f.rpt.addrs.get f.rpt.rpos.toFin }
  else match f.rq with
    | it :: _ => some it
    | [] => if f.replay.isSome then none else f.aq.head?

/-- EVAL of an execute-half fault: the A-word as fetched and the repeat iteration (R77). -/
def State.aEval (s : State) : Word :=
  let w := match s.headA with
    | some it => it.word
    | none => 0
  BitVec.ofNat 64 (w.toNat + (if s.tile.front.rpt.ract then s.tile.front.rpt.riter.toNat else 0) * 2 ^ 32)

/-- Take the issued A-word off the replay or the queue. -/
def Front.popA (f : Front) : Front :=
  match f.rq with
  | _ :: rest => { f with rq := rest }
  | [] => { f with aq := f.aq.tail }

/-- Repeat bookkeeping of one issue (R100): a word of iteration 0 is captured and leaves the queue; after the
capture, each issue moves to the next word or iteration. RITER and RPOS are 0 once the repeat has ended (log 67). -/
def State.retireA (s : State) : State :=
  let f := { s.tile.front with xst := .run }
  let r := f.rpt
  if !r.ract then s.setFront f.popA
  else if r.riter = 0 then
    let it := s.headA.getD { word := 0, addr := f.apc }
    let r := { r with words := r.words.set r.rpos.toNat it.word r.rpos.isLt
                      addrs := r.addrs.set r.rpos.toNat it.addr r.rpos.isLt }
    let r :=
      if r.rpos.toNat + 1 < r.rn.toNat then { r with rpos := r.rpos + 1 }
      else if r.rcnt = 0 then { r with ract := false, rpos := 0 }
      else { r with riter := 1, rpos := 0 }
    s.setFront { f.popA with rpt := r }
  else
    let r :=
      if r.rpos.toNat + 1 < r.rn.toNat then { r with rpos := r.rpos + 1 }
      else if r.riter = r.rcnt then { r with ract := false, riter := 0, rpos := 0 }
      else { r with riter := r.riter + 1, rpos := 0 }
    s.setFront { f with rpt := r }

/-- A fault of an A-word at issue: it has popped, pushed and changed nothing (R12, R77). -/
def State.faultA (s : State) (cause : BitVec 8) (value : Word) : Out := s.trap true cause value

/-- OR flags into FCSR.FLG (Table 1.13). -/
def State.orFlags (s : State) (fl : BitVec 6) : State :=
  s.setCtx { s.tile.ctx with fcsr := s.tile.ctx.fcsr ||| (fl.setWidth 64 <<< 8) }

/-- The enabled ones among some flags. -/
def State.enabled (s : State) (fl : BitVec 6) : BitVec 6 := fl &&& s.tile.ctx.fcsr.extractLsb' 16 6

/-- The access half stands in a transfer whose A-word has just issued: it completes before a trap of the
execute half is taken (log 9). -/
def State.midTransfer (s : State) : Bool :=
  match s.tile.front.latch with
  | some l => l.passed && s.caughtUp
  | none => false

/-- Complete an A-word that raised flags (R33, R120): an enabled flag traps FP_ENABLED after completion. In supervisor mode it
halts the tile at once (R36). -/
def State.finishA (s : State) (fl : BitVec 6) : Out :=
  let s := (s.orFlags fl).retireA
  if s.enabled fl = 0 then .next s
  else if !s.sup && (s.midTransfer || (s.loopPending && s.caughtUp)) then .next (s.holdTrap 0x0B (fl.setWidth 64))
  else s.trap true 0x0B (fl.setWidth 64)

/-- Execute an A-word (R76): charged as an issue, and retired guarded off when its guard does not hold. -/
def aWord (cls : Fin 8) (gd : Guard) (s : State) (effect : State → Out) : Out :=
  if s.guardA gd then effect s else .next (s.charge cls).retireA

end Sys2Proof.Machine
end

