-- ==== Sys2Proof/Machine/Pointer.lean ====
section
/-!
DEFINITION. Fat pointers, their addition and resolution, the page walk, and the checks of Table 4.1
(R87, R89, R104, R281 to R289, R381 to R383, R399).
-/

namespace Sys2Proof.Machine

/-! ### Cause codes (Table 9.1) -/

def Cause.illegalEncoding : BitVec 8 := 0x01
def Cause.illegalInstr : BitVec 8 := 0x02
def Cause.misaligned : BitVec 8 := 0x03
def Cause.accessFault : BitVec 8 := 0x04
def Cause.pageFault : BitVec 8 := 0x05
def Cause.handleStale : BitVec 8 := 0x06
def Cause.shapeMismatch : BitVec 8 := 0x07
def Cause.portUnbound : BitVec 8 := 0x08
def Cause.ringFault : BitVec 8 := 0x09
def Cause.format : BitVec 8 := 0x0A
def Cause.fpEnabled : BitVec 8 := 0x0B
def Cause.leaseExpiry : BitVec 8 := 0x0C
def Cause.software : BitVec 8 := 0x0D
def Cause.brk : BitVec 8 := 0x0E
def Cause.preempt : BitVec 8 := 0x0F
def Cause.scopeMiss : BitVec 8 := 0x10
def Cause.allAsleep : BitVec 8 := 0x11
def Cause.sweutFail : BitVec 8 := 0x12
def Cause.gangBreak : BitVec 8 := 0x13
def Cause.softError : BitVec 8 := 0x14
def Cause.childFault : BitVec 8 := 0x15
def Cause.saveTimeout : BitVec 8 := 0x16
def Cause.capBreach : BitVec 8 := 0x17

/-! ### Fields (Table 13.10) -/

def ptrFmt (p : Word) : BitVec 5 := p.extractLsb' 59 5
def ptrBlg (p : Word) : BitVec 3 := p.extractLsb' 56 3
def ptrVirtual (p : Word) : Bool := p.getLsbD 55
def ptrRel (p : Word) : Bool := p.getLsbD 54
/-- PKG, DIE, Y and X, in the layout of COORD. -/
def ptrCoord (p : Word) : BitVec 24 := p.extractLsb' 30 24
def ptrOff (p : Word) : Nat := p.toNat % 2 ^ 27
def ptrVa (p : Word) : Nat := p.toNat % 2 ^ 55
/-- A poisoned pointer (R89). -/
def ptrPoisoned (p : Word) : Bool := ptrFmt p == 0x1F

/-- A pointer that names a place of the mesh or of a context's space: not poisoned, no host pointer, KIND 0 (R281). -/
def ptrFormOk (p : Word) : Bool :=
  !ptrPoisoned p && ptrFmt p != 0x1E && (ptrVirtual p || decide (p.toNat / 2 ^ 27 % 8 = 0))

/-- ptr_add (R89). -/
def ptrAdd (b x : Word) : Word :=
  let s : BitVec 56 := b.setWidth 56 + x.setWidth 56
  let r := (b &&& ((0xFF : Word) <<< 56)) ||| s.setWidth 64
  if s.getLsbD 55 = b.getLsbD 55 then r else (r &&& ~~~((0x1F : Word) <<< 59)) ||| ((0x1F : Word) <<< 59)

/-- An integer coordinate sum in its range, or none (R104). -/
def inRange (x : Int) (bound : Nat) : Option Nat := if 0 ≤ x ∧ x < bound then some x.toNat else none

/-- Resolve the deltas of a coordinate-relative pointer against the executing tile (R104). -/
def resolveCoord (own delta : BitVec 24) : Option (BitVec 24) :=
  match inRange ((own.toNat / 2 ^ 12 : Nat) + (delta.extractLsb' 12 12).toInt) 4096,
      inRange ((own.toNat / 2 ^ 5 % 32 : Nat) + (delta.extractLsb' 5 5).toInt) 31,
      inRange ((own.toNat % 32 : Nat) + (delta.extractLsb' 0 5).toInt) 32 with
  | some pkg, some y, some x =>
    let die := (own.toNat / 2 ^ 10 + delta.toNat / 2 ^ 10) % 4
    some (BitVec.ofNat 24 (pkg * 2 ^ 12 + die * 2 ^ 10 + y * 2 ^ 5 + x))
  | _, _, _ => none

/-! ### Places -/

/-- What an access does (R87, R287). -/
inductive Acc where
  | load | store | atomic | fetch
  deriving DecidableEq, Repr

/-- It writes. -/
def Acc.writes : Acc → Bool
  | .store | .atomic => true
  | _ => false

/-- Where an access goes: a home address with the leaf that translated it, a register of the discovery window,
a trap, a missing translation, or a write-blocked page. -/
inductive Place where
  | mem (addr : Nat) (leaf : Option TEntry)
  | window (off : Nat)
  | trap (cause : BitVec 8) (value : Word)
  | walk
  | blocked
  deriving DecidableEq, Repr

/-- Host memory in the model's address space (log 3). -/
def hostBase : Nat := 2 ^ 64

/-- The coordinate of a device address. -/
def addrCoord (a : Nat) : BitVec 24 := BitVec.ofNat 24 (a / 2 ^ 30)
/-- The tile-local offset of a device address. -/
def addrOff (a : Nat) : Nat := a % 2 ^ 30
/-- A device address in an SPM. -/
def addrSpm (a : Nat) : Bool := decide (a < hostBase) && decide (addrOff a < 2 ^ 19)
/-- A device address in a vault. -/
def addrVault (a : Nat) : Bool := decide (a < hostBase) && decide (2 ^ 26 ≤ addrOff a)
/-- Local: the executing tile's own SPM or vault (R87). -/
def State.isLocal (s : State) (a : Nat) : Bool := decide (a < hostBase) && addrCoord a == s.own
/-- The absolute mesh pointer to a device address, FMT 0. -/
def meshPtr (a : Nat) : Word := BitVec.ofNat 64 (a % 2 ^ 54)
/-- The package of a coordinate. -/
def coordPkg (c : BitVec 24) : BitVec 12 := c.extractLsb' 12 12
/-- The die of a coordinate. -/
def coordDie (c : BitVec 24) : BitVec 2 := c.extractLsb' 10 2

/-- Offsets that name a target (check 5). -/
def offsetOk (off : Nat) : Bool := decide (off < 2 ^ 19) || (decide (2 ^ 26 ≤ off) && decide (off < 2 ^ 27))

/-- The staging window (check 6). -/
def inStaging (off : Nat) : Bool := decide (0x78000 ≤ off) && decide (off < 0x80000)

/-- Two ranges of bytes meet. -/
def meets (a n b m : Nat) : Bool := decide (a < b + m) && decide (b < a + n)

/-- Bytes of a workspace (R14). -/
def wsBytes : Nat := 0x540

/-- The access touches a byte of the executing tile's active workspace (R17). `half` is an LD, ST or atomic of
its own access half, which may touch the workspace at EWP in supervisor mode. -/
def State.touchesActive (s : State) (half : Bool) (a n : Nat) : Bool :=
  let off := addrOff a
  let atWp := meets off n (wsOffset s.tile.csr.wp) wsBytes
  let atEwp := s.sup && meets off n (wsOffset s.tile.csr.ewp) wsBytes
  addrSpm a && s.isLocal a && (atWp || (atEwp && (!half || wsOffset s.tile.csr.ewp == wsOffset s.tile.csr.wp)))

/-- The path of the routing table's entry for a package leads somewhere (R383, Table 21.5). -/
def routeOk (e : BitVec 16) : Bool :=
  let path := e.toNat / 2 ^ 12 % 8
  let port := e.toNat % 64
  e.getLsbD 15 && ((path == 1 && decide (port < 16)) || (path == 2 && decide (port < 48))
    || (path == 3 && decide (port < 10)))

/-- An association list lookup. -/
def assocGet {α : Type} (k : Nat) : List (Nat × α) → Option α
  | [] => none
  | (a, b) :: l => if a = k then some b else assocGet k l

/-- A package is this one, or has a route (R383). -/
def State.reachable (s : State) (pkg : BitVec 12) : Bool :=
  pkg == s.hub.boot.pkgId || routeOk ((assocGet pkg.toNat s.hub.boot.route).getD 0)

/-- Every byte of a host access lies in one enabled window, and the windows are locked (R381, R382). -/
def State.hostOk (s : State) (pa n : Nat) : Bool :=
  s.hub.boot.lock && (List.finRange 16).any fun i =>
    let b := s.hub.boot.howb.get i
    let l := s.hub.boot.howl.get i
    b.getLsbD 0 && decide (b.toNat / 4096 ≤ pa / 4096) && decide ((pa + n - 1) / 4096 ≤ l.toNat / 4096)

/-- The executing tile is the agent of its die. -/
def State.agentHere (s : State) : Bool :=
  (s.hub.disc.get (s.tile.csr.pcoord.extractLsb' 10 2).toFin).agent == s.tile.csr.pcoord.setWidth 10

/-- The discovery window exists: the executing tile is the agent of a die in discovery (R399). -/
def State.hasWindow (s : State) : Bool :=
  (s.hub.disc.get (s.tile.csr.pcoord.extractLsb' 10 2).toFin).active && s.agentHere

/-- Every mesh pointer names the executing tile: it runs the discovery program, up to its HALT behind DDONE (R399, R404, log 50). -/
def State.isAgent (s : State) : Bool :=
  s.hasWindow || ((s.hub.disc.get (s.tile.csr.pcoord.extractLsb' 10 2).toFin).done && s.agentHere && s.tile.front.started && s.sup
    && s.tile.front.ast != .halted && s.tile.res.ctx == 0)

/-! ### Translation (R282 to R289) -/

/-- The page bytes of a size code (Table 13.2). -/
def pageBytes (size : BitVec 3) : Nat :=
  match size.toNat with
  | 0 => 2 ^ 12
  | 1 => 2 ^ 14
  | 2 => 2 ^ 16
  | 3 => 2 ^ 18
  | 4 => 2 ^ 21
  | 5 => 2 ^ 23
  | 6 => 2 ^ 25
  | _ => 2 ^ 30

/-- The home address of a device physical address of a package; none when it names no vault (R282). -/
def dpaAddr (pkg : BitVec 12) (dpa : Nat) : Option Nat :=
  let l := dpa / 2 ^ 26 % 2 ^ 12
  if 3968 ≤ l then none
  else some (pkg.toNat * 2 ^ 42 + l / 992 * 2 ^ 40 + l % 992 / 32 * 2 ^ 35 + l % 32 * 2 ^ 30 + 2 ^ 26 + dpa % 2 ^ 26)

/-- The size code of a leaf at a level with a SPAN; none where Table 13.2 has no leaf. -/
def leafSize (level span : Nat) : Option (BitVec 3) :=
  match level with
  | 3 => if span = 0 then some 7 else none
  | 2 => if span < 3 then some (BitVec.ofNat 3 (4 + span)) else none
  | 1 => some (BitVec.ofNat 3 span)
  | _ => none

/-- Address of the target page of a leaf: a home address or a host address; none when it names no vault. -/
def leafAddr (e : Word) : Option Nat :=
  if e.getLsbD 6 then some (hostBase + e.toNat / 2 ^ 12 * 2 ^ 12)
  else dpaAddr (e.extractLsb' 50 12) (e.toNat % 2 ^ 38 / 2 ^ 12 * 2 ^ 12)

/-- A leaf breaks no rule of R286: zero fields, alignment, and a vault for its target. -/
def leafOk (e : Word) (size : BitVec 3) : Bool :=
  let frame := if e.getLsbD 6 then e.toNat / 2 ^ 12 * 2 ^ 12 else e.toNat % 2 ^ 38 / 2 ^ 12 * 2 ^ 12
  decide (e.toNat / 2 ^ 9 % 8 = 0) && decide (frame % pageBytes size = 0) && (leafAddr e).isSome
    && (e.getLsbD 6 || (decide (e.toNat / 2 ^ 62 = 0) && decide (e.toNat / 2 ^ 38 % 2 ^ 12 = 0)))

/-- A table entry's reserved and zero fields (Table 13.3). -/
def tableOk (e : Word) : Bool :=
  decide (e.toNat / 2 ^ 38 = 0) && decide (e.toNat / 2 ^ 6 % 2 ^ 6 = 0)

/-- Walk from the table at a home address at a level downwards (R283 to R286). Walkers read entries at their
homes; an uncorrectable entry reads as a free value (log 6). -/
def State.walkFrom (s : State) (va : Nat) : Nat → Nat → Option (BitVec 3 × Word)
  | 0, _ => none
  | level + 1, table =>
    let lvl := level + 1
    let ix := va / 2 ^ (12 + 9 * level) % (if lvl = 5 then 128 else 512)
    let ea := table + 8 * ix
    let e := if s.hub.errors.bad.contains (.memory (ea / 8)) then Config.freeWord s.free else s.mem.readWord ea
    if !e.getLsbD 0 then none
    else if e.getLsbD 1 then
      match leafSize lvl (e.toNat / 2 ^ 7 % 4) with
      | some size => if leafOk e size then some (size, e) else none
      | none => none
    else if lvl = 1 || !tableOk e then none
    else match dpaAddr s.hub.boot.pkgId (e.toNat % 2 ^ 38 / 2 ^ 12 * 2 ^ 12) with
      | some next => s.walkFrom va level next
      | none => none

/-- The home addresses of the entries that a walk reads, from the root on. -/
def State.walkPath (s : State) (va : Nat) : Nat → Nat → List Nat
  | 0, _ => []
  | level + 1, table =>
    let ea := table + 8 * (va / 2 ^ (12 + 9 * level) % (if level = 4 then 128 else 512))
    let e := s.mem.readWord ea
    if !e.getLsbD 0 || e.getLsbD 1 || level == 0 || !tableOk e then [ea]
    else match dpaAddr s.hub.boot.pkgId (e.toNat % 2 ^ 38 / 2 ^ 12 * 2 ^ 12) with
      | some next => ea :: s.walkPath va level next
      | none => [ea]

/-- A page walk in a context's tables; none is a PAGE_FAULT (R283, R286). -/
def State.walkTables (s : State) (ctxid : BitVec 12) (root : BitVec 38) (va : Nat) : Option TEntry :=
  match dpaAddr s.hub.boot.pkgId root.toNat with
  | none => none
  | some table =>
    match s.walkFrom va 5 table with
    | none => none
    | some (size, e) => some { ctxid := ctxid, base := BitVec.ofNat 64 (va - va % pageBytes size), size := size, leaf := e }

/-- A cached translation serves an address of a context. -/
def TEntry.serves (t : TEntry) (ctxid : BitVec 12) (va : Nat) : Bool :=
  t.ctxid == ctxid && decide (t.base.toNat ≤ va) && decide (va < t.base.toNat + pageBytes t.size)

/-- The cached translation of a virtual address of the resident context. -/
def State.cached (s : State) (va : Nat) : Option TEntry :=
  (s.tile.path.tcache ++ s.tile.path.pinned).find? fun t => t.serves s.tile.res.ctxid va

/-- The target of an address in a page. -/
def TEntry.target (t : TEntry) (va : Nat) : Nat :=
  let off := va % pageBytes t.size
  if t.leaf.getLsbD 6 then hostBase + t.leaf.toNat / 2 ^ 12 * 2 ^ 12 + off
  else (dpaAddr (t.leaf.extractLsb' 50 12) (t.leaf.toNat % 2 ^ 38 / 2 ^ 12 * 2 ^ 12 + off)).getD 0

/-- Check 8 for a translation: the page permits the access, its package has a route, a host target lies in a
window (R287, R382, R383). -/
def State.permits (s : State) (acc : Acc) (t : TEntry) (va n : Nat) : Bool :=
  let host := t.leaf.getLsbD 6
  !(acc.writes && !t.leaf.getLsbD 2) && !(acc == .fetch && (host || !t.leaf.getLsbD 3))
    && (if host then s.hostOk (t.target va - hostBase) n else s.reachable (t.leaf.extractLsb' 50 12))

/-! ### The checks of Table 4.1 -/

/-- Checks 7 and 9 on a translated or absolute target. -/
def State.checkTarget (s : State) (half : Bool) (ptr : Word) (a n : Nat) (leaf : Option TEntry) : Place :=
  if s.det && s.cph && !s.isLocal a then .trap Cause.accessFault ptr
  else if s.touchesActive half a n then .trap Cause.accessFault ptr
  else .mem a leaf

/-- A virtual pointer, through a translation that is at hand (checks 8, 7, 9). A store that passes them stalls on a
write-blocked page (R289): that the stall comes behind checks 7 and 9 is the model's choice (log 26). -/
def State.checkVirtual (s : State) (half : Bool) (acc : Acc) (ptr : Word) (n : Nat) (t : TEntry) : Place :=
  if !s.permits acc t (ptrVa ptr) n then .trap Cause.accessFault ptr
  else match s.checkTarget half ptr (t.target (ptrVa ptr)) n (some t) with
    | .mem a leaf => if acc.writes && t.leaf.getLsbD 5 then .blocked else .mem a leaf
    | place => place

/-- Checks 3 and 5: the bytes name memory of a tile that exists, in a package that can be reached (Table 4.1, R383). -/
def State.meshOk (s : State) (c : BitVec 24) (off n : Nat) : Bool :=
  offsetOk off && offsetOk (off + n - 1) && decide (c.toNat / 32 % 32 ≠ 31) && (c == s.own || s.reachable (coordPkg c))

/-- A mesh pointer whose coordinate is resolved (checks 4 to 7 and 9; R399 for the agent). -/
def State.checkMesh (s : State) (half : Bool) (ptr : Word) (align n : Nat) (c : BitVec 24) : Place :=
  let off := ptrOff ptr
  if off % align ≠ 0 then .trap Cause.misaligned ptr
  else if s.hasWindow && decide (0x1000000 ≤ off) && decide (off + n ≤ 0x1001C00) then .window off
  else if !s.meshOk c off n then .trap Cause.accessFault ptr
  else if (inStaging off || inStaging (off + n - 1)) && !s.sup then .trap Cause.accessFault ptr
  else s.checkTarget half ptr (coordBase c + off) n none

/-- The checks of Table 4.1 for `n` bytes, up to check 9. -/
def State.resolve (s : State) (half : Bool) (acc : Acc) (ptr : Word) (align n : Nat) : Place :=
  if ptrFmt ptr = 0x1F ∨ ptrFmt ptr = 0x1E then .trap Cause.accessFault ptr
  else if ptrVirtual ptr then
    if ptrVa ptr % align ≠ 0 then .trap Cause.misaligned ptr
    else match s.cached (ptrVa ptr) with
      | some t => s.checkVirtual half acc ptr n t
      | none => if s.tile.path.walkFail = some ptr then .trap Cause.pageFault ptr else .walk
  else if ptr.toNat / 2 ^ 27 % 8 ≠ 0 then .trap Cause.accessFault ptr
  else if s.isAgent then s.checkMesh half ptr align n s.own
  else if ptrRel ptr then
    match resolveCoord s.own (ptrCoord ptr) with
    | some c => s.checkMesh half ptr align n c
    | none => .trap Cause.accessFault ptr
  else s.checkMesh half ptr align n (ptrCoord ptr)

/-- Stall in RESOURCE; a wait that polls memory stays ASLEEP (R201). -/
def State.stallHere (s : State) : State := if s.tile.front.ast = .asleep then s else s.stall .resource

/-- Hand the access half's miss to the walkers, and wait (R288). -/
def State.wantWalk (s : State) (ptr : Word) : Out :=
  .next (s.setPath { s.tile.path with walk := some ptr, walkFail := none }).stallHere

end Sys2Proof.Machine
end

