-- ==== Sys2Proof/Machine/Flits.lean ====
section
/-!
DEFINITION. The flits that a station posts: their layout, and those of remote accesses in Sweut packet class (R335, R383, Table 16.1).
-/

namespace Sys2Proof.Machine

/-- An attachment. -/
def State.att (s : State) (a : BitVec 4) : Attachment := s.hub.sweut.get a.toFin

/-- A bit of a set. -/
def setBit {n : Nat} (x : BitVec n) (i : Nat) (b : Bool) : BitVec n :=
  if b then x ||| ((1 : BitVec n) <<< i) else x &&& ~~~((1 : BitVec n) <<< i)

/-- Station 15 as a destination of the flits to every station. -/
def everyone : Nat := 15

/-- Bytes 0 to 35 of a flit: KIND, DST and SRC, SEQ, LEN, PAYLOAD. -/
def flitBytes (kind dst src : Nat) (seq : BitVec 8) (payload : List Byte) : List Byte :=
  [BitVec.ofNat 8 kind, BitVec.ofNat 8 (dst + 16 * src), seq, BitVec.ofNat 8 (min payload.length 32)]
    ++ (payload ++ List.replicate 32 0).take 32

/-- A flit waits to be sent to a destination; it takes the next SEQ of its pair. -/
def Attachment.post (x : Attachment) (kind : Nat) (dst : BitVec 4) (payload : List Byte) : Attachment :=
  let seq := x.sendSeq.get dst.toFin
  { x with sendSeq := x.sendSeq.set dst.toNat (seq + 1) dst.isLt
           sending := x.sending ++ [flitBytes kind dst.toNat x.stn.toNat seq payload] }

/-- This station sends a flit of a KIND; the spec gives its PAYLOAD no layout. -/
def State.postFlit (s : State) (a : BitVec 4) (kind : Nat) (dst : BitVec 4) : State :=
  s.setAtt a ((s.att a).post kind dst (Config.payload s.free (BitVec.ofNat 8 kind)))

/-- The attachment whose packet class carries the accesses to a package: its route has PATH 1, and the segment is up (R383,
Table 21.5). -/
def State.packetAtt (s : State) (pkg : BitVec 12) : Option (BitVec 4) :=
  let e := (assocGet pkg.toNat s.hub.boot.route).getD 0
  let a : BitVec 4 := e.setWidth 4
  if pkg != s.hub.boot.pkgId && routeOk e && e.extractLsb' 12 3 == 1 && (s.att a).up then some a else none

/-- Some flits of a KIND for the station at which a package answers. -/
def State.postTo (s : State) (a : BitVec 4) (pkg : BitVec 12) (kind n : Nat) : State :=
  (List.range n).foldl (fun s _ => s.postFlit a kind (Config.stationOf pkg)) s

/-- An access of the executing tile to `n` bytes of another package leaves in flits: a request, and for a store the write data that
follow it (R335). -/
def State.sendAccess (s : State) (addr n : Nat) (store : Bool) : State :=
  let pkg := coordPkg (addrCoord addr)
  match (if addr < hostBase then s.packetAtt pkg else none) with
  | none => s
  | some a =>
    let s := s.postTo a pkg 0x01 1
    if store then s.postTo a pkg 0x03 ((n + 31) / 32) else s

/-- A load of another package's agent is answered in four response flits (R335). -/
def State.sendResponse (s : State) (agent : BitVec 24) : State :=
  match s.packetAtt (coordPkg agent) with
  | none => s
  | some a => s.postTo a (coordPkg agent) 0x02 4

end Sys2Proof.Machine
end

