-- ==== Sys2Proof/Machine/Cache.lean ====
section
/-!
DEFINITION. Accesses at the homes and through the L1: home tags and scope misses, soft errors, access
counting, releases and acquires, posted stores (R88, R178, R214 to R219, R226, R227, R294 to R298).
-/

namespace Sys2Proof.Machine

/-! ### Scopes (R213) -/

/-- Physical index of a logical tile, from its die's discovery map (R390). -/
def State.physOf (s : State) (c : BitVec 24) : Nat :=
  (s.hub.disc.get (coordDie c).toFin).lmap.readNat (2 * (c.toNat % 2 ^ 10)) 2 % 2 ^ 10

/-- The strip of a physical index: 2·y, plus 1 for the right half (R364). -/
def stripOf (phys : Nat) : Nat := 2 * (phys / 32 % 32) + phys % 32 / 16

/-- The scope of the pair of two tiles: 0 the same tile, 1 strip, 2 die, 3 package, 4 system. -/
def State.pairScope (s : State) (a b : BitVec 24) : Nat :=
  if a = b then 0
  else if coordPkg a ≠ coordPkg b then 4
  else if coordDie a ≠ coordDie b then 3
  else if stripOf (s.physOf a) = stripOf (s.physOf b) then 1
  else 2

/-- The scope of the pair of the executing tile and the home of an address. -/
def State.homeScope (s : State) (a : Nat) : Nat :=
  if hostBase ≤ a then 4 else s.pairScope s.own (addrCoord a)

/-! ### Masks -/

/-- A mask of `n` bytes from byte `off` of a line. -/
def byteMask (off n : Nat) : Word := BitVec.ofNat 64 ((2 ^ n - 1) * 2 ^ off)

/-- The bit mask of a byte mask, from its bits upwards. -/
def expandBits : List Bool → Nat
  | [] => 0
  | b :: r => (if b then 255 else 0) + 256 * expandBits r

/-- The bits of the bytes that a byte mask names. -/
def expandMask (m : Word) : Row := BitVec.ofNat 512 (expandBits ((List.range 64).map m.getLsbD))

/-- Replace the named bytes of a row. -/
def mergeRow (old new : Row) (m : Word) : Row := (old &&& ~~~(expandMask m)) ||| (new &&& expandMask m)

/-- The line of an address. -/
def lineOf (a : Nat) : Nat := a / 64 * 64

/-! ### Soft errors (R296 to R298) -/

/-- A dword of memory holds an uncorrectable error. -/
def State.badAt (s : State) (a : Nat) : Bool := s.hub.errors.bad.contains (.memory (a / 8))

/-- The first address of an uncorrectable dword among the `n` bytes from an address. -/
def State.firstBad (s : State) (a n : Nat) : Option Nat :=
  (List.range ((a % 8 + n + 7) / 8)).findSome? fun i =>
    let d := a / 8 + i
    if s.hub.errors.bad.contains (.memory d) then some (8 * d) else none

/-- An error in a dword that lies wholly in a range. -/
def errorWithin (a n : Nat) (p : ErrorPlace) : Bool :=
  match p with
  | .memory d => decide (a ≤ 8 * d) && decide (8 * d + 8 ≤ a + n)
  | _ => false

/-- Writing whole dwords removes their errors (R298). -/
def State.clearBad (s : State) (a n : Nat) : State :=
  s.setErrors { s.hub.errors with
    bad := s.hub.errors.bad.filter fun p => !errorWithin a n p
    soft := s.hub.errors.soft.filter fun p => !errorWithin a n p }

/-- An error in a dword that a range touches. -/
def errorTouches (a n : Nat) (p : ErrorPlace) : Bool :=
  match p with
  | .memory d => meets a n (8 * d) 8
  | _ => false

/-- The memory that holds a stored word. -/
def memoryOf (p : ErrorPlace) : MemoryName :=
  match p with
  | .memory d => if addrOff (8 * d) < 2 ^ 19 then .spm (addrCoord (8 * d)) else .vault (addrCoord (8 * d))
  | .cache _ => .l1
  | .weight .. => .weights

/-- One more corrected error of a memory. -/
def countCorrected : List (MemoryName × Nat) → MemoryName → List (MemoryName × Nat)
  | [], m => [(m, 1)]
  | (x, n) :: l, m => if x = m then (x, n + 1) :: l else (x, n) :: countCorrected l m

/-- A read corrects the correctable errors that it finds among some stored words, and counts each at its memory (R296). -/
def State.correctWhere (s : State) (here : ErrorPlace → Bool) : State :=
  let e := s.hub.errors
  let found := e.soft.filter here
  if found.isEmpty then s
  else s.setErrors { e with
    soft := e.soft.filter fun p => !here p, corrected := (found.map memoryOf).foldl countCorrected e.corrected }

/-- The same for a read of `n` bytes at their home. -/
def State.correctRead (s : State) (a n : Nat) : State := s.correctWhere (errorTouches a n)

/-- The write covers part of an uncorrectable dword (R298). -/
def State.partialBad (s : State) (a n : Nat) : Bool :=
  s.hub.errors.bad.any fun p =>
    match p with
    | .memory d => meets a n (8 * d) 8 && !(decide (a ≤ 8 * d) && decide (8 * d + 8 ≤ a + n))
    | _ => false

/-! ### Homes -/

/-- Put the tag of a line; 7 keeps no entry (R226). -/
def putTag (tags : List HomeTag) (line : Nat) (tsc : BitVec 3) (writer : BitVec 24) : List HomeTag :=
  let rest := tags.filter fun t => t.line != line
  if tsc = 7 then rest else { line := line, tsc := tsc, writer := writer } :: rest

/-- Tag the lines of the `n` bytes from an address. -/
def State.tagLines (s : State) (a n : Nat) (tsc : BitVec 3) (writer : BitVec 24) : State :=
  if hostBase ≤ a then s
  else
    let k := (lineOf (a + n - 1) - lineOf a) / 64 + 1
    s.setHub { s.hub with
      tags := (List.range k).foldl (fun t i => putTag t (lineOf a + 64 * i) tsc writer) s.hub.tags }

/-- Scope misses merge: the first line, the widest scope required (R228). -/
def mergeMiss (old : Option Word) (new : Word) : Word :=
  match old with
  | none => new
  | some o => (o &&& ~~~(7 : Word)) ||| (if (o &&& 7).toNat < (new &&& 7).toNat then new &&& 7 else o &&& 7)

/-- Table 8.5. -/
def missValue (line : Nat) (tsc rq : BitVec 3) : Word :=
  (meshPtr line &&& ~~~(63 : Word)) ||| (tsc.setWidth 64 <<< 3) ||| rq.setWidth 64

/-- A read of a line at its home by a reader at a scope from its writer: outside the line's scope, the writer is sent a
scope miss and the tag is cleared (R227). A miss to another tile leaves the model (log 2). -/
def State.homeReadAt (s : State) (scopeFrom : BitVec 24 → Nat) (a : Nat) : State :=
  match s.hub.tags.find? fun t => t.line == lineOf a with
  | none => s
  | some t =>
    let scope := scopeFrom t.writer
    if 4 ≤ t.tsc.toNat || decide (scope ≤ t.tsc.toNat) then s
    else
      let s := s.setHub { s.hub with tags := putTag s.hub.tags (lineOf a) 7 0 }
      if t.writer = s.own then
        s.setNet { s.tile.net with
          waiting := s.tile.net.waiting ++ [⟨s.tile.res.cxb, .scopeMiss (missValue (lineOf a) t.tsc (BitVec.ofNat 3 scope))⟩] }
      else s

/-- The scope of the pair of a tile and the die controller of a die: its walkers read for every tile of the die (R227, R288). -/
def dieScope (die tile : BitVec 24) : Nat :=
  if coordPkg die ≠ coordPkg tile then 4 else if coordDie die ≠ coordDie tile then 3 else 2

/-- The scope of the pair of a tile and the hub of a package. -/
def hubScope (pkg : BitVec 12) (tile : BitVec 24) : Nat := if pkg ≠ coordPkg tile then 4 else 3

/-- A walk reads the entries on its path at their homes, at a scope from each writer. -/
def State.walkReadsAt (s : State) (scopeFrom : BitVec 24 → Nat) (root : BitVec 38) (va : Nat) : State :=
  match dpaAddr s.hub.boot.pkgId root.toNat with
  | none => s
  | some table => (s.walkPath va 5 table).foldl (fun s a => (s.correctRead a 8).homeReadAt scopeFrom a) s

/-- A walk by the walkers of a die. -/
def State.walkReads (s : State) (die : BitVec 24) (root : BitVec 38) (va : Nat) : State := s.walkReadsAt (dieScope die) root va

/-- A walk by the hub. -/
def State.hubWalk (s : State) (root : BitVec 38) (va : Nat) : State := s.walkReadsAt (hubScope s.hub.boot.pkgId) root va

/-- A read by a tile. -/
def State.homeReadBy (s : State) (reader : BitVec 24) (a : Nat) : State := s.homeReadAt (s.pairScope reader) a

/-- Reads of the lines of `n` bytes by an agent that is no tile, at a scope from each writer (R227). -/
def State.agentRead (s : State) (scopeFrom : BitVec 24 → Nat) (a n : Nat) : State :=
  if hostBase ≤ a then s
  else (List.range ((lineOf (a + n - 1) - lineOf a) / 64 + 1)).foldl
    (fun s i => s.homeReadAt scopeFrom (lineOf a + 64 * i)) (s.correctRead a n)

/-- Reads by the die controller of an address's die. -/
def State.dieRead (s : State) (a n : Nat) : State := s.agentRead (dieScope (addrCoord a)) a n

/-- Reads by the hub (R227). -/
def State.hubReads (s : State) (a n : Nat) : State := s.agentRead (hubScope s.hub.boot.pkgId) a n

/-- Reads of the lines of `n` bytes by the executing tile. -/
def State.homeRead (s : State) (a n : Nat) : State :=
  if hostBase ≤ a then s
  else (List.range ((lineOf (a + n - 1) - lineOf a) / 64 + 1)).foldl
    (fun s i => s.homeReadBy s.own (lineOf a + 64 * i)) (s.correctRead a n)

/-! ### L1 lines -/

/-- The line of an address, if the L1 holds it. -/
def State.findLine (s : State) (a : Nat) : Option Line := s.tile.path.l1.find? fun l => l.addr == lineOf a

/-- Set index of a line: 128 sets (R278). -/
def lineSet (a : Nat) : Nat := a / 64 % 128

/-- Another agent's write at the own vault updates the valid and clean bytes of the L1 copy (R217). -/
def updateLine (l : Line) (a n v : Nat) : Line :=
  let lo := max a l.addr
  let hi := min (a + n) (l.addr + 64)
  if lo < hi then
    let m := byteMask (lo - l.addr) (hi - lo) &&& l.valid &&& ~~~l.dirty
    let row : Row := BitVec.ofNat 512 (v / 2 ^ (8 * (lo - a)) * 2 ^ (8 * (lo - l.addr)))
    { l with data := mergeRow l.data row m }
  else l

/-- Write `n` bytes at their home with a tag: fresh check bits for whole dwords, the tag of each line, and the
L1 copy of an own-vault line (R214, R217, R226, R296). -/
def State.writeHome (s : State) (a n v : Nat) (tsc : BitVec 3) (writer : BitVec 24) : State :=
  if n = 0 then s
  else
    let s := (s.setMem (s.mem.writeNat a n v)).clearBad a n
    let s := s.tagLines a n tsc writer
    if s.isLocal a && addrVault a then
      s.setPath { s.tile.path with l1 := s.tile.path.l1.map fun l => updateLine l a n v }
    else s

/-! ### Reserved lines (R180) -/

/-- Another agent's access to a reserved line: a conflict is found at the home. -/
def State.txHit (s : State) (line : Nat) (isLoad : Bool) : State :=
  match s.tile.path.tx with
  | none => s
  | some t =>
    if t.lines.any fun l => l.line == line && (!isLoad || l.stored) then
      s.setPath { s.tile.path with tx := some { t with conflict := true } }
    else s

/-- Another agent's access to the lines of `n` bytes. -/
def State.txHits (s : State) (a n : Nat) (isLoad : Bool) : State :=
  if s.tile.path.tx.isNone then s
  else (List.range ((lineOf (a + n - 1) - lineOf a) / 64 + 1)).foldl (fun s i => s.txHit (lineOf a + 64 * i) isLoad) s

/-- A write at its home by an agent other than the access half: it conflicts with a transaction that holds its lines. -/
def State.otherWrite (s : State) (a n v : Nat) (tsc : BitVec 3) (writer : BitVec 24) : State :=
  (s.txHits a n false).writeHome a n v tsc writer

/-- Reads at their homes by an agent other than the access half, which reads in the executing tile's place (R180, R227). -/
def State.otherRead (s : State) (a n : Nat) : State := (s.txHits a n true).homeRead a n

/-- Dwords written at their homes by an engine, the hub or the network interface (R226). -/
def State.putWords (s : State) (a : Nat) : List Word → State
  | [] => s
  | w :: r => State.putWords (s.otherWrite a 8 w.toNat 7 0) (a + 8) r

/-- An error in a dword of the L1 that a range touches. -/
def cacheTouches (a n : Nat) (p : ErrorPlace) : Bool :=
  match p with
  | .cache d => meets a n (8 * d) 8
  | _ => false

/-- Write the named bytes of a row at its line's home. -/
def writeMasked (m : Memory) (a : Nat) (data : Nat) : List Bool → Memory
  | [] => m
  | b :: r => writeMasked (if b then m.write a (BitVec.ofNat 8 data) else m) (a + 1) (data / 256) r

/-- The stores of a line whose bytes meet a dword that a mask names. -/
def Line.storesIn (l : Line) (m : Word) : List (Nat × Nat × Word) :=
  l.stores.filter fun x => (List.range 8).any fun i => m &&& byteMask (8 * i) 8 != 0 && meets x.1 x.2.1 (l.addr + 8 * i) 8

/-- The home of a line does not take the bytes of a mask: the stores among them are dropped, and each failure is held for the next
reporting point (R88, R298, R383). The answer is what is left of the line. -/
def State.rejectBytes (s : State) (l : Line) (m : Word) : State × Line :=
  if m = 0 then (s, l)
  else
    let lost := (l.storesIn m).map fun x => x.2.2
    let s := s.setPath { s.tile.path with
      failures := s.tile.path.failures ++ lost.eraseDups.map fun p => (Cause.accessFault, p)
      l1 := s.tile.path.l1.map fun x => if x.addr = l.addr then { x with valid := x.valid &&& ~~~m } else x }
    (s, { l with dirty := l.dirty &&& ~~~m })

/-- The dirty bytes of a line of another tile that cover part of a dword with an uncorrectable error at its home. -/
def State.partialMask (s : State) (l : Line) : Word :=
  if s.isLocal l.addr then 0
  else (List.range 8).foldl (fun m i =>
    let d := l.dirty &&& byteMask (8 * i) 8
    if s.badAt (l.addr + 8 * i) && d != byteMask (8 * i) 8 then m ||| d else m) 0

/-- Write a line's dirty bytes home (R216): they become clean. A dword with an error in the L1 is stored with
its check bits inverted, and the L1 keeps its own error; one wholly overwritten loses its error (R297, R298). A store to another
tile that covers part of a bad dword is rejected there (R88, R298). -/
def State.writeBackLine (s : State) (l : Line) : State :=
  if l.dirty = 0 then s
  else
    let (s, l) := s.rejectBytes l (s.partialMask l)
    let s := s.setPath { s.tile.path with l1 := s.tile.path.l1.map fun x => if x.addr = l.addr then { x with stores := [] } else x }
    let s := (s.correctWhere (cacheTouches l.addr 64)).sendAccess l.addr 64 true
    let s := s.setMem (writeMasked s.mem l.addr l.data.toNat ((List.range 64).map l.dirty.getLsbD))
    let s := s.tagLines l.addr 64 l.rlv l.writer
    let dword (d : Nat) : Word := l.dirty &&& byteMask (8 * (d - l.addr / 8)) 8
    let inLine (d : Nat) : Bool := d / 8 == l.addr / 64
    let moved := s.hub.errors.bad.filterMap fun p =>
      match p with
      | .cache d => if inLine d && dword d != 0 then some (ErrorPlace.memory d) else none
      | _ => none
    let kept := s.hub.errors.bad.filter fun p =>
      match p with
      | .memory d => !(inLine d && dword d == byteMask (8 * (d - l.addr / 8)) 8)
      | _ => true
    let fresh (p : ErrorPlace) : Bool :=
      match p with
      | .memory d => inLine d && dword d == byteMask (8 * (d - l.addr / 8)) 8
      | _ => false
    s.setErrors { s.hub.errors with bad := moved ++ kept, soft := s.hub.errors.soft.filter fun p => !fresh p }

/-- Replace or add an L1 line. -/
def putLine (l1 : List Line) (l : Line) : List Line := l :: l1.filter fun x => x.addr != l.addr

/-- Forget a line: its stored bits hold no error any more. -/
def State.dropLine (s : State) (a : Nat) : State :=
  let kept (p : ErrorPlace) : Bool :=
    match p with
    | .cache d => d / 8 != a / 64
    | _ => true
  let s := s.setErrors { s.hub.errors with bad := s.hub.errors.bad.filter kept, soft := s.hub.errors.soft.filter kept }
  s.setPath { s.tile.path with l1 := s.tile.path.l1.filter fun x => x.addr != lineOf a }

/-- Evict a line, writing its dirty bytes home (R215). -/
def State.evictLine (s : State) (a : Nat) : State :=
  match s.findLine a with
  | none => s
  | some l => (s.writeBackLine l).dropLine a

/-- A line of the L1 for an address; a set of eight lines gives up its least recently allocated line. -/
def State.roomFor (s : State) (a : Nat) : State :=
  if (s.findLine a).isSome then s
  else
    let set := s.tile.path.l1.filter fun l => lineSet l.addr == lineSet a
    match set[7]? with
    | some l => s.evictLine l.addr
    | none => s

/-- An empty line. -/
def emptyLine (a : Nat) : Line := { addr := lineOf a, data := 0, valid := 0, dirty := 0, rlv := 7, writer := 0, stores := [] }

/-- The dwords of a line that can be filled: no uncorrectable error at the home. -/
def State.goodMask (s : State) (a : Nat) : Word :=
  (List.range 8).foldl (fun m i => if s.badAt (lineOf a + 8 * i) then m else m ||| byteMask (8 * i) 8) 0

/-- Fetch a line from its home, filling the bytes that are not dirty (R215, R296). -/
def State.fillLine (s : State) (a : Nat) : State :=
  let s := ((s.correctRead (lineOf a) 64).homeReadBy s.own (lineOf a)).roomFor a
  let l := (s.findLine a).getD (emptyLine a)
  let m := s.goodMask a &&& ~~~l.dirty
  let l := { l with data := mergeRow l.data (s.mem.readRow (lineOf a)) m, valid := l.dirty ||| m }
  let kept (p : ErrorPlace) : Bool :=
    match p with
    | .cache d => !(d / 8 == a / 64 && (l.dirty &&& byteMask (8 * (d - lineOf a / 8)) 8) == 0)
    | _ => true
  let s := s.setErrors { s.hub.errors with bad := s.hub.errors.bad.filter kept, soft := s.hub.errors.soft.filter kept }
  s.setPath { s.tile.path with l1 := putLine s.tile.path.l1 l }

/-- A read within one line found an uncorrectable error. -/
def badIn (s : State) (l : Line) (a n : Nat) : Bool :=
  s.hub.errors.bad.any fun p =>
    match p with
    | .cache d => meets a n (8 * d) 8 && (l.dirty &&& byteMask (8 * (d - l.addr / 8)) 8) != 0
    | _ => false

/-- An error in a clean byte of the line that the read needs: the line is fetched again (R297). -/
def cleanBadIn (s : State) (l : Line) (a n : Nat) : Bool :=
  s.hub.errors.bad.any fun p =>
    match p with
    | .cache d => meets a n (8 * d) 8 && (l.dirty &&& byteMask (8 * (d - l.addr / 8)) 8) == 0
    | _ => false

/-- Read `n` bytes of one line through the L1 (R215), correcting what can be corrected there (R296): the value, or none
for an uncorrectable error. -/
def State.cacheRead (s : State) (a n : Nat) : State × Option Nat :=
  let s := s.correctWhere (cacheTouches a n)
  let need := byteMask (a - lineOf a) n
  let l0 := (s.findLine a).getD (emptyLine a)
  let s := if l0.valid &&& need = need ∧ ¬cleanBadIn s l0 a n then s else s.fillLine a
  let l := (s.findLine a).getD (emptyLine a)
  if l.valid &&& need ≠ need ∨ badIn s l a n then (s, none)
  else (s, some (l.data.toNat / 2 ^ (8 * (a - lineOf a)) % 2 ^ (8 * n)))

/-- Write `n` bytes of one line into the L1 (R215), by a store formed with `ptr`: valid, dirty, tagged with a release level and
the own coordinate. -/
def State.cacheWrite (s : State) (a n v : Nat) (rlv : BitVec 3) (ptr : Word) : State :=
  let s := s.roomFor a
  let l := (s.findLine a).getD (emptyLine a)
  let s := if cleanBadIn s l a n then s.fillLine a else s
  let l := (s.findLine a).getD (emptyLine a)
  let kept (p : ErrorPlace) : Bool :=
    match p with
    | .cache d => !(decide (a ≤ 8 * d) && decide (8 * d + 8 ≤ a + n))
    | _ => true
  let s := s.setErrors { s.hub.errors with bad := s.hub.errors.bad.filter kept, soft := s.hub.errors.soft.filter kept }
  let m := byteMask (a - lineOf a) n
  let l := { l with
    data := mergeRow l.data (BitVec.ofNat 512 (v % 2 ^ (8 * n) * 2 ^ (8 * (a - lineOf a)))) m
    valid := l.valid ||| m, dirty := l.dirty ||| m, rlv := rlv, writer := s.own
    stores := if s.isLocal a then [] else (l.stores.erase (a, n, ptr)) ++ [(a, n, ptr)] }
  s.setPath { s.tile.path with l1 := putLine s.tile.path.l1 l }

/-! ### Posted stores (R88, R215) -/

/-- A posted store is dropped, and its failure is held for the next reporting point (R88). -/
def State.rejectPosted (s : State) (p : Posted) : State :=
  s.setPath { s.tile.path with failures := s.tile.path.failures ++ [(Cause.accessFault, p.ptr)] }

/-- The places of a posted store. -/
def Posted.parts (p : Posted) : List (Nat × Nat × BitVec 512) := (p.addr, p.len, p.data) :: p.more

/-- Some byte of a posted store goes to an address of a kind. -/
def Posted.reaches (p : Posted) (f : Nat → Bool) : Bool := p.parts.any fun x => f x.1

/-- Write up to 64 bytes through the L1, in one line or in two. -/
def State.writeSpan (s : State) (a n v : Nat) (rlv : BitVec 3) (ptr : Word) : State :=
  let k := min n (64 - a % 64)
  let s := s.cacheWrite a k (v % 2 ^ (8 * k)) rlv ptr
  if k = n then s else s.cacheWrite (a + k) (n - k) (v / 2 ^ (8 * k)) rlv ptr

/-- Some queue has started a WAIT. -/
def State.hasWait (s : State) : Bool :=
  s.hub.fe.queues.any fun (x : Queue) => x.started.any fun (k : Pkt) => (k.words.getD 0 0).toNat % 256 == 5

/-- What a store has made of its line at a device home, for the WAITs that evaluate their conditions at it (R320). -/
def State.notePast (s : State) (a : Nat) : State :=
  if hostBase ≤ a || !s.hasWait then s
  else s.setFe { s.hub.fe with past := s.hub.fe.past ++ [(lineOf a, BitVec.ofNat 512 (s.mem.readNat (lineOf a) 64))] }

/-- One part of a posted store is performed. -/
def State.performPart (s : State) (p : Posted) (x : Nat × Nat × BitVec 512) : State :=
  let s := if p.row then s.txHits x.1 x.2.1 false else s
  if decide (x.1 < hostBase) && !addrSpm x.1 then s.writeSpan x.1 x.2.1 x.2.2.toNat p.rlv p.ptr
  else ((s.sendAccess x.1 x.2.1 true).writeHome x.1 x.2.1 x.2.2.toNat p.rlv s.own).notePast x.1

/-- A part of a posted store cannot be performed: it covers part of an uncorrectable dword (R298), or a host access outside the
windows as they are now (R381, R382). -/
def State.partFails (s : State) (x : Nat × Nat × BitVec 512) : Bool :=
  s.partialBad x.1 x.2.1 || (decide (hostBase ≤ x.1) && !s.hostOk (x.1 - hostBase) x.2.1)

/-- A posted store is performed at its home as a whole, or rejected as a whole (R111, R298, R382). -/
def State.performPosted (s : State) (p : Posted) : State :=
  if p.parts.any s.partFails then s.rejectPosted p else p.parts.foldl (fun s x => s.performPart p x) s

/-- The parts of a store that cover a dword in part. -/
def partialEnds (a n : Nat) : List (Nat × Nat) :=
  if n < 8 then [(a, n)]
  else [(a, (8 - a % 8) % 8), (a + n - (a + n) % 8, (a + n) % 8)].filter fun x => x.2 != 0

/-- A local store of part of a dword that holds an uncorrectable error (R298). -/
def State.storeBad (s : State) (a n : Nat) : Bool :=
  s.isLocal a && (s.partialBad a n || (partialEnds a n).any fun x =>
    match s.findLine x.1 with
    | some l => badIn s l x.1 x.2
    | none => false)

/-- Every posted store that satisfies a condition is performed, oldest first. -/
def State.flushPosted (s : State) (which : Posted → Bool) : State :=
  let go := s.tile.path.posted.filter which
  let s := s.setPath { s.tile.path with posted := s.tile.path.posted.filter fun p => !which p }
  go.foldl (fun s p => s.performPosted p) s

/-! ### Reads and writes of one access -/

/-- A byte of a staging window is one of a derived record that stands there, or one that the strip controller has staged where the
spec does not say (R279, log 43). -/
def State.spmByte (s : State) (a : Nat) : Byte :=
  let here := s.hub.staging.any fun x => x.place.any fun p => decide (p ≤ a) && decide (a < p + 64)
  if inStaging (addrOff a) && !here then Config.stagedByte s.free a else s.mem.read a

/-- Bytes of an SPM. -/
def State.spmNat (s : State) (a n : Nat) : Nat :=
  if inStaging (addrOff a) || inStaging (addrOff (a + n - 1)) then (List.range n).foldr (fun i v => (s.spmByte (a + i)).toNat + 256 * v) 0
  else s.mem.readNat a n

/-- A read of `n` bytes within one line, at the SPM, through the L1, or at the host (R215): the value, or none
for an uncorrectable error. A posted store to the same tile or to the host is performed first (R222). -/
def State.readPlace (s : State) (a n : Nat) : State × Option Nat :=
  if hostBase ≤ a then
    let s := s.flushPosted fun p => p.reaches fun b => decide (hostBase ≤ b)
    (s, some (s.mem.readNat a n))
  else if addrSpm a then
    let s := s.flushPosted fun p => p.reaches fun b => addrCoord b == addrCoord a
    let s := s.homeRead a n
    (s, if (s.firstBad a n).isSome then none else some (s.spmNat a n))
  else s.cacheRead a n

/-- A write of an access size by the access half (R88, R215, R226). The store was formed with `ptr`. -/
def State.writePlace (s : State) (ptr : Word) (a : Nat) (size : AccessSize) (v : Word) : State :=
  let n := sizeBytes size
  if decide (hostBase ≤ a) || (addrSpm a && !s.isLocal a) then
    s.setPath { s.tile.path with
      posted := s.tile.path.posted ++
        [{ ptr := ptr, addr := a, len := n, data := v.setWidth 512, rlv := s.tile.path.rlv, more := [], row := false }] }
  else if addrSpm a then s.writeHome a n v.toNat s.tile.path.rlv s.own
  else s.cacheWrite a n v.toNat s.tile.path.rlv ptr

/-- Read bytes through the tile's path, piece by piece within dwords; none at an uncorrectable error. -/
def State.readRange (s : State) (a : Nat) : Nat → List Nat → State × Option (List Nat)
  | _, [] => (s, some [])
  | i, n :: r =>
    match s.readPlace (a + i) n with
    | (s, none) => (s, none)
    | (s, some v) =>
      match State.readRange s a (i + n) r with
      | (s, some vs) => (s, some (v :: vs))
      | (s, none) => (s, none)

/-! ### Releases and acquires (R218, R219, Table 8.2) -/

/-- A release of a scope: dirty bytes and posted stores are performed at their homes, RLV becomes the scope.
The tile scope writes back only lines homed in the own vault; wider scopes write back every line (a line beyond
the scope may reach its home at any time, R218). -/
def State.release (s : State) (scope : Nat) : State :=
  let s := s.flushPosted fun p => scope == 4 || p.reaches fun b => decide (b < hostBase)
  let go := s.tile.path.l1.filter fun l => decide (1 ≤ scope) || addrCoord l.addr == s.own
  let s := go.foldl (fun s l => s.writeBackLine l) s
  s.setPath { s.tile.path with
    l1 := s.tile.path.l1.map fun l =>
      if decide (1 ≤ scope) || addrCoord l.addr == s.own then { l with dirty := 0 } else l
    rlv := BitVec.ofNat 3 scope }

/-- An acquire: every clean byte of a line not homed in the own vault is invalidated (R219). -/
def State.acquire (s : State) : State :=
  s.setPath { s.tile.path with
    l1 := (s.tile.path.l1.map fun l => if addrCoord l.addr == s.own then l else { l with valid := l.dirty }).filter
      fun l => l.valid != 0 }

/-! ### Access counting (R294, R295) -/

/-- The entry that makes room: the smallest count, the oldest among equals, among those with no notification
pending. -/
def accVictim (es : List AccEntry) : Option AccEntry :=
  es.foldl (fun best e =>
    if e.pending then best
    else match best with
      | none => some e
      | some b => if e.count.toNat < b.count.toNat then some e else best) none

/-- The entry names a page. -/
def AccEntry.is (e : AccEntry) (ctxid : BitVec 12) (base : Word) : Bool := e.ctxid == ctxid && e.base == base

/-- Saturating 32-bit increment. -/
def satInc (x : BitVec 32) : BitVec 32 := if x = BitVec.allOnes 32 then x else x + 1

/-- ANQB places the queue in a vault (Table 13.7). -/
def anqbOk (b : Word) : Bool :=
  ptrFormOk b && !ptrVirtual b && !ptrRel b && decide (b.toNat % 64 = 0)
    && addrVault (b.toNat % 2 ^ 54) && decide (b.toNat / 2 ^ 35 % 32 ≠ 31)

/-- Post a notification of an entry (Table 13.8). -/
def State.postNotice (s : State) (d : BitVec 2) (e : AccEntry) : State :=
  let u := s.hub.acu.get d.toFin
  let a := u.anqb.toNat % 2 ^ 54 + 16 * (u.tail.toNat % 2 ^ u.logn.toNat)
  let w0 : Word := ((1 : Word) <<< 63) ||| (e.size.setWidth 64 <<< 56) ||| (e.base &&& 0x007FFFFFFFFFF000)
    ||| e.ctxid.setWidth 64
  let w1 : Word := e.count.setWidth 64 ||| (d.setWidth 64 <<< 32)
  let s := (s.otherWrite a 8 w0.toNat 7 0).otherWrite (a + 8) 8 w1.toNat 7 0
  s.setAcu d { u with tail := u.tail + 1 }

/-- Room in the notification queue (R295). -/
def AccUnit.room (u : AccUnit) : Bool := anqbOk u.anqb && decide ((u.tail - u.head).toNat < 2 ^ u.logn.toNat)

/-- A counter has reached ACTHR: post, or mark pending. -/
def State.accNotify (s : State) (d : BitVec 2) (e : AccEntry) : State :=
  let u := s.hub.acu.get d.toFin
  let u := { u with entries := u.entries.map fun x => if x.is e.ctxid e.base then { x with notified := true } else x }
  let s := s.setAcu d u
  if u.room && u.order.isEmpty then s.postNotice d e
  else s.setAcu d { u with
    order := u.order ++ [(e.ctxid, e.base)]
    entries := u.entries.map fun x => if x.is e.ctxid e.base then { x with pending := true } else x }

/-- One access through a leaf with CNT set, by a tile of a die (R294). -/
def State.countOn (s : State) (d : BitVec 2) (t : TEntry) : State :=
  let u := s.hub.acu.get d.toFin
  if !u.en || !t.leaf.getLsbD 4 then s
  else
    let hit := u.entries.find? fun e => e.is t.ctxid t.base
    match hit with
    | some e =>
      let e' := { e with count := satInc e.count }
      let s := s.setAcu d { u with entries := u.entries.map fun x => if x.is t.ctxid t.base then e' else x }
      if u.thr ≠ 0 ∧ e'.count = u.thr ∧ e.count ≠ u.thr ∧ ¬e.notified then s.accNotify d e' else s
    | none =>
      let e : AccEntry := { ctxid := t.ctxid, base := t.base, size := t.size, count := 1, pending := false,
                             notified := false }
      if u.entries.length < 4096 then
        let s := s.setAcu d { u with entries := u.entries ++ [e] }
        if u.thr = 1 then s.accNotify d e else s
      else match accVictim u.entries with
        | none => s.setAcu d { u with drops := satInc u.drops }
        | some v =>
          let s := s.setAcu d { u with
            entries := (u.entries.filter fun x => !x.is v.ctxid v.base) ++ [e], drops := satInc u.drops }
          if u.thr = 1 then s.accNotify d e else s

/-- One access of the executing tile through a translation, if any. -/
def State.count (s : State) (leaf : Option TEntry) : State :=
  match leaf with
  | none => s
  | some t => s.countOn (s.tile.csr.pcoord.extractLsb' 10 2) t

end Sys2Proof.Machine
end

