-- ==== Sys2Proof/Machine/Flags.lean ====
section
/-!
DEFINITION. Floating-point flags, exact values, rounding once to a destination, and the muntjac mix
(chapter 2: R43 to R54, R58, R59).
-/

namespace Sys2Proof.Machine

/-- A set of flags in the order of FCSR.FLG (Table 1.13). -/
abbrev Flags := BitVec 6

/-- Invalid. -/
def flNV : Flags := 1
/-- Division by zero. -/
def flDZ : Flags := 2
/-- Overflow. -/
def flOF : Flags := 4
/-- Underflow. -/
def flUF : Flags := 8
/-- Inexact. -/
def flNX : Flags := 16
/-- Saturated. -/
def flSAT : Flags := 32

/-- The flags when a condition holds. -/
def flIf (b : Bool) (f : Flags) : Flags := if b then f else 0

/-- A rounding mode (R52); SR carries its draw of 24 bits (R54). -/
inductive Mode where
  | rne | rz | ru | rd
  | sr (draw : Nat)
  deriving DecidableEq, Repr

/-- The mode of an RM code (Table 1.13); codes 5 to 7 are never held (Table 1.13). -/
def modeOf (rm : Nat) (draw : Nat) : Mode :=
  match rm with
  | 1 => .rz
  | 2 => .ru
  | 3 => .rd
  | 4 => .sr draw
  | _ => .rne

/-- The exact value of an element: NaN (signalling or quiet), infinity, or (-1)^neg × mag × 2^exp. -/
inductive Ext where
  | nan (signalling : Bool)
  | inf (neg : Bool)
  | fin (neg : Bool) (mag : Nat) (exp : Int)
  deriving DecidableEq, Repr

/-- A binary floating-point format (Tables 2.2 and 2.3). Codes without their sign are ordered as their values,
so `maxCode` is the largest finite one. -/
structure FloatFmt where
  ebits : Nat
  frac  : Nat
  bias  : Nat
  maxCode : Nat
  infCode : Option Nat
  nanCode : Option Nat
  /-- FTZ acts on it (R44). -/
  flush : Bool
  deriving DecidableEq, Repr

def fp32 : FloatFmt := ⟨8, 23, 127, 0x7F7FFFFF, some 0x7F800000, some 0x7FC00000, true⟩
def bf16 : FloatFmt := ⟨8, 7, 127, 0x7F7F, some 0x7F80, some 0x7FC0, true⟩
def fp16 : FloatFmt := ⟨5, 10, 15, 0x7BFF, some 0x7C00, some 0x7E00, true⟩
def e4m3 : FloatFmt := ⟨4, 3, 7, 0x7E, none, some 0x7F, false⟩
def e5m2 : FloatFmt := ⟨5, 2, 15, 0x7B, some 0x7C, some 0x7E, false⟩
def e2m3 : FloatFmt := ⟨2, 3, 1, 0x1F, none, none, false⟩
def e3m2 : FloatFmt := ⟨3, 2, 3, 0x1F, none, none, false⟩
def e2m1 : FloatFmt := ⟨2, 1, 1, 0x7, none, none, false⟩

/-- The sign bit of a code. -/
def FloatFmt.sign (f : FloatFmt) (neg : Bool) : Nat := if neg then 2 ^ (f.ebits + f.frac) else 0

/-- Exponent of the smallest subnormal. -/
def FloatFmt.qmin (f : FloatFmt) : Int := 1 - (f.bias : Int) - f.frac

/-- The value of a code (R44, R45, R47). -/
def FloatFmt.decode (f : FloatFmt) (c : Nat) : Ext :=
  let mag := c % 2 ^ (f.ebits + f.frac)
  let neg := decide (c / 2 ^ (f.ebits + f.frac) % 2 = 1)
  let m := mag % 2 ^ f.frac
  let e := mag / 2 ^ f.frac
  if f.maxCode < mag then
    if f.infCode = some mag then .inf neg else .nan (decide (m / 2 ^ (f.frac - 1) = 0))
  else if e = 0 then .fin neg m f.qmin
  else .fin neg (2 ^ f.frac + m) (f.qmin + (e - 1 : Nat))

/-- A code read as an operand: under FTZ a subnormal is a zero of its sign (R44). -/
def FloatFmt.read (f : FloatFmt) (ftz : Bool) (c : Nat) : Ext :=
  match f.decode c with
  | .fin neg m e => if ftz && f.flush && decide (c / 2 ^ f.frac % 2 ^ f.ebits = 0) then .fin neg 0 e else .fin neg m e
  | x => x

/-- floor(log2) of a non-zero magnitude. -/
def floorLog (mag : Nat) (exp : Int) : Int := exp + Nat.log2 mag

/-- Round a magnitude to a multiple of 2^q (R52, R54): the multiple, and whether it is inexact. `sticky` says
that the magnitude lies strictly between `mag` and `mag + 1` units of 2^exp. -/
def roundMag (mode : Mode) (neg : Bool) (mag : Nat) (exp : Int) (sticky : Bool) (q : Int) : Nat × Bool :=
  if q ≤ exp then (mag * 2 ^ (exp - q).toNat, sticky)
  else
    let unit := 2 ^ (q - exp).toNat
    let lo := mag / unit
    let r := mag % unit
    let inexact := decide (r ≠ 0) || sticky
    let up := match mode with
      | .rne => decide (unit < 2 * r) || (decide (unit = 2 * r) && (sticky || decide (lo % 2 = 1)))
      | .rz => false
      | .ru => inexact && !neg
      | .rd => inexact && neg
      | .sr draw => decide (draw < r * 2 ^ 24 / unit)
    (if up then lo + 1 else lo, inexact)

/-- Overflow to a format with infinity (Table 2.5, first row). -/
def overflowCode (f : FloatFmt) (mode : Mode) (neg : Bool) (infinity : Nat) : Nat :=
  match mode with
  | .rz => f.maxCode
  | .ru => if neg then f.maxCode else infinity
  | .rd => if neg then infinity else f.maxCode
  | _ => infinity

/-- Round an exact magnitude to a format, once (R44, R46, R52, R53). `block` is an element of a block record
(no infinity), and `tinyRange` says whether its range ends where the format's does (R46). -/
def FloatFmt.round (f : FloatFmt) (block tinyRange ftz : Bool) (mode : Mode) (neg : Bool) (mag : Nat) (exp : Int)
    (sticky : Bool) : Nat × Flags :=
  if mag = 0 then (f.sign neg, 0)
  else
    let l := floorLog mag exp
    let tiny := decide (l < f.qmin + f.frac)
    if tiny && ftz && f.flush then (f.sign neg, flUF ||| flNX)
    else
      let q := max (l - f.frac) f.qmin
      let (k, inexact) := roundMag mode neg mag exp sticky q
      let code := (q - f.qmin).toNat * 2 ^ f.frac + k
      if code ≤ f.maxCode then
        (f.sign neg + code, flIf inexact flNX ||| flIf (inexact && tiny && tinyRange) flUF)
      else match f.infCode, block with
        | some i, false => (f.sign neg + overflowCode f mode neg i, flOF ||| flNX)
        | _, _ => (f.sign neg + f.maxCode, flSAT ||| flOF ||| flNX)

/-- A value converted to a standalone element of a format (R45, R48, R53, R58). -/
def FloatFmt.convert (f : FloatFmt) (ftz : Bool) (mode : Mode) (x : Ext) : Nat × Flags :=
  match x with
  | .nan sig => match f.nanCode with
    | some n => (n, flIf sig flNV)
    | none => (0, flNV)
  | .inf neg => match f.infCode with
    | some i => (f.sign neg + i, 0)
    | none => (f.sign neg + f.maxCode, flSAT ||| flOF ||| flNX)
  | .fin neg m e => f.round false true ftz mode neg m e false

/-- An integer from a code of `n` bits, two's complement. -/
def intOf (n : Nat) (c : Nat) : Int :=
  let c := c % 2 ^ n
  if c < 2 ^ (n - 1) then c else (c : Int) - 2 ^ n

/-- The code of `n` bits of an integer, modulo 2^n. -/
def intCode (n : Nat) (x : Int) : Nat := (x % (2 ^ n : Int)).toNat

/-- An integer as an exact value. -/
def Ext.ofInt (x : Int) : Ext := .fin (decide (x < 0)) x.natAbs 0

/-- An integer replaced by the nearest bound of `n` bits (R43). -/
def clampInt (n : Nat) (x : Int) : Int × Bool :=
  if x < -2 ^ (n - 1) then (-2 ^ (n - 1), true)
  else if 2 ^ (n - 1) - 1 < x then (2 ^ (n - 1) - 1, true)
  else (x, false)

/-- Conversion into an integer format of `n` bits (R43, R53): the code and the flags. -/
def toIntCode (n : Nat) (mode : Mode) (x : Ext) : Nat × Flags :=
  match x with
  | .nan _ => (0, flNV)
  | .inf neg => (intCode n (if neg then -2 ^ (n - 1) else 2 ^ (n - 1) - 1), flSAT ||| flOF)
  | .fin neg m e =>
    let (k, inexact) := roundMag mode neg m e false 0
    let (v, sat) := clampInt n (if neg then -(k : Int) else k)
    (intCode n v, flIf inexact flNX ||| flIf sat (flSAT ||| flOF))

/-! ### Exact operations -/

/-- A finite value as a signed multiple of 2^e, for e at most its own exponent. -/
def scaled (neg : Bool) (mag : Nat) (exp e : Int) : Int :=
  let v : Int := mag * 2 ^ (exp - e).toNat
  if neg then -v else v

/-- The exact sum (R124): an exact zero sum is +0, or -0 when `rd`, or when both addends are zeros of sign 1. -/
def Ext.add (rd : Bool) : Ext → Ext → Ext × Flags
  | .nan a, .nan b => (.nan false, flIf (a || b) flNV)
  | .nan a, _ => (.nan false, flIf a flNV)
  | _, .nan b => (.nan false, flIf b flNV)
  | .inf a, .inf b => if a = b then (.inf a, 0) else (.nan false, flNV)
  | .inf a, .fin _ _ _ => (.inf a, 0)
  | .fin _ _ _, .inf b => (.inf b, 0)
  | .fin na ma ea, .fin nb mb eb =>
    let e := min ea eb
    let s := scaled na ma ea e + scaled nb mb eb e
    if s = 0 then (.fin (rd || (decide (ma = 0) && decide (mb = 0) && na && nb)) 0 e, 0)
    else (.fin (decide (s < 0)) s.natAbs e, 0)

/-- The exact product. -/
def Ext.mul : Ext → Ext → Ext × Flags
  | .nan a, .nan b => (.nan false, flIf (a || b) flNV)
  | .nan a, _ => (.nan false, flIf a flNV)
  | _, .nan b => (.nan false, flIf b flNV)
  | .inf a, .inf b => (.inf (a != b), 0)
  | .inf a, .fin nb mb _ => if mb = 0 then (.nan false, flNV) else (.inf (a != nb), 0)
  | .fin na ma _, .inf b => if ma = 0 then (.nan false, flNV) else (.inf (na != b), 0)
  | .fin na ma ea, .fin nb mb eb => (.fin (na != nb) (ma * mb) (ea + eb), 0)

/-- The value with its sign inverted. -/
def Ext.neg : Ext → Ext
  | .nan a => .nan a
  | .inf a => .inf (!a)
  | .fin n m e => .fin (!n) m e

/-- The value times 2^k. -/
def Ext.shift (k : Int) : Ext → Ext
  | .fin n m e => .fin n m (e + k)
  | x => x

/-- A NaN. -/
def Ext.isNan : Ext → Bool
  | .nan _ => true
  | _ => false

/-- A signalling NaN. -/
def Ext.isSig : Ext → Bool
  | .nan s => s
  | _ => false

/-- The order of two magnitudes. -/
def magLt (m1 : Nat) (e1 : Int) (m2 : Nat) (e2 : Int) : Bool :=
  let e := min e1 e2
  decide (m1 * 2 ^ (e1 - e).toNat < m2 * 2 ^ (e2 - e).toNat)

/-- a < b by value, -0 equal to +0; false when either is a NaN (R126). -/
def Ext.lt : Ext → Ext → Bool
  | .nan _, _ => false
  | _, .nan _ => false
  | .inf a, .inf b => a && !b
  | .inf a, .fin _ _ _ => a
  | .fin _ _ _, .inf b => !b
  | .fin na ma ea, .fin nb mb eb =>
    let e := min ea eb
    decide (scaled na ma ea e < scaled nb mb eb e)

/-- a = b by value; false when either is a NaN (R126). -/
def Ext.eq : Ext → Ext → Bool
  | .nan _, _ => false
  | _, .nan _ => false
  | .inf a, .inf b => a == b
  | .inf _, .fin _ _ _ => false
  | .fin _ _ _, .inf _ => false
  | .fin na ma ea, .fin nb mb eb =>
    let e := min ea eb
    decide (scaled na ma ea e = scaled nb mb eb e)

/-! ### The muntjac mix (R59) -/

/-- The four words of a call. -/
structure Mix where
  w0 : BitVec 32
  w1 : BitVec 32
  w2 : BitVec 32
  w3 : BitVec 32
  deriving DecidableEq, Repr

/-- One round `j`, with its rotations. -/
def Mix.round (k0 k1 : BitVec 32) (x : Mix) (j a b : Nat) : Mix :=
  let w0 := x.w0 + x.w1
  let w3 := (x.w3 ^^^ w0).rotateLeft a
  let w2 := x.w2 + w3
  let w1 := (x.w1 ^^^ w2).rotateLeft b
  if j % 2 = 1 then ⟨w0 ^^^ (k0 + BitVec.ofNat 32 j), w1, w2 ^^^ (k1 + BitVec.ofNat 32 j), w3⟩ else ⟨w0, w1, w2, w3⟩

/-- Rounds with the rotations of A and B, from round `j` on. -/
def Mix.rounds (k0 k1 : BitVec 32) : Nat → List (Nat × Nat) → Mix → Mix
  | _, [], x => x
  | j, (a, b) :: r, x => Mix.rounds k0 k1 (j + 1) r (x.round k0 k1 j a b)

/-- One MJX call (R59). -/
def mjx (index : Word) (stream counter : BitVec 32) (key : Word) : Mix :=
  Mix.rounds (key.setWidth 32) (key.extractLsb' 32 32) 0
    [(7, 21), (19, 4), (11, 17), (28, 12), (5, 25), (22, 6), (14, 30), (9, 10)]
    ⟨index.setWidth 32, index.extractLsb' 32 32, stream, counter⟩

/-- The 24 bits that a rounding draws (R54): the forced value of SRFIX, or MJX. -/
def srDraw (index : Word) (counter : BitVec 32) (seedk seeds srfix : Word) : Nat :=
  if srfix.getLsbD 24 then srfix.toNat % 2 ^ 24
  else (mjx index (seeds.setWidth 32) counter seedk).w0.toNat / 2 ^ 8

end Sys2Proof.Machine
end

