-- ==== Sys2Proof/Machine/Format.lean ====
section
/-!
DEFINITION. The formats of Table 2.1: element codes, block records, and quantisation to MX and TB blocks
(R41, R42, R47 to R51, R56, R57).
-/

namespace Sys2Proof.Machine

/-- The formats of Table 2.1. -/
inductive Format where
  | raw
  | int8 | int16 | int32 | int64 | int4
  | fp32 | bf16 | fp16
  | e4m3 | e5m2 | e2m3 | e3m2 | e2m1
  | mxE4m3 | mxE5m2 | mxE2m3 | mxE3m2 | mxE2m1 | mxInt8
  | tb8 | tb4
  deriving DecidableEq, Repr

/-- The format of a code; none for a reserved code (R41). -/
def formatOf (c : BitVec 5) : Option Format :=
  match c.toNat with
  | 0x00 => some .raw
  | 0x01 => some .int8
  | 0x02 => some .int16
  | 0x03 => some .int32
  | 0x04 => some .int64
  | 0x08 => some .fp32
  | 0x09 => some .bf16
  | 0x0A => some .fp16
  | 0x0C => some .e4m3
  | 0x0D => some .e5m2
  | 0x0E => some .e2m3
  | 0x0F => some .e3m2
  | 0x10 => some .e2m1
  | 0x11 => some .mxE4m3
  | 0x12 => some .mxE5m2
  | 0x13 => some .mxE2m3
  | 0x14 => some .mxE3m2
  | 0x15 => some .mxE2m1
  | 0x16 => some .mxInt8
  | 0x18 => some .tb8
  | 0x19 => some .tb4
  | 0x1A => some .int4
  | _ => none

/-- The code of a format (Table 2.1). -/
def Format.code : Format → Nat
  | .raw => 0x00
  | .int8 => 0x01
  | .int16 => 0x02
  | .int32 => 0x03
  | .int64 => 0x04
  | .int4 => 0x1A
  | .fp32 => 0x08
  | .bf16 => 0x09
  | .fp16 => 0x0A
  | .e4m3 => 0x0C
  | .e5m2 => 0x0D
  | .e2m3 => 0x0E
  | .e3m2 => 0x0F
  | .e2m1 => 0x10
  | .mxE4m3 => 0x11
  | .mxE5m2 => 0x12
  | .mxE2m3 => 0x13
  | .mxE3m2 => 0x14
  | .mxE2m1 => 0x15
  | .mxInt8 => 0x16
  | .tb8 => 0x18
  | .tb4 => 0x19

/-- Bits between consecutive element codes in memory (Table 2.1, R42, R50). -/
def Format.bits : Format → Nat
  | .int4 | .e2m1 | .mxE2m1 | .tb4 => 4
  | .mxE2m3 | .mxE3m2 => 6
  | .int16 | .bf16 | .fp16 => 16
  | .int32 | .fp32 => 32
  | .int64 => 64
  | _ => 8

/-- Bits of an element code: a standalone FP6 element has a byte whose bits [7:6] are ignored on read (R42). -/
def Format.codeBits : Format → Nat
  | .e2m3 | .e3m2 => 6
  | f => f.bits

/-- Bytes of a block record, 0 for a format without blocks (Table 2.1). -/
def Format.recordBytes : Format → Nat
  | .mxE4m3 | .mxE5m2 | .mxInt8 | .tb8 => 36
  | .mxE2m3 | .mxE3m2 => 28
  | .mxE2m1 | .tb4 => 20
  | _ => 0

/-- A block format. -/
def Format.isBlock (f : Format) : Bool := f.recordBytes != 0

/-- The floating-point element of a format. -/
def Format.float : Format → Option FloatFmt
  | .fp32 => some Machine.fp32
  | .bf16 => some Machine.bf16
  | .fp16 => some Machine.fp16
  | .e4m3 | .mxE4m3 => some Machine.e4m3
  | .e5m2 | .mxE5m2 => some Machine.e5m2
  | .e2m3 | .mxE2m3 => some Machine.e2m3
  | .e3m2 | .mxE3m2 => some Machine.e3m2
  | .e2m1 | .mxE2m1 => some Machine.e2m1
  | _ => none

/-- The width of an integer format; none for the others. -/
def Format.int : Format → Option Nat
  | .int4 => some 4
  | .int8 => some 8
  | .int16 => some 16
  | .int32 => some 32
  | .int64 => some 64
  | _ => none

/-- emax of a block format (Table 2.3; 0 for MXINT8, R56). -/
def Format.emax : Format → Int
  | .mxE4m3 => 8
  | .mxE5m2 => 15
  | .mxE2m3 => 2
  | .mxE3m2 => 4
  | .mxE2m1 => 2
  | _ => 0

/-- F of a TB format: 5 for TB8, 1 for TB4 (R51). -/
def Format.tbF : Format → Nat
  | .tb8 => 5
  | _ => 1

/-- Width of a TB code: 8 or 4 (R51). -/
def Format.tbN : Format → Nat
  | .tb8 => 8
  | _ => 4

/-- The exact value of a block element with its scale byte or bytes (R49, R51). -/
def decodeBlockElem (f : Format) (scale scale2 : Nat) (c : Nat) : Ext :=
  match f with
  | .mxInt8 =>
    if scale = 255 then .nan false
    else let v := intOf 8 c; .fin (decide (v < 0)) v.natAbs ((scale : Int) - 127 - 6)
  | .tb8 | .tb4 =>
    if scale = 255 ∨ scale2 = 255 then .nan false
    else
      let n := f.tbN
      let e := if c / 2 ^ (n - 2) % 2 = 1 then scale2 else scale
      .fin (decide (c / 2 ^ (n - 1) % 2 = 1)) (c % 2 ^ (n - 2)) ((e : Int) - 127 - f.tbF)
  | _ => match f.float with
    | some ff => if scale = 255 then .nan false else (ff.decode c).shift ((scale : Int) - 127)
    | none => .nan false

/-- Element `i` of a block record given as a little-endian number (R50, Table 2.4). -/
def decodeRecord (f : Format) (rec_ : Nat) (i : Nat) : Ext :=
  let off := 4 * f.bits
  decodeBlockElem f (rec_ / 2 ^ (8 * off) % 256) (rec_ / 2 ^ (8 * off + 8) % 256) (rec_ / 2 ^ (f.bits * i) % 2 ^ f.bits)

/-- The exact value of a standalone element code (R43 to R47). -/
def decodeElem (f : Format) (ftz : Bool) (c : Nat) : Ext :=
  match f.float, f.int with
  | some ff, _ => ff.read ftz c
  | none, some n => Ext.ofInt (intOf n c)
  | none, none => .nan false

/-- A value converted to a standalone element code (R58). -/
def convertElem (f : Format) (ftz : Bool) (mode : Mode) (x : Ext) : Nat × Flags :=
  match f.float, f.int with
  | some ff, _ => ff.convert ftz mode x
  | none, some n => toIntCode n mode x
  | none, none => (0, 0)

/-- `n` codes of `w` bits from a number, lowest first. -/
def splitNat (w : Nat) (x : Nat) : Nat → List Nat
  | 0 => []
  | n + 1 => x % 2 ^ w :: splitNat w (x / 2 ^ w) n

/-- The number whose codes of `w` bits are given, lowest first. -/
def joinNat (w : Nat) : List Nat → Nat
  | [] => 0
  | x :: r => x % 2 ^ w + 2 ^ w * joinNat w r

/-- A finite value of a block, as it is quantised. -/
structure Fin32 where
  neg : Bool
  mag : Nat
  exp : Int
  deriving DecidableEq, Repr

/-- The finite values of a block; none when one is a NaN or infinite. -/
def finites : List Ext → Option (List Fin32)
  | [] => some []
  | .fin n m e :: r => (finites r).map fun l => ⟨n, m, e⟩ :: l
  | _ :: _ => none

/-- The value of greatest magnitude (zero for an empty list). -/
def amax : List Fin32 → Fin32
  | [] => ⟨false, 0, 0⟩
  | x :: r => let y := amax r; if magLt y.mag y.exp x.mag x.exp then x else y

/-- Elements and the flags they raise. -/
def runElems {α : Type} (f : Nat → α → Nat × Flags) : Nat → List α → List Nat × Flags
  | _, [] => ([], 0)
  | i, x :: r =>
    let (c, fl) := f i x
    let (cs, fls) := runElems f (i + 1) r
    (c :: cs, fl ||| fls)

/-- An MX element at a scale (R56; UF by R46). -/
def mxElem (f : Format) (scale : Nat) (mode : Mode) (x : Fin32) : Nat × Flags :=
  let e := x.exp + 127 - scale
  match f.float with
  | some ff => ff.round true (decide (scale = 0)) false mode x.neg x.mag e false
  | none =>
    let (k, inexact) := roundMag mode x.neg x.mag (e + 6) false 0
    let tiny := decide (scale = 0) && decide (x.mag ≠ 0) && decide (floorLog x.mag e < -6)
    let fl := flIf inexact flNX ||| flIf (inexact && tiny) flUF
    if 127 < k then (intCode 8 (if x.neg then -127 else 127), fl ||| flSAT ||| flOF ||| flNX)
    else (intCode 8 (if x.neg then -(k : Int) else k), fl)

/-- The scale of an MX block, and the flags of a clamp above 254 (R56). -/
def mxScale (f : Format) (a : Fin32) : Nat × Flags :=
  let xe : Int := if a.mag = 0 then 0 else floorLog a.mag a.exp - f.emax + 127
  if 254 < xe then (254, flSAT ||| flOF ||| flNX) else (xe.toNat, 0)

/-- A block of 32 values quantised to an MX format (R56): element codes, scale, flags. -/
def mxQuantise (f : Format) (mode : Nat → Mode) (xs : List Ext) : List Nat × Nat × Flags :=
  match finites xs with
  | none => (xs.map fun _ => 0, 255, flNV)
  | some l =>
    let (scale, fs) := mxScale f (amax l)
    let (cs, fl) := runElems (fun i x => mxElem f scale (mode i) x) 0 l
    (cs, scale, fl ||| fs)

/-- A TB element (R57; UF by R46). -/
def tbElem (f : Format) (ehi elo : Nat) (mode : Mode) (x : Fin32) : Nat × Flags :=
  let lo := magLt x.mag x.exp 1 ((ehi : Int) - 130)
  let e := if lo then elo else ehi
  let n := f.tbN
  let (k, inexact) := roundMag mode x.neg x.mag (x.exp + f.tbF + 127 - e) false 0
  let qmax := 2 ^ (n - 2) - 1
  let tiny := decide (e = 0) && decide (x.mag ≠ 0) && decide (floorLog x.mag x.exp < -127 - (f.tbF : Int))
  let fl := flIf inexact flNX ||| flIf (inexact && tiny) flUF ||| flIf (decide (qmax < k)) (flSAT ||| flOF ||| flNX)
  ((if x.neg then 2 ^ (n - 1) else 0) + (if lo then 2 ^ (n - 2) else 0) + min k qmax, fl)

/-- E_hi and E_lo of a TB block (R57). -/
def tbExponents (l : List Fin32) : Nat × Nat :=
  let a := amax l
  let ehi : Int := if a.mag = 0 then 0 else min (max (floorLog a.mag a.exp + 127) 0) 254
  let b := amax (l.filter fun x => magLt x.mag x.exp 1 (ehi - 130))
  let elo : Int := if b.mag = 0 then max (ehi - 24) 0 else max (max (floorLog b.mag b.exp + 127) (ehi - 24)) 0
  (ehi.toNat, elo.toNat)

/-- A block of 32 values quantised to a TB format (R57): element codes, E_hi, E_lo, flags. -/
def tbQuantise (f : Format) (mode : Nat → Mode) (xs : List Ext) : List Nat × Nat × Nat × Flags :=
  match finites xs with
  | none => (xs.map fun _ => 0, 255, 255, flNV)
  | some l =>
    let (ehi, elo) := tbExponents l
    let (cs, fl) := runElems (fun i x => tbElem f ehi elo (mode i) x) 0 l
    (cs, ehi, elo, fl)

/-- The record of element codes and scale bytes, as a little-endian number with zero padding (Table 2.4). -/
def packRecord (f : Format) (codes : List Nat) (scale scale2 : Nat) : Nat :=
  joinNat f.bits codes + 2 ^ (32 * f.bits) * (scale + 256 * scale2)

/-- A block of 32 values in memory form (R56, R57, Table 2.4). -/
def quantiseBlock (f : Format) (mode : Nat → Mode) (xs : List Ext) : Nat × Flags :=
  match f with
  | .tb8 | .tb4 =>
    let (cs, ehi, elo, fl) := tbQuantise f mode xs
    (packRecord f cs ehi elo, fl)
  | _ =>
    let (cs, scale, fl) := mxQuantise f mode xs
    (packRecord f cs scale 0, fl)

end Sys2Proof.Machine
end

