-- ==== Sys2Proof/Machine/Operands.lean ====
section
/-!
DEFINITION. Operand forms: immediates (R68, R69, R92), lanes and vector operands, ports and their entries
(R12, R20 to R22, R71, R111, R118 to R122).
-/

namespace Sys2Proof.Machine

/-! ### Immediates -/

/-- A sign-extended field, or a sign-extended literal (R69, R92). -/
def immS {n : Nat} (i : Imm n) : Word :=
  match i with
  | .fld v => v.signExtend 64
  | .lone v => v.signExtend 64

/-- A sign-extended field, or a zero-extended literal (Table 4.3). -/
def immZ {n : Nat} (i : Imm n) : Word :=
  match i with
  | .fld v => v.signExtend 64
  | .lone v => v.setWidth 64

/-- A zero-extended field, or a zero-extended literal (R97). -/
def immU {n : Nat} (i : Imm n) : Word :=
  match i with
  | .fld v => v.setWidth 64
  | .lone v => v.setWidth 64

/-! ### Lanes (R72, R118) -/

/-- Bits of a lane of a type code. -/
def laneBits (t : BitVec 3) : Nat :=
  match t.toNat with
  | 0 => 8
  | 1 => 16
  | 2 => 32
  | 3 => 16
  | 4 => 16
  | 5 => 32
  | _ => 64

/-- Lanes of a type in a row. -/
def laneCount (t : BitVec 3) : Nat := 512 / laneBits t

/-- A floating-point type. -/
def laneFloat (t : BitVec 3) : Option FloatFmt :=
  match t.toNat with
  | 3 => some fp16
  | 4 => some bf16
  | 5 => some fp32
  | _ => none

/-- The lanes of a row, lane 0 first. -/
def lanesOf (t : BitVec 3) (x : Row) : List Nat := splitNat (laneBits t) x.toNat (laneCount t)

/-- A row from its lanes of `w` bits; lanes not listed are zero. -/
def rowOf (w : Nat) (l : List Nat) : Row := BitVec.ofNat 512 (joinNat w l)

/-- Integer types. -/
def intTypes : List Nat := [0, 1, 2, 6]
/-- Floating-point types. -/
def floatTypes : List Nat := [3, 4, 5]
/-- Types 0 to 6. -/
def allTypes : List Nat := [0, 1, 2, 3, 4, 5, 6]

/-- The entry accepts the type (R72, Table 5.1). -/
def accepts (l : List Nat) (t : BitVec 3) : Bool := l.contains t.toNat

/-! ### Vector operands (Table 3.4) -/

/-- The in port that an operand names. -/
def inPort (x : BitVec 5) : Option (Fin 8) :=
  if h : 16 ≤ x.toNat ∧ x.toNat < 24 then some ⟨x.toNat - 16, by omega⟩ else none

/-- The out port that an operand names. -/
def outPort (x : BitVec 5) : Option (Fin 4) :=
  if h : 24 ≤ x.toNat ∧ x.toNat < 28 then some ⟨x.toNat - 24, by omega⟩ else none

/-- The v register that an operand names. -/
def vReg (x : BitVec 5) : Option (BitVec 4) := if x.toNat < 16 then some (x.setWidth 4) else none

/-- An in or out port. -/
def isPort (x : BitVec 5) : Bool := (inPort x).isSome || (outPort x).isSome

/-- Index of a port in the binding words: in0 to in7, then out0 to out3. -/
def portIndex (x : BitVec 5) : Option (Fin 12) :=
  if h : 16 ≤ x.toNat ∧ x.toNat < 28 then some ⟨x.toNat - 16, by omega⟩ else none

/-- The binding of a port as the execute half sees it (R114). -/
def State.exeKind (s : State) (x : BitVec 5) : BitVec 4 :=
  match portIndex x with
  | some i => (s.tile.ports.exe.get i).kind
  | none => 0

/-- A named port is unbound (R21). -/
def State.unbound (s : State) (x : BitVec 5) : Bool := isPort x && s.exeKind x == 0

/-- The in port of an operand is empty, or its out port is full (R12). -/
def State.notReady (s : State) (x : BitVec 5) : Bool :=
  (match inPort x with
   | some i => (s.tile.ports.inq.get i).isEmpty
   | none => false)
  || (match outPort x with
      | some i => decide (8 ≤ (s.tile.ports.outq.get i).length)
      | none => false)

/-- The entry at the head of the in port that an operand names. -/
def State.headEntry (s : State) (x : BitVec 5) : Option PortEntry :=
  match inPort x with
  | some i => (s.tile.ports.inq.get i).head?
  | none => none

/-- The row that a read position yields: a register, the head of an in port, or zero (R71). -/
def State.rowAt (s : State) (x : BitVec 5) : Row :=
  match vReg x with
  | some r => s.v r
  | none => match s.headEntry x with
    | some e => e.row
    | none => 0

/-- Pop the in port that an operand names. -/
def State.popPort (s : State) (x : BitVec 5) : State :=
  match inPort x with
  | some i => s.setPorts { s.tile.ports with inq := s.tile.ports.inq.set i (s.tile.ports.inq.get i).tail }
  | none => s

/-- Pop each named in port once (R12). -/
def State.popAll (s : State) : List (BitVec 5) → State
  | [] => s
  | x :: r => if r.contains x then State.popAll s r else State.popAll (s.popPort x) r

/-- Address of the SPM dwords of a v register in the active workspace. -/
def State.vAddr (s : State) (r : BitVec 4) : Nat := s.ownAddr (wsOffset s.tile.csr.wp + 0x100 + 64 * r.toNat)

/-- A v register written; one outside the shadow file is written in SPM, with fresh check bits (R19, R296). -/
def State.putV (s : State) (r : BitVec 4) (x : Row) : State :=
  let a := s.vAddr r
  (s.setErrors { s.hub.errors with bad := s.hub.errors.bad.filter fun p =>
    match p with
    | .memory d => !(decide (a ≤ 8 * d) && decide (8 * d < a + 64) && decide (Config.shadowV.toNat ≤ r.toNat))
    | _ => true }).setV r x

/-- A write position: a register, a push with a zero side band, or discarded (R71, R118). -/
def State.writeRow (s : State) (x : BitVec 5) (row : Row) : State :=
  match vReg x with
  | some r => s.putV r row
  | none => match outPort x with
    | some i => s.setPorts { s.tile.ports with outq := s.tile.ports.outq.set i (s.tile.ports.outq.get i ++ [row]) }
    | none => s

/-- The SPM offset of an uncorrectable dword of a v register that is read from SPM (R120). -/
def State.regError (s : State) (x : BitVec 5) : Option Word :=
  match vReg x with
  | none => none
  | some r => match s.firstBad (s.vAddr r) 64 with
    | none => none
    | some a => if Config.shadowV.toNat ≤ r.toNat then some (BitVec.ofNat 64 (addrOff a)) else none

/-- The entry is poisoned: its cause and the pointer of its row (R111). -/
def PortEntry.poison (e : PortEntry) : Option (BitVec 8 × Word) :=
  if e.side.getLsbD 127 then some (e.side.extractLsb' 112 8, e.row.setWidth 64) else none

/-- A poisoned row for a pointer (R111). -/
def poisoned (cause : BitVec 8) (ptr : Word) : PortEntry :=
  { row := ptr.setWidth 512, side := ((1 : BitVec 128) <<< 127) ||| (cause.setWidth 128 <<< 112) }

/-- The poison that a read position would pop. -/
def State.poisonAt (s : State) (x : BitVec 5) : Option (BitVec 8 × Word) :=
  match s.headEntry x with
  | some e => e.poison
  | none => none

/-- Stall the execute half on a port (R12, Table 1.1). -/
def State.stallX (s : State) (h : HalfState) : State := s.setFront { s.tile.front with xst := h }

/-- The issue of an A-word (R12, R21, R76, R77, R111, R119, R120, R370). `legal` is checks 6 and 7 but for the
ports, which are an out port read or an in port written; `entry` is the entry's own check (8), made when the word is
charged; then an unbound port (of several, the first among the reads in operand order and then the writes: log 30), readiness, and errors in what it reads. `effect` runs with the word charged and
every operand still in place. `reads` and `writes` are the named positions; `also` are registers read beside them. -/
def issueA (cls : Fin 8) (s : State) (legal entry : Bool) (reads writes also : List (BitVec 5)) (effect : State → Out) :
    Out :=
  if !legal || reads.any (fun x => (outPort x).isSome) || writes.any (fun x => (inPort x).isSome) then
    s.faultA Cause.illegalInstr s.aEval
  else if !entry then (s.charge cls).faultA Cause.illegalInstr s.aEval
  else match (reads ++ writes).find? s.unbound with
    | some x => (s.charge cls).faultA Cause.portUnbound (x.setWidth 64)
    | none =>
      if (reads ++ writes).any s.notReady then .next (s.stallX .port)
      else match (reads ++ also).findSome? s.regError with
        | some off => (s.charge cls).faultA Cause.softError off
        | none => match reads.findSome? s.poisonAt with
          | some (c, ptr) => (s.charge cls).faultA c ptr
          | none => effect (s.charge cls)

/-- A position that is read and then written may not name a port (R119). -/
def noPort (x : BitVec 5) : Bool := !isPort x

/-- A register pair (R136). -/
def pairOk (x : BitVec 5) : Bool := decide (x.toNat < 16) && decide (x.toNat % 2 = 0)

/-! ### Rounding in the execute half (R33, R121, R122) -/

/-- FTZ. -/
def State.ftz (s : State) : Bool := s.tile.ctx.fcsr.getLsbD 24
/-- RM. -/
def State.rm (s : State) : Nat := s.tile.ctx.fcsr.toNat % 8

/-- The mode of element `k` for an RM code; SR draws from MJX at DIDX + k with the counter DCTR of v15. -/
def State.modeAt (s : State) (rm : Nat) (k : Nat) : Mode :=
  if rm = 4 then
    let v := s.v 15
    modeOf rm (srDraw (v.setWidth 64 + BitVec.ofNat 64 k) (v.extractLsb' 64 32) s.tile.ctx.seedk s.tile.ctx.seeds
      s.tile.ctx.srfix)
  else modeOf rm 0

/-- v15 is read when a word rounds in mode SR from MJX (R122). -/
def State.drawRegs (s : State) (rm : Nat) : List (BitVec 5) :=
  if rm = 4 && !s.tile.ctx.srfix.getLsbD 24 then [15] else []

end Sys2Proof.Machine
end

