-- ==== Sys2Proof/Machine/Control.lean ====
section
/-!
DEFINITION. Transfers of control, LOOP, RPT and the repeat marker (R95 to R100).
-/

namespace Sys2Proof.Machine

/-- The target of a displacement in bundles from the branch bundle (R68, R95). -/
def State.branchTarget (s : State) (disp : Word) : Word := ptrAdd s.tile.front.apc (8 * disp)

/-- BR (Table 4.4). -/
def execBr (gd : Guard) (i : Imm 20) (s : State) : Out :=
  cWordLed 1 gd s fun s => s.transfer (s.branchTarget (immS i)) id

/-- CALL (Table 4.4). -/
def execCall (gd : Guard) (i : Imm 20) (s : State) : Out :=
  cWordLed 1 gd s fun s => s.transfer (s.branchTarget (immS i)) fun s => s.setG 31 (nextBundle s.tile.front.apc)

/-- JMPR (Table 4.4, R96); a follower ignores its own ga (R210). -/
def execJmpr (gd : Guard) (d a : BitVec 5) (s : State) : Out :=
  cWordLed 1 gd s fun s =>
    let t := s.g a
    if t.toNat % 8 ≠ 0 ∧ s.tile.res.leaderNext = none then s.trap false Cause.misaligned t
    else s.transfer t fun s => s.setG d (nextBundle s.tile.front.apc)

/-- A transfer taken when a condition holds (Table 4.4). -/
def branchIf (gd : Guard) (s : State) (cond : State → Bool) (disp : Word) : Out :=
  cWordLed 1 gd s fun s => if s.taken (cond s) then s.transfer (s.branchTarget disp) id else .next s.retire

/-- BEQ (Table 4.4). -/
def execBeq (gd : Guard) (a b : BitVec 5) (i : Imm 10) (s : State) : Out :=
  branchIf gd s (fun s => let x := s.g a; let y := s.g b; decide (x = y)) (immS i)

/-- BNE (Table 4.4). -/
def execBne (gd : Guard) (a b : BitVec 5) (i : Imm 10) (s : State) : Out :=
  branchIf gd s (fun s => let x := s.g a; let y := s.g b; decide (x ≠ y)) (immS i)

/-- BLT (Table 4.4). -/
def execBlt (gd : Guard) (a b : BitVec 5) (i : Imm 10) (s : State) : Out :=
  branchIf gd s (fun s => let x := s.g a; let y := s.g b; decide (x.toInt < y.toInt)) (immS i)

/-- BGE (Table 4.4). -/
def execBge (gd : Guard) (a b : BitVec 5) (i : Imm 10) (s : State) : Out :=
  branchIf gd s (fun s => let x := s.g a; let y := s.g b; decide (y.toInt ≤ x.toInt)) (immS i)

/-- BLTU (Table 4.4). -/
def execBltu (gd : Guard) (a b : BitVec 5) (i : Imm 10) (s : State) : Out :=
  branchIf gd s (fun s => let x := s.g a; let y := s.g b; decide (x.toNat < y.toNat)) (immS i)

/-- BGEU (Table 4.4). -/
def execBgeu (gd : Guard) (a b : BitVec 5) (i : Imm 10) (s : State) : Out :=
  branchIf gd s (fun s => let x := s.g a; let y := s.g b; decide (y.toNat ≤ x.toNat)) (immS i)

/-- BP (Table 4.4). -/
def execBp (gd : Guard) (m : BitVec 1) (q : BitVec 3) (i : Imm 16) (s : State) : Out :=
  branchIf gd s (fun s => s.p q != (m == 1)) (immS i)

/-- LOOP (R97). A follower's loop state is its leader's (R210). -/
def execLoop (gd : Guard) (a : BitVec 5) (l : Imm 15) (s : State) : Out :=
  cWordLed 1 gd s fun s =>
    let f := s.tile.front
    let len := (immU l).toNat
    if (f.loop.lact && s.tile.res.leaderNext.isNone) || len == 0 || decide (2 ^ 20 ≤ len) then s.trapBundle Cause.illegalInstr
    else
      let n : BitVec 32 := (s.g a).setWidth 32
      if s.taken (n == 0) then s.transfer (ptrAdd f.apc (8 + 8 * BitVec.ofNat 64 len)) id
      else .next (s.setFront { f with
        loop := { lcnt := n - 1, llen := BitVec.ofNat 20 len, lact := true, lbeg := nextBundle f.apc } }).retire

/-- RPT (R99, R238): its own A-word issues, then the marker is passed. -/
def execRpt (gd : Guard) (k : BitVec 4) (c : BitVec 8) (r : BitVec 4) (s : State) : Out :=
  cWordLed 1 gd s fun s =>
    let s := s.passOwn
    if !s.caughtUp then .next (s.stall .resource)
    else .next ((s.setFront { s.tile.front with ordered := some (.marker k c r) }).stall .resource)

/-- The repeat state that a marker leaves: its own fields, or those of the leader (R100, R210); the captured words are each
tile's own. -/
def State.marked (s : State) (k : BitVec 4) (c : BitVec 8) (r : BitVec 4) : RepeatState :=
  let x := s.tile.front.rpt
  match s.tile.res.leaderNext with
  | some l => { x with rn := l.rpt.rn, rcnt := l.rpt.rcnt, rstr := l.rpt.rstr, riter := 0, rpos := 0, ract := true }
  | none => { x with rn := k.setWidth 5 + 1, rcnt := c, rstr := r, riter := 0, rpos := 0, ract := true }

/-- REPEAT_MARKER (R100): the execute half acts on a marker that has been passed. A follower whose capture is still open is left
by its leader's outcome, and does not trap (R210). -/
def execRepeatMarker (s : State) : Out :=
  match s.tile.front.ordered with
  | some (.marker k c r) =>
    let f := s.tile.front
    if f.rpt.ract && f.rpt.riter == 0 && s.tile.res.leaderNext.isNone then
      s.trap true Cause.illegalInstr ((s.bundle.setWidth 32).setWidth 64)
    else if f.rpt.ract && f.rpt.riter != 0 then .next s
    else .next (s.setFront { f with ordered := none, rpt := s.marked k c r }).retire
  | _ => .next s

end Sys2Proof.Machine
end

