-- ==== Sys2Proof/Machine/Sha.lean ====
section
/-!
DEFINITION. SHA-384, which measures the verified body of an image (R392). The function is the one of FIPS 180-4, which the spec names
and does not print (log 60).
-/

namespace Sys2Proof.Machine

/-- The round constants: the first 64 bits of the fractional parts of the cube roots of the first eighty primes. -/
def shaK : List Word :=
  [0x428A2F98D728AE22, 0x7137449123EF65CD, 0xB5C0FBCFEC4D3B2F, 0xE9B5DBA58189DBBC,
   0x3956C25BF348B538, 0x59F111F1B605D019, 0x923F82A4AF194F9B, 0xAB1C5ED5DA6D8118,
   0xD807AA98A3030242, 0x12835B0145706FBE, 0x243185BE4EE4B28C, 0x550C7DC3D5FFB4E2,
   0x72BE5D74F27B896F, 0x80DEB1FE3B1696B1, 0x9BDC06A725C71235, 0xC19BF174CF692694,
   0xE49B69C19EF14AD2, 0xEFBE4786384F25E3, 0x0FC19DC68B8CD5B5, 0x240CA1CC77AC9C65]
  ++ [0x2DE92C6F592B0275, 0x4A7484AA6EA6E483, 0x5CB0A9DCBD41FBD4, 0x76F988DA831153B5,
   0x983E5152EE66DFAB, 0xA831C66D2DB43210, 0xB00327C898FB213F, 0xBF597FC7BEEF0EE4,
   0xC6E00BF33DA88FC2, 0xD5A79147930AA725, 0x06CA6351E003826F, 0x142929670A0E6E70,
   0x27B70A8546D22FFC, 0x2E1B21385C26C926, 0x4D2C6DFC5AC42AED, 0x53380D139D95B3DF,
   0x650A73548BAF63DE, 0x766A0ABB3C77B2A8, 0x81C2C92E47EDAEE6, 0x92722C851482353B]
  ++ [0xA2BFE8A14CF10364, 0xA81A664BBC423001, 0xC24B8B70D0F89791, 0xC76C51A30654BE30,
   0xD192E819D6EF5218, 0xD69906245565A910, 0xF40E35855771202A, 0x106AA07032BBD1B8,
   0x19A4C116B8D2D0C8, 0x1E376C085141AB53, 0x2748774CDF8EEB99, 0x34B0BCB5E19B48A8,
   0x391C0CB3C5C95A63, 0x4ED8AA4AE3418ACB, 0x5B9CCA4F7763E373, 0x682E6FF3D6B2B8A3,
   0x748F82EE5DEFB2FC, 0x78A5636F43172F60, 0x84C87814A1F0AB72, 0x8CC702081A6439EC]
  ++ [0x90BEFFFA23631E28, 0xA4506CEBDE82BDE9, 0xBEF9A3F7B2C67915, 0xC67178F2E372532B,
   0xCA273ECEEA26619C, 0xD186B8C721C0C207, 0xEADA7DD6CDE0EB1E, 0xF57D4F7FEE6ED178,
   0x06F067AA72176FBA, 0x0A637DC5A2C898A6, 0x113F9804BEF90DAE, 0x1B710B35131C471B,
   0x28DB77F523047D84, 0x32CAAB7B40C72493, 0x3C9EBE0A15C9BEBC, 0x431D67C49C100D4C,
   0x4CC5D4BECB3E42B6, 0x597F299CFC657E2A, 0x5FCB6FAB3AD6FAEC, 0x6C44198C4A475817]

/-- The initial hash value of SHA-384. -/
def shaInit : List Word :=
  [0xCBBB9D5DC1059ED8, 0x629A292A367CD507, 0x9159015A3070DD17, 0x152FECD8F70E5939,
   0x67332667FFC00B31, 0x8EB44A8768581511, 0xDB0C2E0D64F98FA7, 0x47B5481DBEFA4FA4]

/-- Rotation to the right. -/
def rotr (x : Word) (n : Nat) : Word := (x >>> n) ||| (x <<< (64 - n))

/-- One word of the message schedule from the sixteen before it, newest first. -/
def shaWord (l : List Word) : Word :=
  let at_ (i : Nat) : Word := l.getD (i - 1) 0
  let s0 := rotr (at_ 15) 1 ^^^ rotr (at_ 15) 8 ^^^ (at_ 15 >>> 7)
  let s1 := rotr (at_ 2) 19 ^^^ rotr (at_ 2) 61 ^^^ (at_ 2 >>> 6)
  at_ 16 + s0 + at_ 7 + s1

/-- The message schedule of a block, newest word first. -/
def shaSchedule (block : List Word) : List Word := (List.range 64).foldl (fun l _ => shaWord l :: l) block.reverse

/-- One round on the eight working variables. -/
def shaRound (v : List Word) (kw : Word × Word) : List Word :=
  match v with
  | [a, b, c, d, e, f, g, h] =>
    let s1 := rotr e 14 ^^^ rotr e 18 ^^^ rotr e 41
    let t1 := h + s1 + ((e &&& f) ^^^ (~~~e &&& g)) + kw.1 + kw.2
    let s0 := rotr a 28 ^^^ rotr a 34 ^^^ rotr a 39
    let t2 := s0 + ((a &&& b) ^^^ (a &&& c) ^^^ (b &&& c))
    [t1 + t2, a, b, c, d + t1, e, f, g]
  | v => v

/-- The hash value after a block. -/
def shaBlock (hash block : List Word) : List Word :=
  List.zipWith (· + ·) hash ((shaK.zip (shaSchedule block).reverse).foldl shaRound hash)

/-- The number that bytes are, the first the most significant. -/
def bigNat (l : List Byte) : Nat := l.foldl (fun n b => 256 * n + b.toNat) 0

/-- `n` dwords of a list of bytes, big-endian. -/
def bigWords : Nat → List Byte → List Word
  | 0, _ => []
  | n + 1, l => BitVec.ofNat 64 (bigNat (l.take 8)) :: bigWords n (l.drop 8)

/-- The padding of a message of `n` bytes: 1, zeros, and the length in bits in 16 bytes. -/
def shaPadding (n : Nat) : List Byte :=
  0x80 :: List.replicate ((239 - n % 128) % 128) 0 ++ (List.range 16).map fun i => BitVec.ofNat 8 (8 * n / 256 ^ (15 - i))

/-- `n` blocks of a padded message. -/
def shaBlocks : Nat → List Byte → List Word → List Word
  | 0, _, hash => hash
  | n + 1, l, hash => shaBlocks n (l.drop 128) (shaBlock hash (bigWords 16 l))

/-- SHA-384 of a message. -/
def sha384 (l : List Byte) : BitVec 384 :=
  let m := l ++ shaPadding l.length
  BitVec.ofNat 384 (((shaBlocks (m.length / 128) m shaInit).take 6).foldl (fun n w => 2 ^ 64 * n + w.toNat) 0)

end Sys2Proof.Machine
end

