-- ==== Sys2Proof/Machine/Boot.lean ====
section
/-!
DEFINITION. Start-up, recovery, identity and the package snapshot registers (R379 to R382, R385 to R387, R392,
R393, R395 to R397).
-/

namespace Sys2Proof.Machine

/-! ### The image and the boot ROM (R385, R386) -/

/-- A little-endian number in a list of bytes. -/
def bytesNat : List Byte → Nat
  | [] => 0
  | b :: r => b.toNat + 256 * bytesNat r

/-- The number in `n` bytes at an offset. -/
def fieldAt (m : Memory) (off n : Nat) : Nat := m.readNat off n

/-- The header fields break Table 21.6: MAGIC, HVER, a zero field, LEN or ENTRY. -/
def headerBad (m : Memory) : Bool :=
  let len := fieldAt m 8 8
  !(decide (fieldAt m 0 4 = 0x4D415A57) && decide (fieldAt m 4 4 = 1) && decide (1 ≤ len)
    && decide (len ≤ 2 ^ 23 - 4096) && decide (fieldAt m 17 7 = 0) && decide (fieldAt m 24 8 < len)
    && decide (fieldAt m 32 32 = 0) && decide (fieldAt m 3437 659 = 0))

/-- The body of an image. -/
def imageBody (m : Memory) : List Byte := m.readBytes 4096 (fieldAt m 8 8)

/-- What both signatures cover (R386). -/
def signedPart (m : Memory) : List Byte := m.readBytes 0 64 ++ imageBody m

/-- The first failing check of Table 21.7 (reasons 0x02 to 0x05); none for a good image. -/
def imageFault (svn : BitVec 8) (m : Memory) : Option (BitVec 8) :=
  if headerBad m then some 0x02
  else if fieldAt m 16 1 < svn.toNat then some 0x03
  else if !Config.ed25519Verifies (signedPart m) (m.readBytes 64 64) then some 0x04
  else if !Config.mldsaVerifies (signedPart m) (m.readBytes 128 3309) then some 0x05
  else none

/-- The image as it runs: its SVN, ENTRY and body. -/
def imageOf (m : Memory) : BitVec 8 × Word × List Byte :=
  (BitVec.ofNat 8 (fieldAt m 16 1), BitVec.ofNat 64 (fieldAt m 24 8), imageBody m)

/-- Memory that a device reset does not touch: the host's, and that of other packages than the one that this was and the one
that it is now (log 5). -/
def State.outsideMem (s : State) : Memory :=
  s.mem.filter fun c => decide (hostBase ≤ c.1)
    || (coordPkg (addrCoord c.1) != s.hub.boot.pkgId && coordPkg (addrCoord c.1) != State.reset.hub.boot.pkgId)

/-- Every register at its reset value; the always-on fields, the fuses and the boot flash survive (R385, R392). -/
def State.resetAll (s : State) : State :=
  let b := s.hub.boot
  let r := State.reset
  let tile := { r.tile with csr := { r.tile.csr with pcoord := s.tile.csr.pcoord } }
  let boot := { r.hub.boot with reason := b.reason, svn := b.svn, fscnt := b.fscnt, flash := b.flash, flashBad := b.flashBad,
                                 secret := b.secret }
  let disc := s.hub.disc.map fun (d : Discovery) => { Discovery.reset with fuses := d.fuses }
  { r with tile := tile, hub := { r.hub with boot := boot, disc := disc }, mem := s.outsideMem, free := s.free, inputs := s.inputs }

/-- The key pairs that the boot ROM derives from the device secret, or from it and a measurement (R392). -/
def keysOf (secret : BitVec 256) (measurement : Option (BitVec 384)) : KeyPairs :=
  let e := Config.ed25519Keys secret measurement
  let m := Config.mldsaKeys secret measurement
  { ed25519 := { pub := e.1, sec := e.2 }, mldsa := { pub := m.1, sec := m.2 } }

/-- The measurement of the verified body (R392); without one the spec gives none. -/
def Boot.measurement (b : Boot) : BitVec 384 :=
  match b.image with
  | some (_, _, body) => sha384 body
  | none => Config.noMeasurement

/-- The signing engine holds the keys (R392). -/
def Boot.derived (b : Boot) : Boot :=
  { b with device := some (keysOf b.secret none), alias_ := some (keysOf b.secret (some b.measurement)) }

/-- The boot ROM (R385): minimal mode, or the image; a rejected image resets the device again, at most until
FSCNT is 3. -/
def State.bootRom (s : State) : Nat → State
  | 0 => s
  | n + 1 =>
    let b := s.hub.boot
    if b.fscnt = 3 then s.setBoot { b with mini := true }.derived
    else
      let b := { b with fscnt := b.fscnt + 1 }
      let fault := if b.flashBad then some 0x01 else imageFault b.svn b.flash
      match fault with
      | none => s.setBoot { b with image := some (imageOf b.flash), timer := true, timerAt := s.cycle }.derived
      | some reason => State.bootRom (s.setBoot { b with reason := reason }).resetAll n

/-- A reset of the device (R385). -/
def State.deviceReset (s : State) : State := s.resetAll.bootRom 4

/-- A start that failed: REASON is written and the device is reset (R385). -/
def State.failStart (s : State) (reason : BitVec 8) : State :=
  (s.setBoot { s.hub.boot with reason := reason }).deviceReset

/-- DEVICE_RESET (R385). -/
def execDeviceReset (s : State) : Out := .next s.deviceReset

/-- The start timer has expired in an earlier cycle: 2 s of 2,400,000 CYCLE ticks a millisecond. A write of BOOTOK in the cycle in
which it expires counts as before (R385). -/
def State.startOver (s : State) : Bool := s.hub.boot.timer && decide (4800000000 < (s.cycle - s.hub.boot.timerAt).toNat)

/-- START_TIMER_EXPIRE (R385). -/
def execStartTimerExpire (s : State) : Out := .next (if s.startOver then s.failStart 0x06 else s)

/-- Firmware may set BOOTOK: an image runs, the timer has not expired, PKGID is written and every die has completed discovery
(R385). -/
def State.mayBootok (s : State) : Bool :=
  s.hub.boot.image.isSome && !s.startOver && s.hub.boot.pkgSet && s.hub.disc.toList.all fun d => d.done

/-- The logical tiles of the package (R389). -/
def State.packageTiles (s : State) : List (BitVec 24) :=
  (List.range 4).flatMap fun d => (List.range 992).map fun i =>
    BitVec.ofNat 24 (s.hub.boot.pkgId.toNat * 2 ^ 12 + d * 2 ^ 10 + i)

/-- The resident handler in every tile of the package: its bytes at 0x7_7000 to 0x7_77FF of each SPM, SWP and EVEC (R318, log
21). -/
def State.loadHandler (s : State) : State :=
  let code := Config.handlerBytes.take 0x800
  let s := s.packageTiles.foldl (fun s t => s.otherWrite (coordBase t + 0x77000) code.length (bytesNat code) 7 0) s
  (s.setCsr { s.tile.csr with swp := Config.handlerSwp, evec := Config.handlerEvec }).setBoot { s.hub.boot with handler := true }

/-- BOOTOK_SET (R385): the resident handler has been loaded. -/
def execBootokSet (s : State) : Out :=
  let t := s.loadHandler
  .next (if s.mayBootok then t.setBoot { t.hub.boot with bootok := true, fscnt := 0, timer := false } else s)

/-- STANDBY_POWER_LOSS (R385). -/
def execStandbyPowerLoss (s : State) : Out := .next (s.setBoot { s.hub.boot with fscnt := 0, reason := 0 })

/-- Whether an image of `len` bytes lies whole in the recovery window, and its first failing check (R387). -/
def recoveryFault (svn : BitVec 8) (m : Memory) (len : Nat) : Option (BitVec 8) :=
  if headerBad m then some 0x02
  else if len < 4096 + fieldAt m 8 8 then some 0x02
  else imageFault svn m

/-- RECOV_WRITE (R387). -/
def execRecovWrite (len : BitVec 24) (s : State) : Out :=
  let b := s.hub.boot
  if !b.mini then .next s
  else match recoveryFault b.svn b.recov len.toNat with
    | some why => .next (s.setBoot { b with reason := 0x09, diag := why })
    | none => .next (s.setBoot { b with flash := b.recov.slice 0 len.toNat, flashBad := false, fscnt := 0 }).deviceReset

/-- PKGID_WRITE (Table 21.3). -/
def execPkgidWrite (id : BitVec 12) (s : State) : Out :=
  .next (if s.hub.boot.pkgSet then s else s.setBoot { s.hub.boot with pkgId := id, pkgSet := true })

/-- FUNCTION_LEVEL_RESET (R381): the windows are unlocked, and keep what they hold (log 49). -/
def execFunctionLevelReset (s : State) : Out := .next (s.setBoot { s.hub.boot with lock := false })

/-- HOWLK_WRITE (R381, Table 21.4): only the host writes it; the firmware has no path to it. -/
def execHowlkWrite (write : BarWrite) (s : State) : Out :=
  .next (if write.host && write.value.getLsbD 0 then s.setBoot { s.hub.boot with lock := true } else s)

/-- FUSED_SVN_RAISE (R386): the fuse never decreases. -/
def execFusedSvnRaise (s : State) : Out :=
  let b := s.hub.boot
  match b.image with
  | some (svn, _, _) => .next (if b.bootok && decide (b.svn.toNat < svn.toNat) then s.setBoot { b with svn := svn } else s)
  | none => .next s

/-! ### Attestation (R393) -/

/-- A number as `n` bytes, little-endian. -/
def natBytes (x : Nat) : Nat → List Byte
  | 0 => []
  | n + 1 => BitVec.ofNat 8 x :: natBytes (x / 256) n

/-- BOOTSTAT (Table 21.3). -/
def Boot.bootstat (b : Boot) : Word :=
  BitVec.ofNat 64 (b.reason.toNat * 2 ^ 16 + b.svn.toNat * 2 ^ 8 + b.fscnt.toNat * 4 + (if b.mini then 2 else 0)
    + (if b.bootok then 1 else 0))

/-- PKGID (Table 21.3). -/
def Boot.pkgidWord (b : Boot) : Word := BitVec.ofNat 64 ((if b.pkgSet then 2 ^ 12 else 0) + b.pkgId.toNat)

/-- The signed fields of the report, in the order in which R393 lists them (log 12). -/
def State.reportFields (s : State) (nonce : BitVec 256) : List Byte :=
  let b := s.hub.boot
  natBytes nonce.toNat 32 ++ natBytes b.pkgidWord.toNat 8 ++ natBytes b.bootstat.toNat 8
    ++ natBytes b.measurement.toNat 48 ++ natBytes b.svn.toNat 8
    ++ s.hub.disc.toList.flatMap fun d => natBytes d.fused.toNat 8

/-- Bytes signed with both keys: the Ed25519 signature and then the ML-DSA-65 signature (log 12). -/
def KeyPairs.sign (k : KeyPairs) (l : List Byte) : List Byte :=
  Config.ed25519Sign k.ed25519.sec l ++ Config.mldsaSign k.mldsa.sec l

/-- The public keys. -/
def KeyPairs.publics (k : KeyPairs) : List Byte := k.ed25519.pub ++ k.mldsa.pub

/-- ATTEST_REQUEST (R393): the report with the signatures of both alias keys, and the device certificates with those of both device
keys. Before the boot ROM has run there is no key and no report. -/
def execAttestRequest (nonce : BitVec 256) (s : State) : Out :=
  let f := s.reportFields nonce
  let b := s.hub.boot
  match b.device, b.alias_ with
  | some d, some a =>
    let cert := Config.certificate d.publics a.publics
    .next (s.setBoot { b with report := f ++ a.sign f ++ cert ++ d.sign cert })
  | _, _ => .next s

/-! ### Snapshots (R395 to R397) -/

/-- SNAPT_WRITE: a tick at or below CYCLE latches nothing. -/
def execSnaptWrite (c : Word) (s : State) : Out := .next (if s.cycle.toNat < c.toNat then s.packageTrigger c else s)

/-- SNAPIN_EDGE. -/
def execSnapinEdge (s : State) : Out := .next (if s.hub.snap.pinEn then s.packageTrigger (s.cycle + 256) else s)

/-- PACKAGE_SNAPSHOT_LATCH: at the latch tick every block latches; with HALT, issue stops until RESUME. -/
def execPackageSnapshotLatch (s : State) : Out :=
  match s.hub.snap.latchAt with
  | some t =>
    if t.toNat ≤ s.cycle.toNat then
      let s := s.latchSnapshot
      .next (s.setSnap { s.hub.snap with latchAt := none, frozen := s.hub.snap.frozen || s.hub.snap.halt })
    else .next s
  | none => .next s

/-- SNAPRES_REARM. -/
def execSnapresRearm (s : State) : Out := .next (s.setSnap { s.hub.snap with trig := false })

/-- SNAPRES_RESUME. -/
def execSnapresResume (s : State) : Out := .next (s.setSnap { s.hub.snap with frozen := false })

end Sys2Proof.Machine
end

