-- ==== Sys2Proof/Machine/Discovery.lean ====
section
/-!
DEFINITION. Mesh discovery of a die (R388 to R391, R399 to R402): the discovery window and its packets.
-/

namespace Sys2Proof.Machine

/-- Discovery of a die. -/
def State.disco (s : State) (d : BitVec 2) : Discovery := s.hub.disc.get d.toFin

/-- The executing tile lies on a die at a physical index. -/
def State.isPhys (s : State) (d : BitVec 2) (idx : BitVec 10) : Bool :=
  s.tile.csr.pcoord.extractLsb' 10 2 == d && s.tile.csr.pcoord.setWidth 10 == idx

/-- A reply reaches the agent: it is held, or waits in the mesh behind 64 held ones (R401). -/
def Discovery.accept (x : Discovery) (reply : BitVec 21) : Discovery :=
  let x := { x with
    replied := x.replied ++ [reply.setWidth 10]
    fusedSeen := x.fusedSeen + (if reply.getLsbD 10 then 1 else 0) }
  if x.queue.length < 64 then { x with queue := x.queue ++ [reply] } else { x with mesh := x.mesh ++ [reply] }

/-- The discovery program: the listing of the manual, a bundle a dword (spec/22_program_boot_discovery.md; log 50). -/
def discoveryProgram : List Word :=
  [0x0000F00040CA8000, 0x0000000002075700, 0x00000000020B5701, 0x00000000020BD702, 0x00000000020C5703,
   0x0100000040C08000, 0x0001000040C10000, 0x0000100040618400, 0x0000080040680C00, 0x0000000000C603E0,
   0x0000000000C68400, 0x0000000000C20400, 0x0000000000C28000, 0x0000000002100580, 0x0000000002030701,
   0x00000000013303FF, 0x000003FF40739800, 0x0000000000A4190A, 0x0000000000742001, 0x0000000000529500,
   0x0000000000642001, 0x00000000005488E0, 0x0000000002142400, 0x00000000006213FF, 0x00000000014203F6]
  ++ [0x0000000000B51421, 0x0000000001350022, 0x0000000000C20000, 0x0000000000C58000, 0x0000000000548880,
   0x0000000002042480, 0x000000000058C080, 0x0000000000C50002, 0x000000000134280D, 0x000000000135B00B,
   0x0000000002104400, 0x0000000000592D60, 0x0000000000590E40, 0x0000000002124880, 0x0000000000A99018,
   0x000000000059CDC3, 0x000000000059CD63, 0x0000000002198582, 0x000000000065AC01, 0x0000000001000003,
   0x0000000000C50001, 0x0000000002154400, 0x0000000000621001, 0x00000000014237ED, 0x00000000021B8583]
  ++ [0x0000000000AC6103, 0x00000000020CDB00, 0x00000000021C8584, 0x00000000006B5808, 0x00000000006C63FF,
   0x00000000014C03FC, 0x00000000020C8705, 0x00000000013C83FF, 0x0000000002128586, 0x0000000000000001,
   0x00000800408C9400, 0x00000000021C8586, 0x0000000000000001]

/-- Ranges of the agent's SPM that R403 keeps apart from DST: the program, the workspace, the parameter block, the status array. -/
def discoveryKept : List (Nat × Nat) := [(0, 8 * discoveryProgram.length), (0x7000, wsBytes), (0xF000, 32), (0x10000, 0x400)]

/-- SRC, DST and LEN are within the limits of R403. -/
def placeOk (src dst len : Nat) : Bool :=
  decide (len % 64 = 0) && decide (len ≠ 0) && decide (src % 8 = 0) && decide (src + len ≤ 2 ^ 19) && decide (dst + len ≤ 0x77800)
    && discoveryKept.all fun r => !Machine.meets r.1 r.2 dst len && !Machine.meets r.1 r.2 src len
    && !Machine.meets src len dst len

/-- SRC, DST and LEN: those of the firmware, or those of Table 22.2 where the firmware's are not within the limits (log 50). -/
def discoveryPlace : Word × Word × Word :=
  let (src, dst, len) := Config.discoveryPlace
  if placeOk src.toNat dst.toNat len.toNat then (src, dst, len) else (0x40000, 0x60000, 0x4000)

/-- The discovery program, its parameter block and the code image in the agent's SPM (R399, R403, Table 22.2; log 50). -/
def State.loadDiscovery (s : State) (d : BitVec 2) : State :=
  let (src, dst, len) := discoveryPlace
  let template := BitVec.ofNat 64 (s.hub.boot.pkgId.toNat * 2 ^ 12 + d.toNat * 2 ^ 10)
  let m := s.mem.writeWords (s.ownAddr 0) discoveryProgram
  let m := m.writeWords (s.ownAddr 0xF000) [template, src, dst, len]
  s.setMem (m.writeBytes (s.ownAddr src.toNat) ((List.range len.toNat).map Config.discoveryImage))

/-- Move the bytes of a tile to another coordinate (log 13). -/
def moveTile (m : Memory) (old new : BitVec 24) : Memory :=
  if old = new then m
  else ((m.clear (coordBase old) (2 ^ 27)).clear (coordBase new) (2 ^ 27)).lay (coordBase new) (m.slice (coordBase old) (2 ^ 27))

/-- The executing tile gets COORD, or is one without a name so far, and its memory goes with it (R389). -/
def State.rename (s : State) (unnamed : Bool) (co : BitVec 24) : State :=
  let t := (s.setCsr { s.tile.csr with coord := co.setWidth 64 }).setRes { s.tile.res with unnamed := unnamed }
  t.setMem (moveTile s.mem s.own t.own)

/-- The agent of a die: the tile with the lowest physical index whose core is not fused (R388). -/
def Discovery.lowest (c : Discovery) : Option (BitVec 10) :=
  ((List.range 1024).map (BitVec.ofNat 10)).find? fun i => !c.fuses.contains i

/-- DISCOVERY_START (R388, R399): the agent starts in supervisor mode; no other tile of the die issues. -/
def execDiscoveryStart (d : BitVec 2) (agent : BitVec 10) (s : State) : Out :=
  let c := s.disco d
  if c.lowest ≠ some agent then .next s
  else
    let s := s.setDisc d { Discovery.reset with active := true, fuses := c.fuses, since := s.cycle, agent := agent }
    if s.isPhys d agent then
      let s := (s.rename false 0).loadDiscovery d
      let s := s.setRegs { s.tile.regs with g := .replicate 32 0 }
      let s := s.setCsr { s.tile.csr with status := 1, wp := 0x7000, ewp := 0x7000 }
      .next (((s.setFront { Tile.reset.front with started := true }).setWait .idle).setPower { s.tile.power with state := .run, since := s.cycle })
    else if s.tile.csr.pcoord.extractLsb' 10 2 = d then .next ((s.rename true 0).setFront { s.tile.front with started := false })
    else .next s

/-- The reply dword of the agent itself (R388). -/
def agentReply (agent : BitVec 10) : BitVec 21 :=
  BitVec.ofNat 21 (agent.toNat + Config.shadowG.toNat * 2 ^ 11 + Config.shadowV.toNat * 2 ^ 16)

/-- DFAWN: the first write injects the fawn packet, and the agent contributes its own reply. -/
def State.dfawn (s : State) (d : BitVec 2) : State :=
  let x := s.disco d
  if x.active && !x.fawned then
    s.setDisc d ({ x with fawned := true, fawnAt := s.cycle, heard := [x.agent] }.accept (agentReply x.agent))
  else s

/-- Two routers of the mesh are neighbours. -/
def neighbours (a b : BitVec 10) : Bool :=
  let ax := a.toNat % 32
  let ay := a.toNat / 32
  let bx := b.toNat % 32
  let by_ := b.toNat / 32
  (decide (ax = bx) && (decide (ay + 1 = by_) || decide (by_ + 1 = ay)))
    || (decide (ay = by_) && (decide (ax + 1 = bx) || decide (bx + 1 = ax)))

/-- FAWN_PACKET (R388): the first one that a router receives from a neighbour is forwarded; repeats are dropped. -/
def execFawnPacket (d : BitVec 2) (x y : BitVec 5) (s : State) : Out :=
  let r : BitVec 10 := y ++ x
  let c := s.disco d
  if c.active && c.fawned && !c.heard.contains r && c.heard.any (neighbours r) then
    .next (s.setDisc d { c with heard := c.heard ++ [r] })
  else .next s

/-- 1 ms of 2,400,000 CYCLE ticks has passed since the injection (R388). -/
def Discovery.replyOver (c : Discovery) (now : Word) : Bool := c.fawned && decide (2400000 ≤ (now - c.fawnAt).toNat)

/-- FAWN_REPLY (R388, R401): a router that has heard the packet replies exactly once, with FUSED as its tile's fuse has it; a reply
counts within 1 ms of the injection. -/
def execFawnReply (d : BitVec 2) (reply : BitVec 21) (s : State) : Out :=
  let c := s.disco d
  let r : BitVec 10 := reply.setWidth 10
  if c.active && c.heard.contains r && !c.replied.contains r && reply.getLsbD 10 == c.fuses.contains r && !c.replyOver s.cycle then .next (s.setDisc d (c.accept reply)) else .next s

/-- DREPLY: a read pops the oldest held reply; one that waits in the mesh takes the room (R401). -/
def State.dreply (s : State) (d : BitVec 2) : State × Word :=
  let c := s.disco d
  match c.queue with
  | [] => (s, 0)
  | r :: rest =>
    let c := match c.mesh with
      | [] => { c with queue := rest }
      | m :: ms => { c with queue := rest ++ [m], mesh := ms }
    (s.setDisc d c, ((1 : Word) <<< 63) ||| r.setWidth 64)

/-- DCOORD: COORD of the tile is written, and it becomes a logical tile of the multicast (R402). One that is named after a packet never
acknowledges that packet, so that DONE stays 0 (Table 22.1). -/
def State.dcoord (s : State) (d : BitVec 2) (value : Word) : State :=
  let c := s.disco d
  if !c.active then s
  else
    let idx : BitVec 10 := value.extractLsb' 24 10
    let co : BitVec 24 := value.setWidth 24
    let s := s.setDisc d { c with
      coords := (c.coords.filter fun p => p.1 != idx) ++ [(idx, co)]
      discarded := c.discarded || (!c.packets.isEmpty && !c.coords.any fun p => p.1 == idx) }
    if s.isPhys d idx then s.rename false co else s

/-- DMOFF: the offset of the next packet; a partial packet is discarded. -/
def State.dmoff (s : State) (d : BitVec 2) (value : Word) : State :=
  let c := s.disco d
  if c.active then s.setDisc d { c with dmoff := (value.setWidth 19 >>> 6) <<< 6, partial_ := [] } else s

/-- DMDATA: the eighth dword sends the packet, and OFF advances (R402). -/
def State.dmdata (s : State) (d : BitVec 2) (value : Word) : State :=
  let c := s.disco d
  if !c.active then s
  else
    let words := c.partial_ ++ [value]
    if words.length < 8 then s.setDisc d { c with partial_ := words }
    else
      let row : Row := BitVec.ofNat 512 (joinWords words)
      let c' := { c with partial_ := [], dmoff := c.dmoff + 64 }
      if 0x777FF < c.dmoff.toNat + 63 then s.setDisc d { c' with discarded := true }
      else s.setDisc d { c' with sentAny := true, packets := c.packets ++ [(c.dmoff, row, c.coords.map fun p => p.1)] }
where
  /-- Dwords in write order, little-endian. -/
  joinWords : List Word → Nat
    | [] => 0
    | w :: r => w.toNat + 2 ^ 64 * joinWords r

/-- DMDONE: a packet has been sent, and every one sent has been acknowledged by every logical tile. -/
def State.dmdone (s : State) (d : BitVec 2) : Bool :=
  let c := s.disco d
  c.sentAny && !c.discarded && c.packets.all fun p => p.2.2.isEmpty

/-- Take a tile off the list of the oldest packet that it has not stored. -/
def takePacket (idx : BitVec 10) :
    List (BitVec 19 × Row × List (BitVec 10)) → Option (BitVec 19 × Row) × List (BitVec 19 × Row × List (BitVec 10))
  | [] => (none, [])
  | (o, r, l) :: rest =>
    if l.contains idx then (some (o, r), (o, r, l.filter fun i => i != idx) :: rest)
    else
      let (p, rest) := takePacket idx rest
      (p, (o, r, l) :: rest)

/-- MULTICAST_PACKET (R391, R402): a logical tile stores its next packet as one group, and acknowledges it. -/
def execMulticastPacket (d : BitVec 2) (idx : BitVec 10) (s : State) : Out :=
  let c := s.disco d
  match takePacket idx c.packets, c.coords.find? fun p => p.1 == idx with
  | (some (off, row), packets), some (_, co) =>
    let s := s.setDisc d { c with packets := packets }
    .next (s.writeHome (coordBase co + off.toNat) 64 row.toNat 7 0)
  | _, _ => .next s

/-- The reply limits of R388 are met: 1,024 distinct replies, at most 32 of them with FUSED. -/
def Discovery.limitsMet (c : Discovery) : Bool := decide (c.replied.length = 1024) && decide (c.fusedSeen ≤ 32)

/-- The reply limits of R388 are not met 1 ms after the injection, or 10 ms have passed from the start (2,400,000 CYCLE ticks to the
millisecond). -/
def Discovery.late (c : Discovery) (now : Word) : Bool :=
  (!c.limitsMet && c.replyOver now) || decide (24000000 ≤ (now - c.since).toNat)

/-- DDONE: ends discovery with F, or fails the start (R399, Table 21.7). -/
def State.ddone (s : State) (d : BitVec 2) (value : Word) : State :=
  let c := s.disco d
  if !c.active then s
  else
    let ok := !value.getLsbD 11 && c.limitsMet && !c.late s.cycle
    let s := s.setDisc d { c with active := false, fused := value.setWidth 11, failed := !ok, done := ok }
    if ok then s else s.failStart 0x07

/-- DFAWN. -/
def execDfawn (d : BitVec 2) (s : State) : Out := .next (s.dfawn d)
/-- DREPLY. -/
def execDreply (d : BitVec 2) (s : State) : Out := .next (s.dreply d).1
/-- DCOORD. -/
def execDcoord (d : BitVec 2) (value : Word) (s : State) : Out := .next (s.dcoord d value)
/-- DMOFF. -/
def execDmoff (d : BitVec 2) (value : Word) (s : State) : Out := .next (s.dmoff d value)
/-- DMDATA. -/
def execDmdata (d : BitVec 2) (value : Word) (s : State) : Out := .next (s.dmdata d value)
/-- DDONE. -/
def execDdone (d : BitVec 2) (value : Word) (s : State) : Out := .next (s.ddone d value)

/-- Discovery of a die has failed: it is late, or its agent has halted before DDONE; another tile's halt is what the event
reports. -/
def State.discoveryOver (s : State) (d : BitVec 2) : Bool :=
  let c := s.disco d
  c.active && (c.late s.cycle || !s.isPhys d c.agent || s.tile.front.ast == .halted)

/-- DISCOVERY_TIMEOUT (R388, R399): replies missing after 1 ms, no DDONE after 10 ms, or the agent halted. -/
def execDiscoveryTimeout (d : BitVec 2) (s : State) : Out :=
  let c := s.disco d
  .next (if s.discoveryOver d then (s.setDisc d { c with active := false, failed := true }).failStart 0x07 else s)

/-! ### The window (Table 22.1) -/

/-- The executing tile's die. -/
def State.ownDie (s : State) : BitVec 2 := s.tile.csr.pcoord.extractLsb' 10 2

/-- The map range of the window. -/
def inMap (off : Nat) : Bool := decide (0x1001000 ≤ off)

/-- Only aligned dwords are accepted outside the map range (R400). -/
def windowAligned (off n : Nat) : Bool := inMap off || (decide (n = 8) && decide (off % 8 = 0))

/-- A read of the window. -/
def State.windowRead (s : State) (off : Nat) : State × Word :=
  let d := s.ownDie
  match off - 0x1000000 with
  | 0x08 => s.dreply d
  | 0x18 => (s, (s.disco d).dmoff.setWidth 64)
  | 0x28 => (s, if s.dmdone d then 1 else 0)
  | _ => (s, 0)

/-- A write of `n` bytes of the window. -/
def State.windowWrite (s : State) (off n : Nat) (v : Word) : State :=
  let d := s.ownDie
  if inMap off then
    let c := s.disco d
    s.setDisc d { c with lmap := c.lmap.writeNat (off - 0x1001000) n v.toNat }
  else match off - 0x1000000 with
    | 0x00 => s.dfawn d
    | 0x10 => s.dcoord d v
    | 0x18 => s.dmoff d v
    | 0x20 => s.dmdata d v
    | 0x30 => s.ddone d v
    | _ => s

end Sys2Proof.Machine
end

