-- ==== Sys2Proof/Machine/Access.lean ====
section
/-!
DEFINITION. Address operations, scalar loads and stores, and atomics (R87, R88, R103 to R106, R176, R177, R180).
-/

namespace Sys2Proof.Machine

/-! ### Address operations (Table 4.5) -/

/-- The ADDR group: no check of Table 4.1, no access. -/
def addrOp (gd : Guard) (s : State) (effect : State → Out) : Out := cWord 0 gd s effect

/-- COORD. -/
def execCoord (gd : Guard) (d a : BitVec 5) (s : State) : Out :=
  addrOp gd s fun s =>
    let x := s.g a
    if 2 ^ 27 ≤ x.toNat then s.trap false Cause.accessFault x else s.finishG d (s.ownPtr x.toNat)

/-- MKADDR: ga in the layout of COORD, with bit 24 asking for the relative form. -/
def execMkaddr (gd : Guard) (d a b : BitVec 5) (s : State) : Out :=
  addrOp gd s fun s =>
    let x := s.g a
    let y := s.g b
    if 2 ^ 25 ≤ x.toNat then s.trap false Cause.accessFault x -- ga first: log 52
    else if 2 ^ 27 ≤ y.toNat then s.trap false Cause.accessFault y
    else s.finishG d ((x <<< 30) ||| y)

/-- ADDP (R89). -/
def execAddp (gd : Guard) (d a : BitVec 5) (b : Imm 5) (s : State) : Out :=
  addrOp gd s fun s => let x := s.g a; let y := match b with
                                     | .fld r => s.g r
                                     | .lone v => v.signExtend 64
                       s.finishG d (ptrAdd x y)

/-- The BLG that belongs to a format code (R108, Table 4.5): none for a reserved code. -/
def blgOf (code : BitVec 5) : Option (BitVec 3) :=
  match formatOf code with
  | some f => some (if f.isBlock then 5 else 0)
  | none => none

/-- FMTSET. -/
def execFmtset (gd : Guard) (d a : BitVec 5) (b : Imm 5) (s : State) : Out :=
  addrOp gd s fun s =>
    let x := s.g a
    let code : Word := match b with
      | .fld r => s.g r
      | .lone v => v.setWidth 64
    if 32 ≤ code.toNat then s.trapBundle Cause.illegalInstr
    else match blgOf (code.setWidth 5) with
      | none => s.trap false Cause.format code
      | some blg =>
        if ptrPoisoned x then s.trap false Cause.accessFault x
        else s.finishG d ((x &&& 0x00FFFFFFFFFFFFFF) ||| (code <<< 59) ||| (blg.setWidth 64 <<< 56))

/-- A mesh pointer with REL = 1 that R104 resolves. -/
def relMesh (x : Word) : Bool := !ptrVirtual x && ptrRel x && ptrFmt x != 0x1E

/-- ABSADDR (R104). -/
def execAbsaddr (gd : Guard) (d a : BitVec 5) (s : State) : Out :=
  addrOp gd s fun s =>
    let x := s.g a
    if relMesh x then
      match resolveCoord s.own (ptrCoord x) with
      | some c => s.finishG d ((x &&& 0xFF8000003FFFFFFF) &&& ~~~((1 : Word) <<< 54) ||| (c.setWidth 64 <<< 30))
      | none => s.trap false Cause.accessFault x
    else s.finishG d x

/-! ### The transactional set (R180) -/

/-- End the transaction for a reason of the instruction's own; the instruction has no effect (R181, R182, log 10). -/
def State.abortTx (s : State) (cause detail : BitVec 8) : Out :=
  if s.caughtUp then .next (s.txAbort cause detail) else .next (s.stall .resource)

/-- The set with a line; none when it would be the 17th. -/
def Tx.touch (t : Tx) (line : Nat) (store : Bool) : Option Tx :=
  if t.lines.any fun l => l.line == line then
    some { t with lines := t.lines.map fun l => if l.line = line then { l with stored := l.stored || store } else l }
  else if t.lines.length < 16 then
    some { t with lines := t.lines ++ [{ line := line, stored := store, confirmed := false }] }
  else none

/-- Take an access into the transactional set, if one is open and the access lies outside SPM. The first access to a line
reserves it at its home: the L1 gives up its copy, so that what the transaction loads is what stands there (R180, R233). -/
def withLine (s : State) (a : Nat) (store : Bool) (k : State → Out) : Out :=
  match s.tile.path.tx with
  | none => k s
  | some t =>
    if addrSpm a then k s
    else match t.touch (lineOf a) store with
      | some u =>
        let s := if t.lines.any fun l => l.line == lineOf a then s else s.evictLine a
        k (s.setPath { s.tile.path with tx := some u })
      | none => s.abortTx 2 0

/-- A held byte of an open transaction. -/
def heldByte (m : Memory) (a : Nat) : Option Byte :=
  match m.find? fun c => c.1 == a with
  | some c => some c.2
  | none => none

/-- The `n` bytes of a value with a transaction's own held stores laid over them. -/
def overlay (m : Memory) (a : Nat) : Nat → Nat → Nat
  | 0, _ => 0
  | n + 1, v => (match heldByte m a with
    | some b => b.toNat
    | none => v % 256) + 256 * overlay m (a + 1) n (v / 256)

/-- Hold `n` bytes of a store until commit. -/
def holdStore (m : Memory) (a : Nat) : Nat → Nat → Memory
  | 0, _ => m
  | n + 1, v => holdStore (m.put a (BitVec.ofNat 8 v)) (a + 1) n (v / 256)

/-- A transaction holds a store of `n` bytes, made through a translation, if any (R180, R290). -/
def Tx.hold (t : Tx) (a n v : Nat) (leaf : Option TEntry) : Tx :=
  { t with stores := holdStore t.stores a n v, used := leaf.toList ++ t.used.filter fun x => some x != leaf }

/-- The stores an open transaction holds. -/
def State.heldStores (s : State) : Memory :=
  match s.tile.path.tx with
  | some t => t.stores
  | none => []

/-! ### One access -/

/-- The bytes are valid in the L1. -/
def State.l1Holds (s : State) (a n : Nat) : Bool :=
  match s.findLine a with
  | some l => l.valid &&& byteMask (a - lineOf a) n == byteMask (a - lineOf a) n
  | none => false

/-- The access goes to another tile or package, which has to answer (R88, R176). -/
def State.needsAnswer (s : State) (a n : Nat) (atomic : Bool) : Bool :=
  decide (a < hostBase) && addrCoord a != s.own && (atomic || addrSpm a || !s.l1Holds a n)

/-- Wait for a remote answer, then go on; a rejected access traps ACCESS_FAULT (R88, R383). A BARJ that polls stays ASLEEP
(R201). -/
def answered (s : State) (ptr : Word) (a n : Nat) (k : State → Out) : Out :=
  match s.tile.wait with
  | .answered => k (s.setWait .idle)
  | .rejected => (s.setWait .idle).trap false Cause.accessFault ptr
  | .remote => .next s.stallHere
  | _ => .next ((s.sendAccess a n false).setWait .remote).stallHere

/-- A load of `n` bytes by the access half (R105, R106, Table 4.1). -/
def loadAt (s : State) (ptr : Word) (n : Nat) (k : State → Nat → Out) : Out :=
  match s.resolve true .load ptr n n with
  | .trap c v => s.trap false c v
  | .walk => s.wantWalk ptr
  | .blocked => .next (s.stall .resource)
  | .window off =>
    if windowAligned off n then
      let (s, v) := s.windowRead off
      k s (v.toNat % 2 ^ (8 * n))
    else s.trap false Cause.misaligned ptr
  | .mem a leaf =>
    withLine s a false fun s =>
      let perform (s : State) : Out :=
        match s.readPlace a n with
        | (s, some v) => k (s.count leaf) (if addrSpm a then v else overlay s.heldStores a n v)
        | (s, none) => s.trap false Cause.softError ptr
      if s.needsAnswer a n false then answered s ptr a n perform else perform s

/-- A store of the access half (R105, R106, R180, R279, R298). -/
def storeAt (s : State) (ptr : Word) (size : AccessSize) (v : Word) (k : State → Out) : Out :=
  let n := sizeBytes size
  match s.resolve true .store ptr n n with
  | .trap c v => s.trap false c v
  | .walk => s.wantWalk ptr
  | .blocked => .next (s.stall .resource)
  | .window off =>
    if windowAligned off n then
      let s := s.windowWrite off n v
      if s.tile.front.started then k s else .next s
    else s.trap false Cause.misaligned ptr
  | .mem a leaf =>
    if addrSpm a && inStaging (addrOff a) then k (s.count leaf)
    else withLine s a true fun s =>
      if s.storeBad a n then s.trap false Cause.softError ptr
      else match (if addrSpm a then none else s.tile.path.tx) with
        | some t => k ((s.setPath { s.tile.path with tx := some (t.hold a n v.toNat leaf) }).count leaf)
        | none => k ((s.writePlace ptr a size v).count leaf)

/-- LD sizes (Table 4.6). -/
def loadSize (z : BitVec 3) : AccessSize :=
  match z.toNat with
  | 0 | 1 => .b1
  | 2 | 3 => .b2
  | 4 | 5 => .b4
  | _ => .b8

/-- ST sizes (Table 4.6). -/
def storeSize (z : BitVec 3) : AccessSize :=
  match z.toNat with
  | 0 => .b1
  | 1 => .b2
  | 2 => .b4
  | _ => .b8

/-- Sign-extend a value of `w` bits. -/
def signFrom (w v : Nat) : Word := BitVec.ofInt 64 (intOf w v)

/-- The result of a load (Table 4.6): sign-extended for even codes. -/
def loadResult (z : BitVec 3) (v : Nat) : Word :=
  if z.getLsbD 0 then BitVec.ofNat 64 v else signFrom (8 * sizeBytes (loadSize z)) v

/-- The pointer of LD and ST (R105): the field counts accesses, the literal bytes. -/
def State.memPtr (s : State) (a : BitVec 5) (size : AccessSize) (i : Imm 7) : Word :=
  let off := match i with
    | .fld v => v.signExtend 64 * BitVec.ofNat 64 (sizeBytes size)
    | .lone v => v.signExtend 64
  ptrAdd (s.g a) off

/-- LD (R105). -/
def execLd (gd : Guard) (d a : BitVec 5) (z : BitVec 3) (i : Imm 7) (s : State) : Out :=
  cWord 2 gd s fun s =>
    loadAt s (s.memPtr a (loadSize z) i) (sizeBytes (loadSize z)) fun s v => s.finishG d (loadResult z v)

/-- ST (R105). -/
def execSt (gd : Guard) (r a : BitVec 5) (z : BitVec 3) (i : Imm 7) (s : State) : Out :=
  cWord 2 gd s fun s => storeAt s (s.memPtr a (storeSize z) i) (storeSize z) (s.g r) fun s => .next s.retire

/-! ### Atomics (R176, R177) -/

/-- Table 7.3 on `w`-bit values; none where ACAS makes no store. -/
def atomicNew (op : BitVec 3) (w old b cmp : Nat) : Option Nat :=
  match op.toNat with
  | 0 => some ((old + b) % 2 ^ w)
  | 1 => some (if intOf w b < intOf w old then b else old)
  | 2 => some (if intOf w old < intOf w b then b else old)
  | 3 => some (old &&& b)
  | 4 => some (old ||| b)
  | 5 => some (old ^^^ b)
  | 6 => some b
  | _ => if old = cmp then some b else none

/-- The operations that a host target carries (R177). -/
def hostAtomic (op : BitVec 3) : Bool := op.toNat == 0 || op.toNat == 6 || op.toNat == 7

/-- Read `n` bytes at the point of coherence for an atomic; none for an uncorrectable error. -/
def State.readHome (s : State) (a n : Nat) : State × Option Nat :=
  if decide (hostBase ≤ a) || addrSpm a then s.readPlace a n
  else
    let s := (s.evictLine a).homeRead a n
    (s, if (s.firstBad a n).isSome then none else some (s.mem.readNat a n))

/-- Perform a read-modify-write at a target that has been checked. -/
def atomicHome (s : State) (ptr : Word) (a n : Nat) (leaf : Option TEntry) (new : Nat → Option Nat)
    (k : State → Nat → Out) : Out :=
  if s.tile.path.tx.isSome && !addrSpm a then
    match s.readPlace a n, s.tile.path.tx with
    | (s, some v), some t =>
      let old := overlay t.stores a n v
      let s := match new old with
        | some x => s.setPath { s.tile.path with tx := some (t.hold a n x leaf) }
        | none => s
      k (s.count leaf) old
    | (s, _), _ => s.trap false Cause.softError ptr
  else match s.readHome a n with
    | (s, some old) =>
      let s := match new old with
        | some x => if addrSpm a && inStaging (addrOff a) then s else s.writeHome a n x s.tile.path.rlv s.own
        | none => s
      k (s.count leaf) old
    | (s, none) => s.trap false Cause.softError ptr

/-- One indivisible read-modify-write of `n` bytes at a pointer of an alignment; `host` says that a host target
carries it. -/
def atomicAt (s : State) (ptr : Word) (align n : Nat) (host : Bool) (new : Nat → Option Nat) (k : State → Nat → Out) : Out :=
  match s.resolve true .atomic ptr align n with
  | .trap c v => s.trap false c v
  | .walk => s.wantWalk ptr
  | .blocked => .next s.stallHere
  | .window off =>
    if n = 8 then
      let (s, v) := s.windowRead off
      let s := match new v.toNat with
        | some x => s.windowWrite off n (BitVec.ofNat 64 x)
        | none => s
      if s.tile.front.started then k s v.toNat else .next s
    else s.trap false Cause.misaligned ptr
  | .mem a leaf =>
    if hostBase ≤ a ∧ !host then s.trap false Cause.accessFault ptr
    else withLine s a true fun s =>
      if s.needsAnswer a n true then answered s ptr a n fun s => atomicHome s ptr a n leaf new k
      else atomicHome s ptr a n leaf new k

/-- The ATOM group (R176). -/
def atom (gd : Guard) (op : BitVec 3) (d a b : BitVec 5) (w : BitVec 1) (s : State) : Out :=
  cWord 2 gd s fun s =>
    let n := if w = 1 then 4 else 8
    let x := (s.g b).toNat % 2 ^ (8 * n)
    let cmp := (s.g d).toNat % 2 ^ (8 * n)
    atomicAt s (s.g a) n n (hostAtomic op) (fun old => atomicNew op (8 * n) old x cmp) fun s old =>
      s.finishG d (signFrom (8 * n) old)

/-- AADD. -/
def execAadd (gd : Guard) (d a b : BitVec 5) (w : BitVec 1) (s : State) : Out := atom gd 0 d a b w s
/-- AMIN. -/
def execAmin (gd : Guard) (d a b : BitVec 5) (w : BitVec 1) (s : State) : Out := atom gd 1 d a b w s
/-- AMAX. -/
def execAmax (gd : Guard) (d a b : BitVec 5) (w : BitVec 1) (s : State) : Out := atom gd 2 d a b w s
/-- AAND. -/
def execAand (gd : Guard) (d a b : BitVec 5) (w : BitVec 1) (s : State) : Out := atom gd 3 d a b w s
/-- AOR. -/
def execAor (gd : Guard) (d a b : BitVec 5) (w : BitVec 1) (s : State) : Out := atom gd 4 d a b w s
/-- AXOR. -/
def execAxor (gd : Guard) (d a b : BitVec 5) (w : BitVec 1) (s : State) : Out := atom gd 5 d a b w s
/-- ASWP. -/
def execAswp (gd : Guard) (d a b : BitVec 5) (w : BitVec 1) (s : State) : Out := atom gd 6 d a b w s
/-- ACAS. -/
def execAcas (gd : Guard) (d a b : BitVec 5) (w : BitVec 1) (s : State) : Out := atom gd 7 d a b w s

end Sys2Proof.Machine
end

