-- ==== Sys2Proof/Machine/Queue.lean ====
section
/-!
DEFINITION. Queued loads and stores and the port group (R107 to R115): checking and queueing at issue, the rows
that engine 0 moves, and the rows that fail.
-/

namespace Sys2Proof.Machine

/-- An instruction that a transaction does not admit aborts it with cause 4 (R181). -/
def noTx (s : State) (k : State → Out) : Out := if s.txact then s.abortTx 4 0 else k s

/-! ### Row decoding (Table 4.7) -/

/-- Records of a delivered row. -/
def rowRecords (f : Format) : Nat := if f.bits = 4 then 4 else 2

/-- Scale bytes of a record. -/
def scaleBytes (f : Format) : Nat :=
  match f with
  | .tb8 | .tb4 => 2
  | _ => 1

/-- Row alignment. -/
def rowAlign (f : Format) : Nat := if f.isBlock then 4 else 64

/-- Default stride. -/
def rowStride (f : Format) : Nat := if f.isBlock then rowRecords f * f.recordBytes else 64

/-- The pieces of four bytes, and the scale bytes, of a record at an offset. -/
def recordPieces (f : Format) (off : Nat) : List (Nat × Nat) :=
  ((List.range f.bits).map fun i => (off + 4 * i, 4)) ++ [(off + 4 * f.bits, scaleBytes f)]

/-- The bytes that a row of LDQ reads, as offset and length; padding is not read. -/
def loadPieces (f : Format) : List (Nat × Nat) :=
  if f.isBlock then (List.range (rowRecords f)).flatMap fun n => recordPieces f (n * f.recordBytes) else [(0, 64)]

/-- The bytes that a row of STQ writes. -/
def storePieces (f : Format) : List (Nat × Nat) :=
  if f.isBlock then (List.range 16).map fun i => (4 * i, 4) else [(0, 64)]

/-- The element bytes of a record as they stand in the row. -/
def rowBytes (f : Format) (elems : Nat) : Nat := if f.bits = 4 then elems else joinNat 8 (splitNat f.bits elems 32)

/-- The row and side band of block records, each given as its elements and its scale bytes. -/
def blockRow (f : Format) (recs : List (Nat × Nat)) : PortEntry :=
  { row := BitVec.ofNat 512 (joinNat (if f.bits = 4 then 128 else 256) (recs.map fun r => rowBytes f r.1))
    side := BitVec.ofNat 128 (joinNat (8 * scaleBytes f) (recs.map Prod.snd)) }

/-- Gather the values of the pieces of one record. -/
def gatherRecord (k : Nat) (vs : List Nat) : Nat × Nat := (joinNat 32 (vs.take k), vs.getD k 0)

/-- The records among the values of a row's pieces. -/
def gatherRow (k : Nat) : Nat → List Nat → List (Nat × Nat)
  | 0, _ => []
  | n + 1, vs => gatherRecord k vs :: gatherRow k n (vs.drop (k + 1))

/-- The entry that a row's pieces make. -/
def rowEntry (f : Format) (vs : List Nat) : PortEntry :=
  if f.isBlock then blockRow f (gatherRow f.bits (rowRecords f) vs)
  else { row := BitVec.ofNat 512 (vs.getD 0 0), side := 0 }

/-! ### The checks at issue (R108) -/

/-- What the checks of an instruction's bytes find. -/
inductive Checked where
  | ok (used : List TEntry)
  | trap (cause : BitVec 8) (value : Word)
  | walk (ptr : Word)
  deriving DecidableEq, Repr

/-- Add a translation to those that a command holds. -/
def addHeld (used : List TEntry) (leaf : Option TEntry) : List TEntry :=
  match leaf with
  | some t => if used.contains t then used else used ++ [t]
  | none => used

/-- Checks 1 to 9 on the pieces of one row; a write-blocked page passes and is not held (R111, R289). -/
def State.checkRow (s : State) (acc : Acc) (align : Nat) (row : Word) : List (Nat × Nat) → List TEntry → Checked
  | [], used => .ok used
  | (off, n) :: r, used =>
    let p := ptrAdd row (BitVec.ofNat 64 off)
    match s.resolve false acc p align n with
    | .mem _ leaf => s.checkRow acc align row r (addHeld used leaf)
    | .blocked => s.checkRow acc align row r used
    | .trap c _ => .trap c row
    | .window _ => .trap Cause.misaligned row
    | .walk => .walk p

/-- Checks on every row, in ascending order. -/
def State.checkRows (s : State) (acc : Acc) (align : Nat) (pieces : List (Nat × Nat)) (base stride : Word) :
    List Nat → List TEntry → Checked
  | [], used => .ok used
  | i :: r, used =>
    match s.checkRow acc align (ptrAdd base (BitVec.ofNat 64 i * stride)) pieces used with
    | .ok used => s.checkRows acc align pieces base stride r used
    | c => c

/-- Go on with the translations that checks used, trap, or wait for a walk. -/
def checkedThen (s : State) (c : Checked) (k : List TEntry → Out) : Out :=
  match c with
  | .ok used => k used
  | .trap cause v => s.trap false cause v
  | .walk p => s.wantWalk p

/-- EVAL of a PORT_UNBOUND trap of the access half (R22, R113). -/
def portEval (x : BitVec 5) : Word := x.setWidth 64 + 0x100

/-- The binding of a port as the access half sees it. -/
def State.accKind (s : State) (i : Fin 12) : BitVec 4 := (s.tile.ports.acc.get i).kind

/-- Queue a command in engine 0's FIFO of eight (R109). -/
def State.pushCmd (s : State) (c : Cmd) : State := s.setEng { s.tile.eng with fifo0 := s.tile.eng.fifo0 ++ [c] }

/-- The command FIFO of engine 0 is full. -/
def State.fifo0Full (s : State) : Bool := decide (8 ≤ s.tile.eng.fifo0.length)

/-- LDQ and STQ at issue (R107 to R109). -/
def queueRows (gd : Guard) (acc : Acc) (kind : BitVec 4) (port : Fin 12) (x : BitVec 5) (rows : BitVec 7) (a b : BitVec 5)
    (s : State) (cmd : Word → Word → List TEntry → Cmd) : Out :=
  cWord 2 gd s fun s => noTx s fun s =>
    let base := s.g a
    let fmt := ptrFmt base
    if s.fifo0Full then .next (s.stall .resource)
    else if s.accKind port ≠ kind then s.trap false Cause.portUnbound (portEval x)
    else match formatOf fmt with
      | none => s.trap false Cause.format (fmt.setWidth 64)
      | some f =>
        if blgOf fmt ≠ some (ptrBlg base) then s.trap false Cause.format (fmt.setWidth 64 + 0x100)
        else
          let stride : Word := if b = 0 then BitVec.ofNat 64 (rowStride f) else s.g b
          if stride.toNat % rowAlign f ≠ 0 then s.trap false Cause.misaligned stride
          else
            let pieces := if acc = .load then loadPieces f else storePieces f
            checkedThen s (s.checkRows acc (rowAlign f) pieces base stride (List.range (rows.toNat + 1)) []) fun used =>
              .next (s.pushCmd (cmd base stride used)).retire

/-- Index of in port `k` among the binding words. -/
def inIndex (k : BitVec 3) : Fin 12 := ⟨k.toNat, by omega⟩
/-- Index of out port `k` among the binding words. -/
def outIndex (k : BitVec 2) : Fin 12 := ⟨8 + k.toNat, by omega⟩
/-- Operand value of in port `k`. -/
def inOperand (k : BitVec 3) : BitVec 5 := 16 + k.setWidth 5
/-- Operand value of out port `k`. -/
def outOperand (k : BitVec 2) : BitVec 5 := 24 + k.setWidth 5

/-- LDQ (R107). -/
def execLdq (gd : Guard) (k : BitVec 3) (r : BitVec 7) (a b : BitVec 5) (s : State) : Out :=
  queueRows gd .load 1 (inIndex k) (inOperand k) r a b s fun base stride used => .ldq k base stride (r.toNat + 1) used

/-- STQ (R107); a port field above 3 does not decode. -/
def execStq (gd : Guard) (k : BitVec 3) (r : BitVec 7) (a b : BitVec 5) (s : State) : Out :=
  let k : BitVec 2 := k.setWidth 2
  queueRows gd .store 2 (outIndex k) (outOperand k) r a b s fun base stride used => .stq k base stride (r.toNat + 1) used

/-! ### The rows -/

/-- Where an engine's access goes when it is made. -/
inductive Reach where
  | mem (addr : Nat) (leaf : Option TEntry)
  | blocked
  | bad
  deriving DecidableEq, Repr

/-- The translation of an engine's access: one that its command holds, a cached one, or a walk (R108, R289). A stalled access
has used no translation: one that is write-blocked serves a store only while the tile caches it. -/
def State.engineEntry (s : State) (acc : Acc) (held : List TEntry) (va : Nat) : Option TEntry :=
  match held.find? fun t => t.serves s.tile.res.ctxid va && !(acc.writes && t.leaf.getLsbD 5) with
  | some t => some t
  | none => match s.cached va with
    | some t => some t
    | none => s.walkTables s.tile.res.ctxid s.tile.res.root va

/-- Check 9, and check 7 in the compute phase, when an engine makes an access (R17, R87). -/
def State.reachTarget (s : State) (a n : Nat) (leaf : Option TEntry) : Reach :=
  if s.touchesActive false a n || (s.det && s.cph && !s.isLocal a) then .bad else .mem a leaf

/-- The place of `n` bytes that an engine reads or writes for a command that passed its checks. -/
def State.reach (s : State) (held : List TEntry) (acc : Acc) (ptr : Word) (n : Nat) : Reach :=
  if !ptrFormOk ptr then .bad
  else if ptrVirtual ptr then
    match s.engineEntry acc held (ptrVa ptr) with
    | none => .bad
    | some t =>
      if !s.permits acc t (ptrVa ptr) n then .bad
      else if acc.writes && t.leaf.getLsbD 5 then .blocked
      else s.reachTarget (t.target (ptrVa ptr)) n (some t)
  else
    let c := if s.isAgent then some s.own else if ptrRel ptr then resolveCoord s.own (ptrCoord ptr) else some (ptrCoord ptr)
    match c with
    | some c =>
      if s.meshOk c (ptrOff ptr) n then s.reachTarget (coordBase c + ptrOff ptr) n none else .bad
    | none => .bad

/-- An engine's access that finds no translation at hand is walked for: the walkers read the entries at their homes (R227,
R288). -/
def State.engineWalk (s : State) (acc : Acc) (held : List TEntry) (p : Word) : State :=
  let have_ := (held.any fun t => t.serves s.tile.res.ctxid (ptrVa p) && !(acc.writes && t.leaf.getLsbD 5)) || (s.cached (ptrVa p)).isSome
  if !ptrVirtual p || have_ then s else s.walkReads s.own s.tile.res.root (ptrVa p)

/-- Read the pieces of a row; a cause where it cannot be delivered (R111). -/
def State.readPieces (s : State) (held : List TEntry) (row : Word) :
    List (Nat × Nat) → State × Except (BitVec 8) (List Nat)
  | [] => (s, .ok [])
  | (off, n) :: r =>
    let p := ptrAdd row (BitVec.ofNat 64 off)
    match s.reach held .load p n with
    | .mem a _ =>
      match (((s.engineWalk .load held p).sendAccess a n false).txHits a n true).readPlace a n with
      | (s, none) => (s, .error Cause.softError)
      | (s, some v) =>
        match State.readPieces s held row r with
        | (s, .ok vs) => (s, .ok (v :: vs))
        | (s, .error c) => (s, .error c)
    | _ => (s, .error Cause.accessFault)

/-- The leaf of a row's first byte, for access counting (R294). -/
def State.rowLeaf (s : State) (held : List TEntry) (acc : Acc) (row : Word) : Option TEntry :=
  match s.reach held acc row 1 with
  | .mem _ leaf => leaf
  | _ => none

/-- Commands of engine 0 that deliver to an in port. -/
def Cmd.feeds (k : BitVec 3) : Cmd → Bool
  | .ldq p .. => p == k
  | .movx p _ => p == k
  | _ => false

/-- Commands of engine 0 that take from an out port. -/
def Cmd.drains (k : BitVec 2) : Cmd → Bool
  | .stq p .. => p == k
  | _ => false

/-- Replace the first command that satisfies a condition, or remove it. -/
def replaceFirst (p : Cmd → Bool) (c : Option Cmd) : List Cmd → List Cmd
  | [] => []
  | x :: r => if p x then (match c with
                           | some c => c :: r
                           | none => r) else x :: replaceFirst p c r

/-- Push an entry into an in port. -/
def State.pushIn (s : State) (i : Fin 8) (e : PortEntry) : State :=
  (s.setPorts { s.tile.ports with inq := s.tile.ports.inq.set i (s.tile.ports.inq.get i ++ [e]) }).rouse

/-- The command after one row of it. -/
def ldqRest (p : BitVec 3) (next stride : Word) (left : Nat) (held : List TEntry) : Option Cmd :=
  if left ≤ 1 then none else some (.ldq p (ptrAdd next stride) stride (left - 1) held)

/-- The format of a queued transfer's pointer; its checks passed at issue. -/
def rowFormat (p : Word) : Format := (formatOf (ptrFmt p)).getD .raw

/-- LDQ_ROW_DELIVER (R109, R111, R115): the next row of the oldest command of an in port that has room. -/
def execLdqRowDeliver (port : BitVec 3) (s : State) : Out :=
  let i : Fin 8 := port.toFin
  if 8 ≤ (s.tile.ports.inq.get i).length then .next s
  else match s.tile.eng.fifo0.find? (Cmd.feeds port) with
    | some (.movx _ v) =>
      let s := s.setEng { s.tile.eng with fifo0 := replaceFirst (Cmd.feeds port) none s.tile.eng.fifo0 }
      .next (s.pushIn i { row := v.setWidth 512, side := 0 })
    | some (.ldq p next stride left held) =>
      let f := rowFormat next
      let s := s.count (s.rowLeaf held .load next)
      let (s, got) := s.readPieces held next (loadPieces f)
      let e := match got with
        | .ok vs => rowEntry f vs
        | .error c => poisoned c next
      let s := s.setEng { s.tile.eng with
        fifo0 := replaceFirst (Cmd.feeds port) (ldqRest p next stride left held) s.tile.eng.fifo0 }
      .next (s.pushIn i e)
    | _ => .next s

/-- A row that its remote target did not answer, or rejected, is delivered poisoned (R111). -/
def State.failLdqRow (s : State) (port : BitVec 3) : State :=
  let i : Fin 8 := port.toFin
  match s.tile.eng.fifo0.find? (Cmd.feeds port) with
  | some (.ldq p next stride left held) =>
    if 8 ≤ (s.tile.ports.inq.get i).length then s
    else
      let s := s.setEng { s.tile.eng with
        fifo0 := replaceFirst (Cmd.feeds port) (ldqRest p next stride left held) s.tile.eng.fifo0 }
      s.pushIn i (poisoned Cause.accessFault next)
  | _ => s

/-- Hold a failure for the next reporting point (R88). -/
def State.holdFailure (s : State) (cause : BitVec 8) (ptr : Word) : State :=
  s.setPath { s.tile.path with failures := s.tile.path.failures ++ [(cause, ptr)] }

/-- A part of a row: its address, its length, and its offset in the row. -/
structure RowPart where
  addr : Nat
  len  : Nat
  off  : Nat
  deriving DecidableEq, Repr

/-- Join a part to those behind it when they follow it in memory; the staging window's edge parts them (R279). -/
def RowPart.joined (p : RowPart) : List RowPart → List RowPart
  | q :: r =>
    if p.addr + p.len = q.addr ∧ inStaging (addrOff p.addr) = inStaging (addrOff q.addr) then
      { p with len := p.len + q.len } :: r
    else p :: q :: r
  | [] => [p]

/-- The places of a row that STQ writes. -/
def State.rowParts (s : State) (held : List TEntry) (row : Word) : List (Nat × Nat) → List RowPart
  | [] => []
  | (off, n) :: r =>
    match s.reach held .store (ptrAdd row (BitVec.ofNat 64 off)) n with
    | .mem a _ => RowPart.joined { addr := a, len := n, off := off } (s.rowParts held row r)
    | _ => s.rowParts held row r

/-- A part goes to a remote scratchpad or to the host: it is posted. -/
def State.isPosted (s : State) (a : Nat) : Bool := decide (hostBase ≤ a) || (addrSpm a && !s.isLocal a)

/-- The bytes of a part. -/
def RowPart.value (p : RowPart) (v : Nat) : Nat := v / 2 ^ (8 * p.off) % 2 ^ (8 * p.len)

/-- Write one part of an STQ row, as a store through the L1 (R231) of an engine, whose writes carry no release level (R226) and
conflict with a transaction (R180); one in the own staging window is discarded (R279). -/
def State.writePart (s : State) (row : Word) (v : Nat) (p : RowPart) : State :=
  let s := s.txHits p.addr p.len false
  if addrSpm p.addr then
    (if inStaging (addrOff p.addr) then s else s.writeHome p.addr p.len (p.value v) 7 s.own)
  else s.writeSpan p.addr p.len (p.value v) 7 row

/-- Write a row whole: posted as one store when part of it goes to a remote target, so that a rejection leaves it unwritten
(R111). A local part that covers part of an uncorrectable dword fails the row (R298). -/
def State.storeRow (s : State) (row : Word) (v : Nat) (parts : List RowPart) : State :=
  let kept := parts.filter fun p => s.isPosted p.addr || !(addrSpm p.addr && inStaging (addrOff p.addr))
  if kept.any fun p => s.storeBad p.addr p.len then s.holdFailure Cause.softError row
  else if parts.any fun p => s.isPosted p.addr then
    match kept.map fun p => (p.addr, p.len, BitVec.ofNat 512 (p.value v)) with
    | [] => s
    | (a, n, d) :: r => s.setPath { s.tile.path with
        posted := s.tile.path.posted ++ [{ ptr := row, addr := a, len := n, data := d, rlv := 7, more := r, row := true }] }
  else parts.foldl (fun s p => s.writePart row v p) s

/-- The piece of a row that lies in a write-blocked page (R111). -/
def State.rowBlocked (s : State) (held : List TEntry) (row : Word) (pieces : List (Nat × Nat)) : Option (Nat × Nat) :=
  pieces.find? fun x => s.reach held .store (ptrAdd row (BitVec.ofNat 64 x.1)) x.2 == .blocked

/-- A stalled engine's translation stays with the tile until it is removed (R289). -/
def State.keepBlocked (s : State) (held : List TEntry) (p : Word) : State :=
  match s.cached (ptrVa p), s.engineEntry .store held (ptrVa p) with
  | none, some t => s.setPath { s.tile.path with tcache := (t :: s.tile.path.tcache).take 64 }
  | _, _ => s

/-- Some piece of the row cannot be written. -/
def State.rowBad (s : State) (held : List TEntry) (row : Word) (pieces : List (Nat × Nat)) : Bool :=
  pieces.any fun x => s.reach held .store (ptrAdd row (BitVec.ofNat 64 x.1)) x.2 == .bad

/-- Take the oldest row off an out port. -/
def State.popOut (s : State) (i : Fin 4) : State :=
  (s.setPorts { s.tile.ports with outq := s.tile.ports.outq.set i (s.tile.ports.outq.get i).tail }).rouse

/-- The command after one row of it. -/
def stqRest (p : BitVec 2) (next stride : Word) (left : Nat) (held : List TEntry) : Option Cmd :=
  if left ≤ 1 then none else some (.stq p (ptrAdd next stride) stride (left - 1) held)

/-- STQ_ROW_WRITE (R109, R111): the oldest command of an out port pops a row and writes it; `ok` is false when its
remote target does not acknowledge it, and the failure is held. -/
def State.stqRow (s : State) (port : BitVec 2) (ok : Bool) : State :=
  let i : Fin 4 := port.toFin
  match s.tile.eng.fifo0.find? (Cmd.drains port), s.tile.ports.outq.get i with
  | some (.stq p next stride left held), row :: _ =>
    let pieces := storePieces (rowFormat next)
    let s := pieces.foldl (fun s x => s.engineWalk .store held (ptrAdd next (BitVec.ofNat 64 x.1))) s
    match s.rowBlocked held next pieces with
    | some x => s.keepBlocked held (ptrAdd next (BitVec.ofNat 64 x.1))
    | none =>
      let bad := !ok || s.rowBad held next pieces
      let s := s.popOut i
      let s := s.setEng { s.tile.eng with
        fifo0 := replaceFirst (Cmd.drains port) (stqRest p next stride left held) s.tile.eng.fifo0 }
      if bad then s.holdFailure Cause.accessFault next
      else (s.count (s.rowLeaf held .store next)).storeRow next row.toNat (s.rowParts held next pieces)
  | _, _ => s

/-- STQ_ROW_WRITE. -/
def execStqRowWrite (port : BitVec 2) (s : State) : Out := .next (s.stqRow port true)

/-! ### The port group (Table 4.9) -/

/-- A kind that a port may be bound to (R21). -/
def kindOk (i : Fin 12) (kind : BitVec 4) : Bool :=
  if i.val < 8 then kind == 1 || kind == 3 || kind == 4 || kind == 5 else kind == 2

/-- SRC fits its kind (Table 1.5, Table 4.9). -/
def srcOk (kind src : BitVec 4) : Bool :=
  match kind.toNat with
  | 3 => decide (src.toNat ≤ 7)
  | 4 => decide (src.toNat ≤ 2)
  | _ => src == 0

/-- Another port has the engine FIFO, the channel or the inbox already (R22). -/
def State.sourceTaken (s : State) (kind src : BitVec 4) : Bool :=
  decide (3 ≤ kind.toNat) && s.tile.ports.acc.toList.any fun b => b.kind == kind && b.src == src

/-- An ordered operation (R114, R238): it waits until the execute half has caught up and is then passed. -/
def passOrdered (s : State) (op : OrderedOp) : Out :=
  if s.caughtUp then .next ((s.setFront { s.tile.front with ordered := some op }).stall .resource)
  else .next (s.stall .resource)

/-- A PORT instruction that names a port in a range; a value outside it traps ILLEGAL_INSTR behind the
guard, 29 to 31 among them (R113; log 64). -/
def portOp (gd : Guard) (s : State) (x : BitVec 5) (lo hi : Nat) (effect : State → Fin 12 → Out) : Out :=
  cWordIf 6 gd s (decide (lo ≤ x.toNat) && decide (x.toNat ≤ hi)) fun s =>
    match portIndex x with
    | some i => effect s i
    | none => s.trapBundle Cause.illegalInstr

/-- BIND. -/
def execBind (gd : Guard) (k t r : BitVec 5) (s : State) : Out :=
  portOp gd s k 16 27 fun s i =>
    let kind : BitVec 4 := t.setWidth 4
    let src : BitVec 4 := r.setWidth 4
    if s.accKind i ≠ 0 ∨ 16 ≤ t.toNat ∨ !kindOk i kind ∨ 16 ≤ r.toNat ∨ !srcOk kind src ∨ s.sourceTaken kind src then
      s.trap false Cause.portUnbound (portEval k)
    else passOrdered s (.bind k kind src)

/-- UNBIND (R114). -/
def execUnbind (gd : Guard) (k : BitVec 5) (s : State) : Out :=
  portOp gd s k 16 27 fun s _ => passOrdered s (.unbind k)

/-- PDROP: 1 to 8 entries. -/
def execPdrop (gd : Guard) (k c : BitVec 5) (s : State) : Out :=
  cWordIf 6 gd s (decide (16 ≤ k.toNat) && decide (k.toNat ≤ 23) && decide (1 ≤ c.toNat) && decide (c.toNat ≤ 8)) fun s =>
    match portIndex k with
    | some i =>
      if s.accKind i = 0 then s.trap false Cause.portUnbound (portEval k) else passOrdered s (.pdrop k c)
    | none => s.trapBundle Cause.illegalInstr

/-- Entries that a port holds. -/
def State.portLevel (s : State) (x : BitVec 5) : Nat :=
  match inPort x, outPort x with
  | some i, _ => (s.tile.ports.inq.get i).length
  | none, some i => (s.tile.ports.outq.get i).length
  | none, none => 0

/-- A port binding word (Table 1.5). -/
def State.bindingWord (s : State) (i : Fin 12) (x : BitVec 5) : Word :=
  let b := s.tile.ports.acc.get i
  BitVec.ofNat 64 (s.portLevel x * 2 ^ 12 + b.src.toNat * 2 ^ 8 + b.kind.toNat)

/-- PLVL. -/
def execPlvl (gd : Guard) (d k : BitVec 5) (s : State) : Out :=
  portOp gd s k 16 27 fun s i => s.finishG d (s.bindingWord i k)

/-- MOVX (R115). -/
def execMovx (gd : Guard) (k a : BitVec 5) (s : State) : Out :=
  portOp gd s k 16 23 fun s i => noTx s fun s =>
    if s.fifo0Full then .next (s.stall .resource)
    else if s.accKind i ≠ 1 then s.trap false Cause.portUnbound (portEval k)
    else .next (s.pushCmd (.movx (k.setWidth 3) (s.g a))).retire

/-- MOVG (R115): it takes its entry behind every STQ of the port, and stalls until the entry is there. -/
def execMovg (gd : Guard) (d k : BitVec 5) (s : State) : Out :=
  portOp gd s k 24 27 fun s i => noTx s fun s =>
    if s.fifo0Full then .next (s.stall .resource)
    else if s.accKind i ≠ 2 then s.trap false Cause.portUnbound (portEval k)
    else
      let o : BitVec 2 := k.setWidth 2
      match s.tile.ports.outq.get o.toFin with
      | [] => .next (s.stall .resource)
      | row :: _ =>
        if s.tile.eng.fifo0.any (Cmd.drains o) then .next (s.stall .resource)
        else (s.popOut o.toFin).finishG d (row.setWidth 64)

/-- Both views of a port's binding (R114). -/
def State.setBinding (s : State) (x : BitVec 5) (b : Binding) : State :=
  match portIndex x with
  | some i => s.setPorts { s.tile.ports with
      acc := s.tile.ports.acc.set i b, exe := s.tile.ports.exe.set i b }
  | none => s

/-- Discard a port's entries and, for an in port, the undelivered rows of its commands (R114). -/
def State.clearPort (s : State) (x : BitVec 5) : State :=
  match inPort x, outPort x with
  | some i, _ =>
    let s := s.setPorts { s.tile.ports with inq := s.tile.ports.inq.set i [] }
    s.setEng { s.tile.eng with fifo0 := s.tile.eng.fifo0.filter fun c => !c.feeds (x.setWidth 3) }
  | none, some i => s.setPorts { s.tile.ports with outq := s.tile.ports.outq.set i [] }
  | none, none => s

/-- Pop several entries of an in port. -/
def State.popMany (s : State) (x : BitVec 5) : Nat → State
  | 0 => s
  | n + 1 => State.popMany (s.popPort x) x n

/-- UNBIND of an out port waits until every earlier STQ has taken its rows (R114). -/
def State.unbindWaits (s : State) (x : BitVec 5) : Bool :=
  (outPort x).isSome && s.tile.eng.fifo0.any (Cmd.drains (x.setWidth 2))

/-- PORT: the execute half waits inside an ordered operation. -/
def State.orderedWaits (s : State) : Bool :=
  match s.tile.front.ordered with
  | some (.unbind x) => s.unbindWaits x
  | some (.pdrop x n) => decide (s.portLevel x < n.toNat)
  | _ => false

end Sys2Proof.Machine
end

