-- ==== Sys2Proof/Machine/Order.lean ====
section
/-!
DEFINITION. Held failures, fences and transactions (R88, R178 to R183, R218, R219, R223, R233).
-/

namespace Sys2Proof.Machine

/-! ### Reporting points (R88) -/

/-- Take the oldest held failure as a trap (log 4), or go on. A transaction aborts instead of taking it, and it stays held
(R181, log 14). -/
def reportThen (s : State) (k : State → Out) : Out :=
  match s.tile.path.failures with
  | [] => k s
  | (c, v) :: r =>
    if s.txact then s.trap false c v
    else (s.setPath { s.tile.path with failures := r }).trap false c v

/-! ### What FREL waits for (R178) -/

/-- An A-word writes an out port: vd of majors 1 to 8, and of MRD and MCFG (Tables 3.9, 6.1). -/
def wordPushes (w : BitVec 32) (k : Fin 4) : Bool :=
  let major := w.toNat / 2 ^ 22 % 64
  let func := w.toNat % 16
  decide (w.toNat / 2 ^ 17 % 32 = 24 + k.val)
    && ((decide (1 ≤ major) && decide (major ≤ 8)) || (decide (major = 9) && (decide (func = 4) || decide (func = 5))))

/-- Some A-word that has been passed and has not issued writes an out port. -/
def State.passedPushes (s : State) (k : Fin 4) : Bool :=
  let f := s.tile.front
  (f.aq ++ f.rq).any (fun it => wordPushes it.word k)
    || (f.rpt.ract && f.rpt.riter != 0 && (f.rpt.words.toList.take f.rpt.rn.toNat).any fun w => wordPushes w k)
    || f.replay.isSome

/-- A row of an earlier bundle that an STQ has still to take. -/
def State.rowsPending (s : State) : Bool :=
  (List.finRange 4).any fun k =>
    s.tile.eng.fifo0.any (Cmd.drains (BitVec.ofNat 2 k.val))
      && (!(s.tile.ports.outq.get k).isEmpty || s.passedPushes k)

/-- A queued MOVX. -/
def Cmd.isMovx : Cmd → Bool
  | .movx .. => true
  | _ => false

/-- FREL has still to wait for a MOVX or for an STQ row. -/
def State.releaseWaits (s : State) : Bool := s.tile.eng.fifo0.any Cmd.isMovx || s.rowsPending

/-- A release of a scope that reports held failures; RLV stays when a failure is taken (R88, R178). -/
def releaseThen (s : State) (scope : Nat) (k : State → Out) : Out :=
  if s.releaseWaits then .next (s.stall .resource)
  else
    let r := s.release scope
    if r.tile.path.failures.isEmpty then k r
    else reportThen (r.setPath { r.tile.path with rlv := s.tile.path.rlv }) k

/-- A release that is not a reporting point (BARJ, TSPAWN, TJOIN, CPY). -/
def releaseOnly (s : State) (scope : Nat) (k : State → Out) : Out :=
  if s.rowsPending then .next (s.stall .resource) else k (s.release scope)

/-- FREL. -/
def execFrel (gd : Guard) (x : BitVec 3) (s : State) : Out :=
  cWord 2 gd s fun s => releaseThen s x.toNat fun s => .next s.retire

/-- FACQ. -/
def execFacq (gd : Guard) (_x : BitVec 3) (s : State) : Out :=
  cWord 2 gd s fun s => .next s.acquire.retire

/-- FSEQ. -/
def execFseq (gd : Guard) (x : BitVec 3) (s : State) : Out :=
  cWord 2 gd s fun s => releaseThen s x.toNat fun s => .next s.acquire.retire

/-! ### Transactions -/

/-- TXB (R179). -/
def execTxb (gd : Guard) (d : BitVec 5) (disp : BitVec 32) (s : State) : Out :=
  cWord 0 gd s fun s =>
    if s.txact then s.abortTx 3 0
    else
      let t : Tx := { reg := d, target := ptrAdd s.tile.front.apc (8 * disp.signExtend 64), lines := [], stores := [],
                      used := [], conflict := false }
      .next ((s.setPath { s.tile.path with tx := some t }).setStatusBit 7 true).retire

/-- A dword that the held stores cover whole loses its errors (R298). -/
def State.clearCovered (s : State) (stores : Memory) : State :=
  let covered (p : ErrorPlace) : Bool :=
    match p with
    | .memory d => (List.range 8).all fun i => (heldByte stores (8 * d + i)).isSome
    | _ => false
  s.setErrors { s.hub.errors with
    bad := s.hub.errors.bad.filter fun p => !covered p, soft := s.hub.errors.soft.filter fun p => !covered p }

/-- Write the held stores at their homes as one group (R183, R233). -/
def State.commitStores (s : State) (scope : Nat) : Memory → State
  | [] => s
  | (a, b) :: r =>
    State.commitStores ((s.evictLine a).writeHome a 1 b.toNat (BitVec.ofNat 3 scope) s.own) scope r

/-- TXC (R183). -/
def execTxc (gd : Guard) (x : BitVec 3) (s : State) : Out :=
  cWord 0 gd s fun s =>
    match s.tile.path.tx with
    | none => s.trapBundle Cause.illegalInstr
    | some t =>
      if t.conflict then s.abortTx 1 0
      else if !t.lines.all (fun l => l.confirmed) then .next ((s.setWait .commit).stall .resource)
      else reportThen (s.setWait .idle) fun s =>
        let s := s.flushPosted fun p => t.stores.any fun c => p.parts.any fun x => meets x.1 x.2.1 c.1 1
        let s := (s.commitStores x.toNat t.stores).clearCovered t.stores
        let s := s.setPath { s.tile.path with tx := none, rlv := x }
        .next (s.setStatusBit 7 false).retire

/-- TXA (R183). -/
def execTxa (gd : Guard) (c : BitVec 8) (s : State) : Out :=
  cWord 0 gd s fun s =>
    if !s.txact then s.trapBundle Cause.illegalInstr else s.passOwn.abortTx 6 c

/-- TX_CONFLICT (R180). -/
def execTxConflict (line : Word) (isLoad : Bool) (s : State) : Out := .next (s.txHit (lineOf line.toNat) isLoad)

/-- RESERVATION_CONFIRMED (R183). -/
def execReservationConfirmed (line : Word) (s : State) : Out :=
  match s.tile.path.tx with
  | none => .next s
  | some t =>
    .next (s.setPath { s.tile.path with tx := some { t with
      lines := t.lines.map fun l => if l.line = lineOf line.toNat then { l with confirmed := true } else l } })

end Sys2Proof.Machine
end

