-- ==== Sys2Proof/Machine/Messages.lean ====
section
/-!
DEFINITION. Waits that sleep, engine results, messages and deposits, the spill region (R171, R184, R186, R189 to R196,
R201, R228, R243, R244, R357).
-/

namespace Sys2Proof.Machine

/-! ### Waits that sleep (R201, R357) -/

/-- The tile enters a power state. -/
def State.enterPower (s : State) (x : PowerState) : State := s.setPower { s.tile.power with state := x, since := s.cycle }

/-- Wait, or go on waiting: WAIT or ASLEEP, with the tile in HOLD from its start. A wait that has passed its hold stays ASLEEP
(R201). -/
def State.waitHere (s : State) (h : HalfState) : State :=
  let s := if s.tile.front.ast = .asleep then s else s.stall (if s.tile.power.state = .gated then .asleep else h)
  if s.tile.power.state = .run then s.enterPower .hold else s

/-- The strip of the executing tile (R364). -/
def State.ownStrip (s : State) : BitVec 8 :=
  BitVec.ofNat 8 ((s.tile.csr.pcoord.toNat / 2 ^ 10 % 4) * 64 + stripOf (s.tile.csr.pcoord.toNat % 1024))

/-- The cycle of the 2.0 GHz mesh clock in which a CYCLE value of 2.4 GHz falls (R7). -/
def meshCycle (c : Word) : Nat := c.toNat * 5 / 6

/-- A wake event reaches a strip's in-rush arbiter: behind those of earlier mesh cycles, and by ascending physical x among those of
one (R358). -/
def arbiterPut (q : List (Word × BitVec 5)) (at_ : Word) (x : BitVec 5) : List (Word × BitVec 5) :=
  let behind (e : Word × BitVec 5) : Bool :=
    decide (meshCycle at_ < meshCycle e.1) || (meshCycle e.1 == meshCycle at_ && decide (x.toNat < e.2.toNat))
  q.filter (fun e => !behind e) ++ (at_, x) :: q.filter behind

/-- When the arbiter has powered each tile of its queue, one at a time in 300 ns, or 720 CYCLE ticks, each (R358). -/
def arbiterTimes (free : Nat) : List (Word × BitVec 5) → List (Nat × Word × BitVec 5)
  | [] => []
  | e :: r => let t := max free e.1.toNat + 720; (t, e) :: arbiterTimes t r

/-- 100 ns from the arbiter's power to RUN (R358). -/
def wakeTicks : Nat := 240

/-- A wake event of the tile at a physical x reaches the arbiter of a strip at a CYCLE value; the tiles that run before that have
left its queue (R358). -/
def Strip.wake (x : Strip) (at_ : Word) (px : BitVec 5) : Strip :=
  let l := arbiterTimes x.arbFree.toNat x.arbiter
  let gone := l.filter fun e => decide (e.1 + wakeTicks ≤ at_.toNat)
  { x with
    arbiter := arbiterPut ((l.filter fun e => decide (at_.toNat < e.1 + wakeTicks)).map fun e => e.2) at_ px
    arbFree := (gone.getLast?.map fun e => BitVec.ofNat 64 e.1).getD x.arbFree }

/-- Physical x of the executing tile. -/
def State.ownX (s : State) : BitVec 5 := s.tile.csr.pcoord.setWidth 5

/-- A wake event of a tile that may be GATED: it queues at the arbiter (Table 18.2, R358). -/
def State.wakeUp (s : State) : State :=
  if s.tile.power.state = .gated then
    (s.setStrip s.ownStrip ((s.hub.strips.get s.ownStrip.toFin).wake s.cycle s.ownX)).enterPower .waking
  else s

/-- CYCLE at which the waking tile runs: 100 ns after the arbiter has powered it (R358). -/
def State.runsAt (s : State) : Nat :=
  let x := s.hub.strips.get s.ownStrip.toFin
  match (arbiterTimes x.arbFree.toNat x.arbiter).find? fun e => e.2.2 == s.ownX with
  | some e => e.1 + wakeTicks
  | none => 0

/-- A wait ends: at once in HOLD; from GATED the tile is first woken (Table 18.2). -/
def wakeThen (s : State) (k : State → Out) : Out :=
  match s.tile.power.state with
  | .gated => .next s.wakeUp
  | .waking => .next s
  | .hold => k (s.enterPower .run)
  | .run => k s

/-- An event that ends a SLEEP has occurred since it began. -/
def State.noteSleep (s : State) (arrival result limit : Bool) : State :=
  match s.tile.wait with
  | .sleep a r l u => s.setWait (.sleep (a || arrival) (r || result) (l || limit) u)
  | _ => s

/-! ### Engine results (R184) -/

/-- A result element (Table 7.5). -/
def resultElement (status : BitVec 7) (tag : BitVec 32) : Word :=
  ((1 : Word) <<< 63) ||| (status.setWidth 64 <<< 56) ||| tag.setWidth 64

/-- An engine can complete: it holds no completion back (R184). -/
def State.resultRoom (s : State) (e : Fin 3) : Bool := (s.tile.eng.held.get e).isNone

/-- An element enters the FIFO of its engine: a push, which ends a SLEEP (R201). -/
def State.enterResult (s : State) (e : Fin 3) (x : Word) : State :=
  let s := s.noteSleep false true false
  s.setEng { s.tile.eng with res := s.tile.eng.res.set e (s.tile.eng.res.get e ++ [x]) }

/-- Push a result, or hold it back behind a full FIFO (R184). -/
def State.pushResult (s : State) (e : Fin 3) (x : Word) : State :=
  let g := s.tile.eng
  if (g.held.get e).isNone && decide ((g.res.get e).length < 8) then s.enterResult e x
  else s.setEng { g with held := g.held.set e (some x) }

/-- The in port that a source is bound to (R22). -/
def State.boundPort (s : State) (kind src : BitVec 4) : Option (Fin 8) :=
  (List.finRange 8).find? fun i =>
    let b := s.tile.ports.acc.get ⟨i.val, by omega⟩
    b.kind == kind && b.src == src

/-- An in port has room. -/
def State.portRoom (s : State) (i : Fin 8) : Bool := decide ((s.tile.ports.inq.get i).length < 8)

/-- An element of a FIFO that is bound to a port goes there. -/
def State.feedPort (s : State) (e : Fin 3) : State :=
  match s.boundPort 4 (BitVec.ofNat 4 e.val), s.tile.eng.res.get e with
  | some i, x :: r =>
    if s.portRoom i then
      (s.setEng { s.tile.eng with res := s.tile.eng.res.set e r }).pushIn i { row := x.setWidth 512, side := 0 }
    else s
  | _, _ => s

/-- A held-back element enters its FIFO when that has room. -/
def State.admitHeld (s : State) (e : Fin 3) : State :=
  match s.tile.eng.held.get e with
  | some x =>
    if (s.tile.eng.res.get e).length < 8 then
      (s.setEng { s.tile.eng with held := s.tile.eng.held.set e none }).enterResult e x
    else s
  | none => s

/-- What an engine's result FIFO does between instructions: a bound one feeds its port, and a held-back element follows. -/
def State.settleEngine (s : State) (e : Fin 3) : State := (s.feedPort e).admitHeld e

/-- A marker at the head of the sequencer's queue completes (R185). -/
def State.settleMarker (s : State) : State :=
  match s.tile.seq.queue with
  | .marker tag :: r =>
    if s.tile.seq.running.isNone && !s.tile.seq.stopped && s.resultRoom 2 then
      (s.setSeq { s.tile.seq with queue := r }).pushResult 2 (resultElement 0 tag)
    else s
  | _ => s

/-! ### Headers (Table 7.8) -/

/-- A message header. -/
def msgHeader (nw : Nat) (dreg : BitVec 5) (sender : BitVec 24) (tag : BitVec 27) : Word :=
  ((1 : Word) <<< 63) ||| (BitVec.ofNat 64 (nw % 16) <<< 59) ||| (dreg.setWidth 64 <<< 54) ||| (sender.setWidth 64 <<< 30)
    ||| tag.setWidth 64

/-- NW of a header. -/
def headerNw (h : Word) : Nat := h.toNat / 2 ^ 59 % 16
/-- DREG of a header. -/
def headerDreg (h : Word) : BitVec 5 := h.extractLsb' 54 5

/-! ### Landing (R189, R192, R195, R228) -/

/-- Append a message to the inbox whole, and set the arrival flag. -/
def State.landMessage (s : State) (header : Word) (data : List Word) : State :=
  let s := s.noteSleep true false false
  s.setNet { s.tile.net with inbox := s.tile.net.inbox ++ header :: data, arrived := true }

/-- The inbox has room for `n` words. -/
def State.inboxRoom (s : State) (n : Nat) : Bool := decide (s.tile.net.inbox.length + n ≤ 64)

/-- A deposit lands in the register of the resident context's workspace (R18, R192). -/
def State.landDeposit (s : State) (r : BitVec 5) (v : Word) : State :=
  let s := s.noteSleep true false false
  let s := s.setNet { s.tile.net with arrived := true }
  let live := !s.sup || wsOffset s.tile.csr.ewp == wsOffset s.tile.csr.wp
  let s := if live then s.setG r v else s
  if s.sup then s.otherWrite (s.ownAddr (wsOffset s.tile.csr.ewp + 8 * r.toNat)) 8 v.toNat 7 0 else s

/-- A SCOPE_MISS becomes pending, merged with one that is (R228). -/
def State.landMiss (s : State) (v : Word) : State :=
  s.setPend { s.tile.pend with scopeMiss := some (mergeMiss s.tile.pend.scopeMiss v) }

/-- The access half is inside an instruction that has read its operands and not ended (R193). -/
def State.midInstruction (s : State) : Bool :=
  s.tile.front.ordered.isSome || (match s.tile.wait with
    | .remote | .answered | .rejected | .barj | .sleep .. | .lease .. | .leaseAnswer _ | .append .. | .appendAnswer _ => true
    | _ => false)

/-- A deposit goes to its register rather than to the inbox: DEPMASK admits it (R192). -/
def State.admits (s : State) (h : Word) : Bool := s.tile.ctx.depmask.getLsbD (headerDreg h).toNat

/-- Accept an arrival for the resident context, if it can be accepted. A deposit never takes effect inside an instruction of the
access half (R193). -/
def State.land (s : State) (x : Arrival) : Option State :=
  match x with
  | .scopeMiss v => some (s.landMiss v)
  | .message h data => if s.inboxRoom (1 + data.length) then some (s.landMessage h data) else none
  | .deposit h v =>
    if s.admits h then (if s.midInstruction then none else some (s.landDeposit (headerDreg h) v))
    else if s.inboxRoom 2 then some (s.landMessage h [v])
    else none

/-! ### The spill region (R243, R244, Table 9.3) -/

/-- Address of the context buffer that a CXB names. -/
def cxbAddr (cxb : Word) : Nat := cxb.toNat % 2 ^ 54

/-- SPW of a spill region. -/
def State.spw (s : State) (cxb : Word) : Nat := s.mem.readNat (cxbAddr cxb + 0x1C000) 8

/-- The words of a record. -/
def recordWords (x : Arrival) : List Word :=
  match x with
  | .message h data => h :: data
  | .deposit h v => [h, v]
  | .scopeMiss v => [(1 : Word) <<< 63, v]

/-- Append a record to a spill region; none when it lacks room. -/
def State.spill (s : State) (cxb : Word) (x : Arrival) : Option State :=
  let ws := recordWords x
  let n := s.spw cxb
  let a := cxbAddr cxb + 0x1C000
  if 2047 < n + ws.length then none
  else
    some ((s.putWords (a + 8 + 8 * n) ws).putWords a [BitVec.ofNat 64 (n + ws.length)])

/-- A record of a region, from its header; the words it takes. -/
def recordFrom (ws : List Word) : Option (Arrival × Nat) :=
  match ws with
  | h :: r =>
    if headerNw h = 0 then some (.scopeMiss (r.headD 0), 2)
    else if headerDreg h ≠ 0 then some (.deposit h (r.headD 0), 2)
    else some (.message h (r.take (headerNw h)), 1 + headerNw h)
  | [] => none

/-- Apply the oldest record of a loaded context's region, when it can be accepted (R244); SPW falls. -/
def State.drainSpill (s : State) (cxb : Word) : State :=
  let n := s.spw cxb
  let a := cxbAddr cxb + 0x1C000
  if n = 0 then s.setNet { s.tile.net with spillTo := none }
  else
    let ws := s.mem.readWords (a + 8) n
    match recordFrom ws with
    | none => s
    | some (x, k) =>
      match s.land x with
      | none => s
      | some s => (s.putWords (a + 8) (ws.drop k)).putWords a [BitVec.ofNat 64 (n - k)]

/-! ### Arrivals (R189 to R192) -/

/-- A save is in progress (R242). -/
def State.saving (s : State) : Bool := s.tile.wait == .save

/-- TRET is switching contexts: the tile-local state is being saved, or has been saved and the next is not loaded (R242). -/
def State.switching (s : State) : Bool := s.tile.wait == .save || s.tile.wait == .load

/-- The context that an arrival waits for is the one whose CXB the tile holds (R243). -/
def State.isFor (s : State) (x : Waiting) : Bool := x.cxb == 0 || x.cxb == s.tile.res.cxb

/-- Take the arrivals that can be accepted, in order; an arrival that waits holds back those behind it, scope
misses apart. -/
def State.landAll (s : State) : List Waiting → Bool → State × List Waiting
  | [], _ => (s, [])
  | x :: r, blocked =>
    let isMiss := match x.what with
      | .scopeMiss _ => true
      | _ => false
    if (blocked && !isMiss) || !s.isFor x then
      let (s, w) := s.landAll r blocked
      (s, x :: w)
    else match s.land x.what with
      | some s => s.landAll r blocked
      | none =>
        let (s, w) := s.landAll r true
        (s, x :: w)

/-- The same into the spill region of a context that is being saved, or whose region has not been emptied. -/
def State.spillAll (s : State) (cxb : Word) : List Waiting → State × List Waiting
  | [] => (s, [])
  | x :: r =>
    if !s.isFor x then
      let (s, w) := s.spillAll cxb r
      (s, x :: w)
    else match s.spill cxb x.what with
      | some s => s.spillAll cxb r
      | none => (s, x :: r)

/-- The tile has no context and runs nothing that could take an arrival: it has not been started, or it has halted with none
(R243). -/
def State.homeless (s : State) : Bool :=
  !s.tile.front.started || (s.tile.front.ast == .halted && s.tile.res.ctx == 0)

/-- A deposit that waits only for the end of a SLEEP is an arrival that ends it: the flag is set now, and the register is written
behind it (R193, R201). -/
def State.wakeByDeposit (s : State) : State :=
  match s.tile.wait, s.tile.net.waiting.find? fun x => s.isFor x && (match x.what with
    | .scopeMiss _ => false
    | _ => true) with
  | .sleep .., some ⟨_, .deposit h _⟩ =>
    if s.admits h then (s.noteSleep true false false).setNet { s.tile.net with arrived := true } else s
  | _, _ => s

/-- Arrivals are accepted, spilled, or wait in the network (R189, R193, R243, R244). A spill region is applied only to a
context that the tile holds, and not while TRET switches; a tile without a context leaves them in the network. -/
def State.settleNet (s : State) : State :=
  match s.tile.net.spillTo with
  | some cxb =>
    if cxb = 0 then s
    else
      let s := if s.switching || cxb != s.tile.res.cxb || s.tile.front.ast == .halted then s else s.drainSpill cxb
      match s.tile.net.spillTo with
      | none => s
      | some _ =>
        let (s, w) := s.spillAll cxb s.tile.net.waiting
        s.setNet { s.tile.net with waiting := w }
  | none =>
    if s.switching || s.homeless then s
    else
      let (s, w) := s.landAll s.tile.net.waiting false
      (s.setNet { s.tile.net with waiting := w }).wakeByDeposit

/-- A bound inbox delivers a message's data words as one port entry, without the header (R194). -/
def State.settleInbox (s : State) : State :=
  match s.boundPort 5 0 with
  | none => s
  | some i =>
    if !s.portRoom i then s
    else
      let n := s.tile.net
      if n.lead ≠ 0 then
        (s.setNet { n with inbox := n.inbox.drop n.lead, lead := 0 }).pushIn i
          { row := BitVec.ofNat 512 (joinNat 64 ((n.inbox.take n.lead).map BitVec.toNat)), side := 0 }
      else match n.inbox with
        | [] => s
        | h :: r =>
          (s.setNet { n with inbox := r.drop (headerNw h) }).pushIn i
            { row := BitVec.ofNat 512 (joinNat 64 ((r.take (headerNw h)).map BitVec.toNat)), side := 0 }

/-- What moves without an instruction at a step: results, markers, arrivals, a bound inbox. -/
def State.settle (s : State) : State :=
  ((((s.settleEngine 0).settleEngine 1).settleEngine 2).settleMarker).settleNet.settleInbox

/-- Something arrives at the tile, for the context that it holds (R189, R192, R228, R243). -/
def State.arrives (s : State) (x : Arrival) : State :=
  s.setNet { s.tile.net with waiting := s.tile.net.waiting ++ [⟨s.tile.res.cxb, x⟩] }

/-- MESSAGE_ARRIVAL (R189): 1 to 8 data words. -/
def execMessageArrival (sender : BitVec 24) (tag : BitVec 27) (data : List Word) (s : State) : Out :=
  if data.length = 0 ∨ 8 < data.length then .next s
  else
    .next (s.arrives (.message (msgHeader data.length 0 sender tag) data)).settleNet

/-- DEPOSIT_ARRIVAL (R192). -/
def execDepositArrival (sender : BitVec 24) (tag : BitVec 27) (dreg : BitVec 5) (v : Word) (s : State) : Out :=
  if dreg = 0 then .next s
  else .next (s.arrives (.deposit (msgHeader 1 dreg sender tag) v)).settleNet

/-- SCOPE_MISS_MESSAGE (R227, R228). -/
def execScopeMissMessage (line : Word) (tsc rq : BitVec 3) (s : State) : Out :=
  .next (s.arrives (.scopeMiss (missValue (line.toNat % 2 ^ 54) tsc rq))).settleNet

/-- MALLOW. -/
def State.mallow (s : State) : Nat := s.tile.ctx.mallow.toNat % 16

/-- A message has been accepted: its allowance returns (R191). -/
def State.returnAllowance (s : State) (idx : Nat) : State :=
  if idx < s.tile.net.sent.length then
    let s := s.setNet { s.tile.net with sent := s.tile.net.sent.eraseIdx idx }
    s.setCtx { s.tile.ctx with mallow := s.tile.ctx.mallow + 1 }
  else s

/-! ### Message instructions -/

/-- MBW. -/
def execMbw (gd : Guard) (m : BitVec 3) (a : BitVec 5) (s : State) : Out :=
  cWord 6 gd s fun s =>
    .next (s.setRegs { s.tile.regs with m := s.tile.regs.m.set m.toNat (s.g a) m.isLt }).retire

/-- gb of SEND: NW, DREG, and the limits of R190. -/
def sendOk (b : Word) : Bool :=
  let nw := b.toNat % 16
  let dreg := b.toNat / 16 % 32
  decide (b.toNat / 2 ^ 9 = 0) && decide (1 ≤ nw) && decide (nw ≤ 8) && (decide (dreg = 0) || decide (nw = 1))

/-- Where a SEND goes, or none where it traps ACCESS_FAULT (R190). -/
def State.sendTarget (s : State) (p : Word) : Option (BitVec 24) :=
  if ptrFmt p = 0x1F ∨ ptrFmt p = 0x1E ∨ ptrVirtual p ∨ p.toNat / 2 ^ 27 % 8 ≠ 0 then none
  else
    let c := if s.isAgent then some s.own else if ptrRel p then resolveCoord s.own (ptrCoord p) else some (ptrCoord p)
    match c with
    | none => none
    | some c =>
      if c.toNat / 32 % 32 = 31 ∨ ¬(c = s.own ∨ s.reachable (coordPkg c)) then none
      else if s.det && s.cph && c != s.own then none
      else some c

/-- Sent messages that can be accepted next: the oldest to each destination tile, and one to the own tile only when it has
left the network (R191). -/
def State.acceptable (s : State) : List Nat :=
  let sent := s.tile.net.sent
  let mine (x : Waiting) : Bool :=
    match x.what with
    | .message h _ => h.extractLsb' 30 24 == s.own
    | .deposit h _ => h.extractLsb' 30 24 == s.own
    | .scopeMiss _ => false
  (List.range sent.length).filter fun i =>
    let target := s.sendTarget (sent.getD i 0)
    !((sent.take i).any fun p => s.sendTarget p == target) && !(target == some s.own && s.tile.net.waiting.any mine)

/-- ALLOWANCE_RETURN (R191): one of the messages that can be accepted has been; which one is a free choice (log 1). -/
def execAllowanceReturn (s : State) : Out :=
  match s.acceptable with
  | [] => .next s
  | i :: r => .next (s.returnAllowance (((i :: r)[Config.choice s.free % (r.length + 1)]?).getD i))

/-- SEND (R190, R191). -/
def execSend (gd : Guard) (d : BitVec 3) (a b : BitVec 5) (s : State) : Out :=
  cWord 6 gd s fun s => noTx s fun s =>
    let p := s.g a
    let x := s.g b
    if !sendOk x then s.trapBundle Cause.illegalInstr
    else match s.sendTarget p with
      | none => s.trap false Cause.accessFault p
      | some c =>
        if s.mallow = 0 then .next (s.setP d false).retire
        else
          let nw := x.toNat % 16
          let dreg : BitVec 5 := x.extractLsb' 4 5
          let data := s.tile.regs.m.toList.take nw
          let s := s.setCtx { s.tile.ctx with mallow := s.tile.ctx.mallow - 1 }
          let s := s.setNet { s.tile.net with sent := s.tile.net.sent ++ [p] }
          let s := if c = s.own then
              s.arrives (if dreg = 0 then .message (msgHeader nw 0 s.own (p.setWidth 27)) data
                else .deposit (msgHeader 1 dreg s.own (p.setWidth 27)) (data.headD 0))
            else s
          .next (s.setP d true).retire

/-- RECV (R194). -/
def execRecv (gd : Guard) (d : BitVec 5) (s : State) : Out :=
  cWord 6 gd s fun s =>
    let n := s.tile.net
    if (s.boundPort 5 0).isSome then s.trap false Cause.portUnbound 0x100
    else match n.inbox with
      | [] => s.finishG d 0
      | w :: r =>
        (s.setNet { n with inbox := r, lead := if n.lead ≠ 0 then n.lead - 1 else headerNw w }).finishG d w

/-- WAITM (R195). -/
def execWaitm (gd : Guard) (s : State) : Out :=
  cWord 6 gd s fun s => noTx s fun s =>
    if s.tile.net.arrived then
      wakeThen s fun s => .next (s.setNet { s.tile.net with arrived := false }).retire
    else .next (s.waitHere .wait)

/-- MSTAT (Table 7.9). -/
def execMstat (gd : Guard) (d : BitVec 5) (s : State) : Out :=
  cWord 6 gd s fun s =>
    s.finishG d (BitVec.ofNat 64 ((if (s.boundPort 5 0).isSome then 2 ^ 20 else 0) + s.mallow * 2 ^ 16
      + (if s.tile.net.arrived then 2 ^ 15 else 0) + s.tile.net.inbox.length))

end Sys2Proof.Machine
end

