-- ==== Sys2Proof/Machine/Engines.lean ====
section
/-!
DEFINITION. Engine commands: EPUSH, EPOP, CPY, SWRB, SWMX, WAITE, and the progress of copies (R184 to R188, R200,
R207, R208).
-/

namespace Sys2Proof.Machine

/-! ### Ranges of bytes -/

/-- Pieces of a range of bytes from `off`, none crossing a 4 KiB boundary of the pointer `p`. -/
def pagePieces (p : Nat) : Nat → Nat → Nat → List (Nat × Nat)
  | 0, _, _ => []
  | fuel + 1, off, left =>
    if left = 0 then []
    else
      let n := min left (4096 - (p + off) % 4096)
      (off, n) :: pagePieces p fuel (off + n) (left - n)

/-- Checks 1 to 9 on a range of bytes; a write-blocked page passes and is not held (R187, R289). -/
def State.checkRange (s : State) (acc : Acc) (p : Word) (len : Nat) (used : List TEntry) : Checked :=
  s.checkRow acc 1 p (pagePieces p.toNat (len / 4096 + 2) 0 len) used

/-! ### Copies (R187, R188) -/

def ctrlTag (c : Word) : BitVec 32 := (c.extractLsb' 40 24).setWidth 32
def ctrlRes (c : Word) : Bool := c.getLsbD 36
def ctrlStrm (c : Word) : Bool := c.getLsbD 35
def ctrlCh (c : Word) : BitVec 3 := c.extractLsb' 32 3
def ctrlLen (c : Word) : Nat := c.toNat % 2 ^ 32

/-- A copy command at issue: the control word, both ranges, then the conditions of a stream; then it is released and
queued. `report` says that the push is a reporting point. -/
def issueCopy (s : State) (dst src ctrl : Word) (report : Bool) : Out :=
  if s.fifo0Full then .next (s.stall .resource)
  else if ctrl.toNat / 2 ^ 37 % 8 ≠ 0 then s.trapBundle Cause.illegalInstr
  else
    let len := ctrlLen ctrl
    checkedThen s (s.checkRange .load src len []) fun used =>
      let c := if ctrlStrm ctrl then .ok used else s.checkRange .store dst len used
      checkedThen s c fun used =>
        if ctrlStrm ctrl && decide (len % 64 ≠ 0) then s.trap false Cause.misaligned (BitVec.ofNat 64 len)
        else if ctrlStrm ctrl && (s.boundPort 3 ((ctrlCh ctrl).setWidth 4)).isNone then
          s.trap false Cause.portUnbound ((ctrlCh ctrl).setWidth 64 + 0x200)
        else
          let go (s : State) : Out := .next (s.pushCmd (.copy dst src ctrl 0 used)).retire
          if report then releaseThen s 3 go else releaseOnly s 3 go

/-- CPY (R187). -/
def execCpy (gd : Guard) (c a b : BitVec 5) (s : State) : Out :=
  cWord 6 gd s fun s => noTx s fun s => issueCopy s (s.g c) (s.g a) (s.g b) false

/-- What a copy's bytes meet. -/
inductive CopyEnd where
  | done
  /-- A destination page is write-blocked (R289). -/
  | stalled
  | failed (cause : BitVec 8) (ptr : Word)
  deriving DecidableEq, Repr

/-- Read one byte at its home; none for an uncorrectable error. -/
def State.homeByte (s : State) (a : Nat) : State × Option Byte :=
  if hostBase ≤ a then (s.txHits a 1 true, some (s.mem.read a))
  else
    let s := s.otherRead a 1
    (s, if s.badAt a then none else some (if addrSpm a then s.spmByte a else s.mem.read a))

/-- Read one byte at its home by the hub, which every tile reaches at package scope; none for an uncorrectable error. -/
def State.hubByte (s : State) (a : Nat) : State × Option Byte :=
  if hostBase ≤ a then (s.txHits a 1 true, some (s.mem.read a))
  else
    let s := (s.txHits a 1 true).hubReads a 1
    (s, if s.badAt a then none else some (s.mem.read a))

/-- Copy single bytes from `i`, at the homes (R230). `old` is memory before the command, for overlapping ranges; each
byte chooses the old byte or the byte as already written (log 6). Accesses count once per 64-byte aligned chunk. -/
def State.copyBytes (s : State) (dst src : Word) (held : List TEntry) (old : Memory) : Nat → Nat → State × Nat × CopyEnd
  | 0, i => (s, i, .done)
  | n + 1, i =>
    let sp := ptrAdd src (BitVec.ofNat 64 i)
    let dp := ptrAdd dst (BitVec.ofNat 64 i)
    let s := (s.engineWalk .load held sp).engineWalk .store held dp
    match s.reach held .load sp 1, s.reach held .store dp 1 with
    | .mem sa sl, .mem da dl =>
      match s.homeByte sa with
      | (s, none) => (s, i, .failed Cause.softError sp)
      | (s, some now) =>
        let b := if Config.overlapChoice s.free i then old.read sa else now
        let whole := decide (da % 8 + n + 1 ≥ 8) && decide (da % 8 ≤ i)
        if s.badAt da && !whole && !decide (hostBase ≤ da) then
          (s, i, .failed (if s.isLocal da then Cause.softError else Cause.accessFault) dp)
        else
          let s := if i = 0 ∨ sa % 64 = 0 then s.count sl else s
          let s := if i = 0 ∨ da % 64 = 0 then s.count dl else s
          let s := if addrSpm da && inStaging (addrOff da) then s else s.otherWrite da 1 b.toNat 7 0
          let s := if whole && decide (da % 8 = 7) then s.clearBad (da - 7) 8 else s
          s.copyBytes dst src held old n (i + 1)
    | .mem _ _, .blocked => (s.keepBlocked held dp, i, .stalled)
    | .mem _ _, .bad => (s, i, .failed Cause.accessFault dp)
    | _, _ => (s, i, .failed Cause.accessFault sp)

/-- A copy command. -/
def Cmd.isCopy (c : Cmd) : Bool :=
  match c with
  | .copy .. => true
  | _ => false

/-- The channel of a copy command. -/
def Cmd.channel (c : Cmd) : Option (BitVec 3) :=
  match c with
  | .copy _ _ ctrl _ _ => some (ctrlCh ctrl)
  | _ => none

/-- The command at an index is the oldest of its channel. -/
def oldestOfChannel (cs : List Cmd) (idx : Nat) : Bool :=
  match cs[idx]? with
  | some c => !(cs.take idx).any fun x => x.channel == c.channel && x.isCopy
  | none => false

/-- End a copy command: it leaves the FIFO, and its result is pushed or its failure held (R188). -/
def State.endCopy (s : State) (idx : Nat) (ctrl : Word) (e : CopyEnd) : State :=
  let s := s.setEng { s.tile.eng with fifo0 := s.tile.eng.fifo0.eraseIdx idx }
  match e with
  | .failed c p =>
    if ctrlRes ctrl then s.pushResult 0 (resultElement (c.setWidth 7) (ctrlTag ctrl)) else s.holdFailure c p
  | _ => if ctrlRes ctrl then s.pushResult 0 (resultElement 0 (ctrlTag ctrl)) else s

/-- A copy can end: its result has room (R184). -/
def State.copyRoom (s : State) (ctrl : Word) : Bool := !ctrlRes ctrl || s.resultRoom 0

/-- COPY_COMPLETE (R187, R188): the bytes that remain are copied and the command ends; at a write-blocked page it
stays with what it has copied. -/
def execCopyComplete (idx : Nat) (s : State) : Out :=
  match s.tile.eng.fifo0[idx]? with
  | some (.copy dst src ctrl i held) =>
    if !oldestOfChannel s.tile.eng.fifo0 idx || !s.copyRoom ctrl then .next s
    else if ctrlStrm ctrl then (if ctrlLen ctrl ≤ i then .next (s.endCopy idx ctrl .done) else .next s)
    else
      match s.copyBytes dst src held s.mem (ctrlLen ctrl - i) i with
      | (s, i, .stalled) =>
        .next (s.setEng { s.tile.eng with fifo0 := s.tile.eng.fifo0.set idx (.copy dst src ctrl i held) })
      | (s, _, e) => .next (s.endCopy idx ctrl e)
  | _ => .next s

/-- The oldest command of a channel, with its index. -/
def firstOfChannel (ch : BitVec 3) : List Cmd → Nat → Option (Nat × Cmd)
  | [], _ => none
  | c :: r, i => if c.isCopy && c.channel == some ch then some (i, c) else firstOfChannel ch r (i + 1)

/-- Read the bytes of one row of a stream at the homes. -/
def State.streamBytes (s : State) (src : Word) (held : List TEntry) : Nat → Nat → State × Except (BitVec 8 × Word) (List Nat)
  | 0, _ => (s, .ok [])
  | n + 1, i =>
    let p := ptrAdd src (BitVec.ofNat 64 i)
    let s := s.engineWalk .load held p
    match s.reach held .load p 1 with
    | .mem a leaf =>
      match s.homeByte a with
      | (s, none) => (s, .error (Cause.softError, p))
      | (s, some b) =>
        let s := if i = 0 ∨ a % 64 = 0 then s.count leaf else s
        match s.streamBytes src held n (i + 1) with
        | (s, .ok l) => (s, .ok (b.toNat :: l))
        | (s, .error e) => (s, .error e)
    | _ => (s, .error (Cause.accessFault, p))

/-- COPY_STREAM_ROW (R187): one row, when the port has room; a read error ends the command. -/
def execCopyStreamRow (ch : BitVec 3) (s : State) : Out :=
  match firstOfChannel ch s.tile.eng.fifo0 0, s.boundPort 3 (ch.setWidth 4) with
  | some (idx, .copy dst src ctrl i held), some port =>
    if !ctrlStrm ctrl || decide (ctrlLen ctrl ≤ i) || !s.portRoom port then .next s
    else
      match s.streamBytes src held 64 i with
      | (s, .ok bytes) =>
        let s := s.setEng { s.tile.eng with fifo0 := s.tile.eng.fifo0.set idx (.copy dst src ctrl (i + 64) held) }
        .next (s.pushIn port { row := BitVec.ofNat 512 (joinNat 8 bytes), side := 0 })
      | (s, .error (c, p)) => if s.copyRoom ctrl then .next (s.endCopy idx ctrl (.failed c p)) else .next s
  | _, _ => .next s

/-- The access that a pointer makes goes beyond the package: it is one that can stay without an answer. -/
def State.goesOut (s : State) (held : List TEntry) (acc : Acc) (p : Word) : Bool :=
  match s.reach held acc p 1 with
  | .mem a _ => decide (a < hostBase) && coordPkg (addrCoord a) != s.hub.boot.pkgId
  | _ => false

/-- A copy's access is not answered within RTMO.MS: it ends early as a read error or a rejected write does (R383), with the
failing pointer: the source where that goes out of the package, and the destination otherwise. -/
def State.failCopy (s : State) (idx : Nat) : State :=
  match s.tile.eng.fifo0[idx]? with
  | some (.copy dst src ctrl i held) =>
    if oldestOfChannel s.tile.eng.fifo0 idx && s.copyRoom ctrl && decide (i < ctrlLen ctrl) then
      let p := ptrAdd src (BitVec.ofNat 64 i)
      s.endCopy idx ctrl (.failed Cause.accessFault
        (if ctrlStrm ctrl || s.goesOut held .load p then p else ptrAdd dst (BitVec.ofNat 64 i)))
    else s
  | _ => s

/-! ### Sweut commands (Table 7.12) -/

/-- GROUP. -/
def descGroup (d : BitVec 256) : BitVec 12 := d.extractLsb' 0 12
/-- SEG. -/
def descSeg (d : BitVec 256) : BitVec 4 := d.extractLsb' 12 4
/-- WRITERS. -/
def descWriters (d : BitVec 256) : BitVec 4 := d.extractLsb' 16 4
/-- PLANES. -/
def descPlanes (d : BitVec 256) : BitVec 5 := d.extractLsb' 20 5
/-- SFMT. -/
def descSfmt (d : BitVec 256) : BitVec 5 := d.extractLsb' 32 5
/-- OP. -/
def descOp (d : BitVec 256) : BitVec 3 := d.extractLsb' 37 3
/-- DFMT. -/
def descDfmt (d : BitVec 256) : BitVec 5 := d.extractLsb' 40 5
/-- COUNT. -/
def descCount (d : BitVec 256) : BitVec 32 := d.extractLsb' 64 32
/-- TAG. -/
def descTag (d : BitVec 256) : BitVec 32 := d.extractLsb' 96 32
/-- SRC. -/
def descSrc (d : BitVec 256) : Word := d.extractLsb' 128 64
/-- DST. -/
def descDst (d : BitVec 256) : Word := d.extractLsb' 192 64

/-- Table 7.13. -/
def formatsOk (sum : Bool) (sf df : Format) (planes : Nat) : Bool :=
  if sum then
    if sf.isBlock then df == .fp32 && decide (2 ≤ planes) && decide (planes ≤ 24)
    else planes == 0 && (((sf == .int8 || sf == .int16) && (df == .int32 || df == .int64)) || (sf == .int32 && df == .int64))
  else planes == 0 && (sf == .raw || sf == .int8 || sf == .int16 || sf == .int32) && df == sf

/-- Bytes of `n` elements of a format: whole records for a block format. -/
def formatBytes (f : Format) (n : Nat) : Nat :=
  if f.isBlock then (n + 31) / 32 * f.recordBytes else (n * f.bits + 7) / 8

/-- EVAL of a SWEUT_FAIL trap (R208). -/
def sweutEval (reason : Nat) (d : BitVec 256) : Word :=
  BitVec.ofNat 64 (reason + (descSeg d).toNat * 16 + (descGroup d).toNat * 2 ^ 8)

/-- Checks 1 to 5 of R208: a cause and EVAL, or the two formats. -/
def State.collectiveCheck (s : State) (d : BitVec 256) : Except (BitVec 8 × Word) (Format × Format) :=
  match formatOf (descSfmt d), formatOf (descDfmt d) with
  | none, _ => .error (Cause.format, (descSfmt d).setWidth 64)
  | _, none => .error (Cause.format, (descDfmt d).setWidth 64)
  | some sf, some df =>
    let att := s.hub.sweut.get (descSeg d).toFin
    if 2 ≤ (descOp d).toNat ∨ d.toNat / 2 ^ 25 % 2 ^ 7 ≠ 0 ∨ d.toNat / 2 ^ 45 % 2 ^ 19 ≠ 0 ∨ descWriters d = 0
        ∨ descCount d = 0 then
      .error (Cause.sweutFail, sweutEval 3 d)
    else if !formatsOk (descOp d == 0) sf df (descPlanes d).toNat then .error (Cause.sweutFail, sweutEval 4 d)
    else if !att.up then .error (Cause.sweutFail, sweutEval 2 d)
    else if att.wlim.toNat < (descWriters d).toNat then .error (Cause.sweutFail, sweutEval 1 d)
    else .ok (sf, df)

/-- A Sweut command as it arrives (R330). -/
def State.newSw (s : State) (d : BitVec 256) (tile : Bool) (owner : Nat) : SwCmd :=
  { desc := d, phase := .queued, tile := tile, owner := owner, order := s.hub.fe.swNext }

/-- The next command of the package arrives later. -/
def State.countSw (s : State) : State := s.setFe { s.hub.fe with swNext := s.hub.fe.swNext + 1 }

/-- A command joins engine 1 of this tile. -/
def State.pushSw (s : State) (d : BitVec 256) (tile : Bool) (owner : Nat) : State :=
  (s.setEng { s.tile.eng with fifo1 := s.tile.eng.fifo1 ++ [s.newSw d tile owner] }).countSw

/-- A collective at issue (R208): checked, released at system scope, queued on engine 1. -/
def issueCollective (s : State) (d : BitVec 256) (report : Bool) : Out :=
  if 8 ≤ s.tile.eng.fifo1.length then .next (s.stall .resource)
  else match s.collectiveCheck d with
    | .error (c, v) => s.trap false c v
    | .ok (sf, df) =>
      let n := (descCount d).toNat
      checkedThen s (s.checkRange .load (descSrc d) (formatBytes sf n) []) fun used =>
        checkedThen s (s.checkRange .store (descDst d) (formatBytes df n) used) fun _ =>
          let go (s : State) : Out :=
            .next (s.pushSw d false 0).retire
          if report then releaseThen s 4 go else releaseOnly s 4 go

/-- The 32-byte record at a 32-byte aligned pointer to the own SPM (R185). -/
def recordAt (s : State) (p : Word) (k : State → BitVec 256 → Out) : Out :=
  match s.resolve true .load p 32 32 with
  | .trap c v => s.trap false c v
  | .walk => s.wantWalk p
  | .blocked => .next (s.stall .resource)
  | .window _ => s.trap false Cause.misaligned p
  | .mem a _ =>
    if !(addrSpm a && s.isLocal a) then s.trap false Cause.accessFault p
    else match s.readPlace a 32 with
      | (s, none) => s.trap false Cause.softError p
      | (s, some v) => k s (BitVec.ofNat 256 v)

/-- TYPE of a command record. -/
def recordType (r : BitVec 256) : BitVec 8 := r.extractLsb' 248 8

/-- EPUSH (R185). -/
def execEpush (gd : Guard) (a : BitVec 5) (e : BitVec 3) (s : State) : Out :=
  cWordIf 6 gd s (decide (e.toNat < 3)) fun s => noTx s fun s =>
    recordAt s (s.g a) fun s r =>
      match e.toNat with
      | 0 =>
        if recordType r ≠ 0x05 ∨ r.toNat / 2 ^ 192 % 2 ^ 56 ≠ 0 then s.trapBundle Cause.illegalInstr
        else issueCopy s (r.extractLsb' 0 64) (r.extractLsb' 64 64) (r.extractLsb' 128 64) true
      | 1 => issueCollective s r true
      | _ =>
        if recordType r ≠ 0x11 ∨ r.toNat / 2 ^ 32 % 2 ^ 216 ≠ 0 then s.trapBundle Cause.illegalInstr
        else if 8 ≤ s.tile.seq.queue.length then .next (s.stall .resource)
        else releaseThen s 0 fun s =>
          .next (s.setSeq { s.tile.seq with queue := s.tile.seq.queue ++ [.marker (r.extractLsb' 0 32)] }).retire

/-- Replace OP in a descriptor. -/
def withOp (d : BitVec 256) (op : BitVec 3) : BitVec 256 :=
  (d &&& ~~~((7 : BitVec 256) <<< 37)) ||| (op.setWidth 256 <<< 37)

/-- SWRB (R207). -/
def execSwrb (gd : Guard) (a : BitVec 5) (s : State) : Out :=
  cWord 6 gd s fun s => noTx s fun s => recordAt s (s.g a) fun s d => issueCollective s (withOp d 0) false

/-- SWMX (R207). -/
def execSwmx (gd : Guard) (a : BitVec 5) (s : State) : Out :=
  cWord 6 gd s fun s => noTx s fun s => recordAt s (s.g a) fun s d => issueCollective s (withOp d 1) false

/-! ### Results -/

/-- An engine of a number below 3. -/
def engineOf (e : BitVec 3) : Fin 3 := ⟨e.toNat % 3, by omega⟩

/-- EPOP (R186). -/
def execEpop (gd : Guard) (d : BitVec 5) (w : BitVec 1) (e : BitVec 3) (s : State) : Out :=
  cWordIf 6 gd s (decide (e.toNat < 3)) fun s =>
    let i := engineOf e
    if (s.boundPort 4 (e.setWidth 4)).isSome then s.trap false Cause.portUnbound (e.setWidth 64 + 0x100)
    else match s.tile.eng.res.get i with
      | x :: r =>
        ((s.setEng { s.tile.eng with res := s.tile.eng.res.set i r }).acquire).finishG d x
      | [] => if w = 1 then s.finishG d 0 else noTx s fun s => .next (s.stall .resource)

/-- The named FIFOs that hold an element. -/
def State.readyMask (s : State) (m : BitVec 3) : BitVec 3 :=
  BitVec.ofNat 3 (((List.finRange 3).map fun i =>
    if m.getLsbD i.val && !(s.tile.eng.res.get i).isEmpty then 2 ^ i.val else 0).sum)

/-- WAITE (R200). -/
def execWaite (gd : Guard) (d : BitVec 5) (m : BitVec 3) (s : State) : Out :=
  cWord 0 gd s fun s => noTx s fun s =>
    if m = 0 ∨ (List.finRange 3).any (fun i => m.getLsbD i.val && (s.boundPort 4 (BitVec.ofNat 4 i.val)).isSome) then
      s.trapBundle Cause.illegalInstr
    else
      let r := s.readyMask m
      if r = 0 then .next (s.waitHere .wait) else wakeThen s fun s => s.finishG d (r.setWidth 64)

end Sys2Proof.Machine
end

