-- ==== Sys2Proof/Machine/Sync.lean ====
section
/-!
DEFINITION. Supersteps, barriers, sleeps and tasks (R156, R197 to R204, R246, R268 to R270, R316, R322 to R325).
-/

namespace Sys2Proof.Machine

/-! ### Held reports of the tile sequencer (R156) -/

/-- In task mode, take a held report of the tile sequencer as a trap, or go on. -/
def reportTile (s : State) (k : State → Out) : Out :=
  match s.tile.seq.held with
  | some r =>
    if s.sup || r.taken then k s
    else (s.setSeq { s.tile.seq with held := some { r with taken := true } }).trap false r.cause r.value
  | none => k s

/-- The tile sequencer has no queued and no running instruction. -/
def State.seqIdle (s : State) : Bool := s.tile.seq.queue.isEmpty && s.tile.seq.running.isNone

/-- Every command of engines 0 and 1 has completed. -/
def State.enginesIdle (s : State) : Bool := s.tile.eng.fifo0.isEmpty && s.tile.eng.fifo1.isEmpty

/-! ### Contexts as the front end holds them -/

/-- The context of a number. -/
def State.ctxOf (s : State) (n : Nat) : Option Ctx := s.hub.fe.ctxs.find? fun c => c.id == n

/-- Change a context. -/
def State.updCtx (s : State) (n : Nat) (f : Ctx → Ctx) : State :=
  s.setFe { s.hub.fe with ctxs := s.hub.fe.ctxs.map fun c => if c.id = n then f c else c }

/-- A context's hang watchdog restarts (R328). -/
def State.watch (s : State) (n : Nat) : State := s.updCtx n fun c => { c with watched := s.cycle }

/-- Add an element that is not there. -/
def addOnce {α : Type} [DecidableEq α] (l : List α) (x : α) : List α := if x ∈ l then l else l ++ [x]

/-- Every dirty byte of the L1 is written home, and every posted store performed: what a tile that has halted leaves is at
the homes (R310). -/
def State.flushAll (s : State) : State :=
  let s := s.flushPosted fun _ => true
  let s := s.tile.path.l1.foldl (fun s l => s.writeBackLine l) s
  s.setPath { s.tile.path with l1 := s.tile.path.l1.map fun l => { l with dirty := 0 } }

/-- Both halves HALTED, and the strip controller told so (R173). A tile that holds no context then sleeps (R355). -/
def State.haltDone (s : State) : State :=
  let s := s.setFront { s.tile.front with ast := .halted, xst := .halted, latch := none }
  let s := (s.setWait .idle).enterPower (if s.tile.res.ctx = 0 then .hold else .run)
  s.updCtx s.tile.res.ctx fun c => { c with halted := addOnce c.halted s.own }

/-- A context has ended with a status, unless it has ended before. -/
def State.failCtx (s : State) (n : Nat) (status : BitVec 8) (value epc : Word) (coord : BitVec 24) : State :=
  s.updCtx n fun c => if c.ended.isSome then c else { c with ended := some (status, value, epc, coord) }

/-- HALT has still to wait (R173); a tile instruction behind which the sequencer has stopped has faulted. -/
def State.haltWaits (s : State) : Bool :=
  !s.caughtUp || !(s.seqIdle || (s.tile.seq.stopped && s.tile.seq.running.isNone)) || !s.enginesIdle || decide (s.mallow ≠ 8)

/-- Halt, when everything that HALT waits for has ended and no failure is held (R88, R173). -/
def haltThen (s : State) (waits : State → State) : Out :=
  reportTile s fun s =>
    if s.haltWaits then .next (waits s)
    else reportThen s.flushAll fun s => .next s.haltDone

/-! ### Exchange records (R197, R198, R269, R270) -/

/-- An exchange record (Table 11.7). -/
structure ExRecord where
  w0  : Word
  dst : Word
  deriving DecidableEq, Repr

/-- SRC. -/
def ExRecord.src (r : ExRecord) : Nat := r.w0.toNat % 2 ^ 27
/-- LEN. -/
def ExRecord.len (r : ExRecord) : Nat := r.w0.toNat / 2 ^ 32 % 2 ^ 24
/-- NOTIFY. -/
def ExRecord.notifies (r : ExRecord) : Bool := r.w0.getLsbD 56

/-- A reserved bit set, or FMT or BLG not 0. -/
def ExRecord.reserved (r : ExRecord) : Bool :=
  decide (r.w0.toNat / 2 ^ 27 % 32 ≠ 0) || decide (r.w0.toNat / 2 ^ 57 ≠ 0) || decide (r.dst.toNat / 2 ^ 56 ≠ 0)

/-- The record at an address. -/
def State.exRecord (s : State) (a : Nat) : ExRecord := { w0 := s.mem.readWord a, dst := s.mem.readWord (a + 8) }

/-- The tile that a mesh pointer names. -/
def State.meshTile (s : State) (p : Word) : Option (BitVec 24) :=
  if ptrRel p then resolveCoord s.own (ptrCoord p) else some (ptrCoord p)

/-- The tile belongs to the resident context. -/
def State.inContext (s : State) (c : BitVec 24) : Bool :=
  match s.ctxOf s.tile.res.ctx with
  | some x => x.tiles.contains c
  | none => c == s.own

/-- The cause with which a record fails (R269); the exchange runs after the compute phase, so check 7 does not confine
it. -/
def State.recordFault (s : State) (r : ExRecord) : Option (BitVec 8) :=
  if r.reserved then some Cause.illegalInstr
  else if r.src % 4 ≠ 0 ∨ r.dst.toNat % 4 ≠ 0 ∨ r.len % 4 ≠ 0 then some Cause.misaligned
  else if ptrVirtual r.dst then some Cause.accessFault
  else match s.meshTile r.dst with
    | none => some Cause.accessFault
    | some c =>
      if !s.inContext c then some Cause.accessFault
      else if r.len = 0 then none
      else
        let s := s.setStatusBit 6 false
        match s.checkRange .load (s.ownPtr r.src) r.len [], s.checkRange .store r.dst r.len [] with
        | .ok _, .ok _ => none
        | _, _ => some Cause.accessFault

/-- The first record that fails, of `n` from an address: its place in the list and its cause. -/
def State.firstFault (s : State) (a : Nat) : Nat → Nat → Option (Nat × BitVec 8)
  | 0, _ => none
  | n + 1, i =>
    match s.recordFault (s.exRecord (a + 16 * i)) with
    | some c => some (i, c)
    | none => s.firstFault a n (i + 1)

/-- The records that SSTEP names: 16-byte aligned, in the own SPM. -/
def recordsAt (s : State) (p : Word) (n : Nat) (k : Nat → Out) : Out :=
  if n = 0 then k 0
  else match s.resolve true .load p 16 (16 * n) with
    | .trap c v => s.trap false c v
    | .walk => s.wantWalk p
    | .blocked => .next (s.stall .resource)
    | .window _ => s.trap false Cause.misaligned p
    | .mem a _ =>
      if !(addrSpm a && s.isLocal a) then s.trap false Cause.accessFault p
      else match s.firstBad a (16 * n) with
        | some b => s.trap false Cause.softError (s.ownPtr (addrOff b))
        | none => k a

/-- Move the words of one record. `old` is memory at the join and `mid` memory before this record; `prev` lists the words that other
records have written. A word that two records share keeps or takes either candidate (R270, log 6); every other one lands as its
source stood at the join, the record's own overlaps included. The answer says whether a word was rejected or could not be read. -/
def State.exWords (s : State) (old mid : Memory) (prev : List Nat) (src dst : Nat) : Nat → Bool → State × Bool
  | 0, bad => (s, bad)
  | n + 1, bad =>
    let now := if Config.overlapChoice s.free (2 * dst) && prev.contains src then mid.readNat src 4 else old.readNat src 4
    if s.badAt src || s.partialBad dst 4 then s.exWords old mid prev (src + 4) (dst + 4) n true
    else if (prev.contains dst && Config.overlapChoice s.free (2 * dst + 1)) || (addrSpm dst && inStaging (addrOff dst)) then
      s.exWords old mid prev (src + 4) (dst + 4) n bad
    else ((s.otherRead src 4).otherWrite dst 4 now 7 0).exWords old mid prev (src + 4) (dst + 4) n bad

/-- Run the records from an address upwards; the first that was rejected is kept for the end of the SSTEP (R198). -/
def State.exchange (s : State) (old : Memory) (a : Nat) (p : Word) : Nat → Nat → List Nat → State
  | 0, _, _ => s
  | n + 1, i, prev =>
    let r : ExRecord := { w0 := old.readWord (a + 16 * i), dst := old.readWord (a + 16 * i + 8) }
    match s.meshTile r.dst with
    | none => s.exchange old a p n (i + 1) prev
    | some c =>
      let dst := coordBase c + ptrOff r.dst
      let (s, bad) := s.exWords old s.mem prev (s.ownAddr r.src) dst (r.len / 4) false
      let s := if bad && s.tile.res.rejected.isNone then
          s.setRes { s.tile.res with rejected := some (ptrAdd p (BitVec.ofNat 64 (16 * i))) } else s
      let s := if r.notifies && c == s.own then
          (s.noteSleep true false false).setNet { s.tile.net with arrived := true } else s
      s.exchange old a p n (i + 1) ((List.range (r.len / 4)).map (fun k => dst + 4 * k) ++ prev)

/-! ### SSTEP (R197, R198) -/

/-- A PREEMPT of the front end is taken at this SSTEP: none is asked for by a cut at a later superstep (R241, R246). -/
def State.takesPreempt (s : State) : Bool :=
  s.tile.pend.preempt.isSome && s.ie && (match s.tile.res.cut with
    | some k => decide (k ≤ s.tile.ctx.step.toNat)
    | none => true)

/-- Take it. -/
def State.preemptTrap (s : State) : Out :=
  let v := s.tile.pend.preempt.getD 0
  let s := s.updCtx s.tile.res.ctx fun c => { c with
    stopped := if c.cut.isSome then addOnce c.stopped s.own else c.stopped, before := addOnce c.before s.own }
  ((s.setPend { s.tile.pend with preempt := none }).setRes { s.tile.res with cut := none }).trap false Cause.preempt v

/-- Join the compute barrier: the compute phase ends, and nothing interrupts the SSTEP from here on. -/
def State.joinBarrier (s : State) (ends : Bool) (records count : Word) : State :=
  let s := (s.setStatusBit 6 false).setWait (.sstep .joined records count)
  let s := s.setRes { s.tile.res with rejected := none }
  (s.updCtx s.tile.res.ctx fun c => { c with joined := c.joined ++ [(s.own, ends)] }).waitHere .wait

/-- The trap for a rejected record, behind its SSTEP (R198). -/
def State.rejectTrap (s : State) (v : Word) : State :=
  (s.setRes { s.tile.res with rejected := none }).takeTrap false Cause.accessFault v

/-- The end of an SSTEP, at its release value. A rejected record traps behind it; a trap that the execute half holds comes first
(R237), and the other then waits for the next bundle boundary. -/
def sstepEnd (s : State) (ends : Bool) : Out :=
  let s := s.setWait .idle
  match s.tile.res.rejected with
  | some v =>
    let s := (s.setStatusBit 6 (!ends)).retire
    .next (if s.tile.front.xtrap.isSome then s else s.rejectTrap v)
  | none =>
    if ends then .next (s.flushAll.haltDone)
    else .next (s.setStatusBit 6 true).retire

/-- SSTEP up to its join. One that ends the program joins once every A-word passed before it has completed, as a HALT does (R173,
R197). -/
def sstepStart (s : State) (ends : Bool) (p b : Word) : Out :=
  noTx s fun s =>
    if b.toNat / 2 ^ 16 ≠ 0 then s.trapBundle Cause.illegalInstr
    else reportTile s fun s =>
      if s.takesPreempt then s.preemptTrap
      else
        let n := b.toNat % 2 ^ 16
        recordsAt s p n fun a =>
          match s.firstFault a n 0 with
          | some (i, c) => s.trap false c (ptrAdd p (BitVec.ofNat 64 (16 * i)))
          | none =>
            if (ends && !s.caughtUp) || !s.seqIdle || !s.enginesIdle || decide (s.mallow ≠ 8) then .next (s.waitHere .wait)
            else wakeThen s fun s => releaseThen s 3 fun s => .next (s.joinBarrier ends p b)

/-- SSTEP (R197). -/
def execSstep (gd : Guard) (e : BitVec 1) (a b : BitVec 5) (s : State) : Out :=
  match s.tile.wait with
  | .sstep .released _ _ => wakeThen s fun s => sstepEnd s (e == 1)
  | .sstep .. => .next (s.waitHere .wait)
  | _ => cWordIf 0 gd s (!s.sup && s.det) fun s => sstepStart s (e == 1) (s.g a) (s.g b)

/-- Every tile has joined: none is still running (R197, R316). -/
def Ctx.allJoined (c : Ctx) : Bool := c.tiles.all fun t => c.joined.any fun j => j.1 == t

/-- The tiles end the program differently (R198, R316). -/
def Ctx.disagrees (c : Ctx) : Bool :=
  (!c.joined.isEmpty && !c.halted.isEmpty) || (c.joined.any (fun j => j.2) && c.joined.any fun j => !j.2)

/-- Every record of every tile of the context has landed: those of this tile when they have run (R197). -/
def State.allLanded (s : State) (ctx : Nat) : Bool :=
  match s.ctxOf ctx with
  | some c => c.tiles.all fun t => t == s.own || c.landed.contains t
  | none => true

/-- EXCHANGE_LANDED (R197): the package acquire, and the superstep counts as completed. -/
def execExchangeLanded (ctx : Nat) (s : State) : Out :=
  match s.tile.wait with
  | .sstep .ran p n =>
    if s.tile.res.ctx != ctx || !s.allLanded ctx then .next s
    else
      let s := s.acquire.setCtx { s.tile.ctx with step := s.tile.ctx.step + 1 }
      let s := s.setRes { s.tile.res with listPos := 0 }
      .next (((s.watch ctx).updCtx ctx fun c => { c with joined := [], landed := [] }).setWait (.sstep .landed p n))
  | _ => .next s

/-- CYCLE value at which this tile is released (R197). -/
def State.releaseAt (s : State) (c : Word) : Word :=
  let x := s.own.toNat % 32
  let y := s.own.toNat / 32 % 32
  c + BitVec.ofNat 64 ((x + 32 * y) * (s.tile.ctx.stagger.toNat % 2 ^ 16))

/-- A tile of a context is in GATED or WAKING: the executing one by its power state, another one as the strip controllers report
that it sleeps (log 61). -/
def State.anyOff (s : State) (ctx : Nat) : Bool :=
  (s.tile.res.ctx == ctx && (s.tile.power.state == .gated || s.tile.power.state == .waking))
    || (s.ctxOf ctx).any fun c => c.asleep.any fun t => t != s.own

/-- The release value that the front end chooses when it declares a release: at least 2 µs from now, and at least 5 µs when
a tile of the context is GATED or WAKING (R325, R359; 2,400 CYCLE ticks to the µs, R7). -/
def State.releaseValue (s : State) (ctx : Nat) (cycle : Word) : Word :=
  let off := s.anyOff ctx
  let least := s.cycle.toNat + (if off then 12000 else 4800)
  if cycle.toNat < least then BitVec.ofNat 64 least else cycle

/-- The release wakes the tile: at once from HOLD, by way of the arbiter from GATED (Table 18.2, R358). -/
def State.roused (s : State) : State := if s.tile.power.state = .hold then s.enterPower .run else s.wakeUp

/-- BARRIER_RELEASE (R325): the release wakes this tile of the context (R358, R359). -/
def execBarrierRelease (ctx : Nat) (cycle : Word) (s : State) : Out :=
  let c := s.releaseValue ctx cycle
  let s := s.updCtx ctx fun x => { x with release := some c }
  if s.tile.res.ctx != ctx then .next s
  else match s.tile.wait with
    | .sstep .landed p n => .next ((s.setWait (.sstep (.releasing (s.releaseAt c)) p n)).roused)
    | _ =>
      if s.det && s.tile.ctx.step == 0 then .next (s.setRes { s.tile.res with startAt := some (s.releaseAt c) }).roused
      else .next s

/-- STAGGER_EXPIRE (R197). -/
def execStaggerExpire (s : State) : Out :=
  match s.tile.wait with
  | .sstep (.releasing at_) p n => if at_.toNat ≤ s.cycle.toNat then .next (s.setWait (.sstep .released p n)) else .next s
  | _ => .next s

/-- The buffer of a context on one of its tiles: the same vault offset on each (R315), or the one with which it was moved there
(R245). -/
def Ctx.buffer (c : Ctx) (t : BitVec 24) : Word :=
  if c.cxb = 0 then 0
  else ((c.moved.find? fun x => x.1 == t).map Prod.snd).getD (BitVec.ofNat 64 (coordBase t + c.cxb.toNat % 2 ^ 30))

/-- The tile holds the context: it is resident, and no TRET has saved it (R242). -/
def State.holds (s : State) (ctx : Nat) : Bool := s.tile.res.ctx == ctx && s.tile.wait != .load

/-- STEP + J of R246 of a context on this tile: J is 1 in a superstep that has been joined and has not completed. One that the
tile does not hold answers from its context buffer. -/
def State.cutAnswer (s : State) (c : Ctx) : Nat :=
  if s.holds c.id then
    s.tile.ctx.step.toNat + (match s.tile.wait with
      | .sstep .joined .. | .sstep .ran .. => 1
      | _ => 0)
  else if c.tiles.contains s.own && c.cxb != 0 then s.mem.readNat (cxbAddr (c.buffer s.own) + 0x40) 8
  else 0

/-- CUT_REQUEST (R246): K is the greatest of this tile's answer and those of the others, and PREEMPT pends where the context is
resident. One that is not resident has stopped already if it left the tile before the SSTEP of superstep K + 1; any other gets the
PREEMPT with its load. -/
def execCutRequest (ctx : Nat) (answers : List Nat) (s : State) : Out :=
  match s.ctxOf ctx with
  | none => .next s
  | some c =>
    if !c.det then .next s
    else
      let k := answers.foldl Nat.max (s.cutAnswer c)
      let away := !s.holds ctx && c.before.contains s.own && s.cutAnswer c == k
      let s := s.updCtx ctx fun c => { c with cut := some k, stopped := if away then [s.own] else [] }
      if !s.holds ctx then .next s
      else .next ((s.setRes { s.tile.res with cut := some k }).setPend { s.tile.pend with preempt := some 0 })

/-! ### BARJ, SLEEP (R199, R201) -/

/-- The barrier word after one more arrival. -/
def barrierNext (n old : Nat) : Nat :=
  let arr := old % 2 ^ 32
  let gen := old / 2 ^ 32 % 2 ^ 31
  if n ≤ arr + 1 then (gen + 1) % 2 ^ 31 * 2 ^ 32 else gen * 2 ^ 32 + (arr + 1) % 2 ^ 32

/-- BARJ (R199). -/
def execBarj (gd : Guard) (d a b : BitVec 5) (s : State) : Out :=
  cWord 0 gd s fun s =>
    let n := s.g b
    if n.toNat % 2 ^ 16 = 0 ∨ n.toNat / 2 ^ 16 ≠ 0 ∨ d = 0 then s.trapBundle Cause.illegalInstr
    else noTx s fun s =>
      let x := s.g d
      if !x.getLsbD 63 then
        releaseOnly s 3 fun s =>
          atomicAt s (s.g a) 8 8 false (fun old => some (barrierNext n.toNat old)) fun s old =>
            .next (((s.setG d (BitVec.ofNat 64 (2 ^ 63 + old % 2 ^ 63))).setWait .barj).waitHere .wait)
      else
        atomicAt s (s.g a) 8 8 false (fun _ => none) fun s now =>
          if now / 2 ^ 32 % 2 ^ 31 ≠ x.toNat / 2 ^ 32 % 2 ^ 31 then
            wakeThen s fun s => (s.setWait .idle).acquire.finishG d (x &&& ~~~((1 : Word) <<< 63))
          else .next ((s.setWait .barj).waitHere .wait)

/-- SLEEP (R201). -/
def execSleep (gd : Guard) (d a : BitVec 5) (s : State) : Out :=
  match s.tile.wait with
  | .sleep arrival result limit _ =>
    if arrival || result || limit then
      wakeThen s fun s => (s.setWait .idle).finishG d
        (BitVec.ofNat 64 ((if arrival then 1 else 0) + (if result then 2 else 0) + (if limit then 4 else 0)))
    else .next (s.waitHere .asleep)
  | _ =>
    cWord 0 gd s fun s => noTx s fun s =>
      let n := (s.g a).toNat % 2 ^ 32
      .next ((s.setWait (.sleep false false false (if n = 0 then none else some (s.cycle + BitVec.ofNat 64 n)))).waitHere
        .asleep)

/-- SLEEP_LIMIT_REACHED (R201). -/
def execSleepLimitReached (s : State) : Out :=
  match s.tile.wait with
  | .sleep _ _ _ (some u) => if u.toNat ≤ s.cycle.toNat then .next (s.noteSleep false false true) else .next s
  | _ => .next s

/-! ### Tasks (R202 to R204, R322) -/

/-- The fields of a task-queue descriptor at an address (R322): BASE, LOGN, HEAD, TAIL. -/
structure TaskQueue where
  base : Word
  logn : Nat
  head : BitVec 32
  tail : BitVec 32
  deriving DecidableEq, Repr

/-- Read a descriptor. -/
def readTaskQueue (m : Memory) (a : Nat) : TaskQueue :=
  { base := m.readWord a, logn := m.readNat (a + 8) 1 % 32
    head := BitVec.ofNat 32 (m.readNat (a + 16) 4), tail := BitVec.ofNat 32 (m.readNat (a + 20) 4) }

/-- The place of record `n` of a queue, as the die controller reaches it; none when BASE names none (log 20). -/
def State.taskSlot (s : State) (q : TaskQueue) (n : BitVec 32) : Option Nat :=
  match s.reach [] .store (ptrAdd q.base (BitVec.ofNat 64 (32 * (n.toNat % 2 ^ q.logn)))) 32 with
  | .mem a _ => some a
  | _ => none

/-- Append a record (R322); false when the queue is full. -/
def State.appendTask (s : State) (desc : Nat) (record : List Word) : State × Bool :=
  let s := s.dieRead desc 64
  let q := readTaskQueue s.mem desc
  if 2 ^ q.logn ≤ (q.tail - q.head).toNat then (s, false)
  else match s.taskSlot q q.tail with
    | none => (s, false)
    | some a => ((s.putWords a record).otherWrite (desc + 20) 4 (q.tail + 1).toNat 7 0, true)

/-- TASK_APPEND (R203, R204, R322): the append that this tile's TSPAWN waits for, a continuation on its way, or one of
another tile. A continuation that finds its queue full is kept. -/
def execTaskAppend (desc : Word) (record : List Word) (s : State) : Out :=
  let (s, ok) := s.appendTask (desc.toNat % 2 ^ 54) record
  if s.tile.wait = .append desc record then .next (s.setWait (.appendAnswer ok))
  else if ok then .next (s.setFe { s.hub.fe with pushes := s.hub.fe.pushes.eraseP fun x => x.2 == (desc, record) })
  else .next s

/-- A descriptor that a task instruction names: 64-byte aligned, in SPM or in a device vault (R322). -/
def queueAt (s : State) (p : Word) (k : State → Word → Out) : Out :=
  match s.resolve true .store p 64 64 with
  | .trap c v => s.trap false c v
  | .walk => s.wantWalk p
  | .blocked => .next (s.stall .resource)
  | .window _ => s.trap false Cause.misaligned p
  | .mem a _ => if hostBase ≤ a then s.trap false Cause.accessFault p else k s (meshPtr a)

/-- The four dwords of a record. -/
def recordDwords (r : BitVec 256) : List Word :=
  [r.extractLsb' 0 64, r.extractLsb' 64 64, r.extractLsb' 128 64, r.extractLsb' 192 64]

/-- TSPAWN (R203). -/
def execTspawn (gd : Guard) (d a b : BitVec 5) (s : State) : Out :=
  match s.tile.wait with
  | .appendAnswer ok => (s.setWait .idle).finishG d (if ok then 1 else 0)
  | .append _ _ => .next (s.stall .resource)
  | _ =>
    cWordIf 6 gd s (!s.det) fun s => noTx s fun s =>
      recordAt s (s.g a) fun s r =>
        queueAt s (s.g b) fun s desc =>
          releaseOnly s 3 fun s => .next ((s.setWait (.append desc (recordDwords r))).stall .resource)

/-- TJOIN (R203). -/
def execTjoin (gd : Guard) (d a b : BitVec 5) (s : State) : Out :=
  cWord 6 gd s fun s => noTx s fun s =>
    releaseOnly s 3 fun s =>
      atomicAt s (s.g a) 64 8 true (fun old => some ((old + (s.g b).toNat) % 2 ^ 64)) fun s old =>
        s.finishG d (BitVec.ofNat 64 old)

/-- The task has ended: the access half is idle in the dispenser wait (R204, R323). -/
def State.endTask (s : State) : State :=
  let s := s.passOwn
  let f := s.tile.front
  let s := s.setFront { f with apc := nextBundle f.apc, latch := none, skip := false, ast := .run }
  let s := (s.setStatusBit 2 true).waitHere .wait
  (s.watch s.tile.res.ctx).updCtx s.tile.res.ctx fun c => { c with idle := addOnce c.idle s.own }

/-- The continuation of a join block, on its way to the queue that its dword +8 names. -/
def State.pushContinuation (s : State) (a : Nat) : State :=
  let q := s.mem.readWord (a + 8)
  let desc := match s.reach [] .store q 64 with
    | .mem d _ => meshPtr d
    | _ => q
  s.setFe { s.hub.fe with pushes := s.hub.fe.pushes ++ [(s.tile.res.ctx, desc, s.mem.readWords (a + 32) 4)] }

/-- The home address of a join block that TDONE names. -/
def blockAt (s : State) (p : Word) (k : State → Nat → Out) : Out :=
  match s.resolve true .atomic p 64 64 with
  | .trap c v => s.trap false c v
  | .walk => s.wantWalk p
  | .blocked => .next (s.stall .resource)
  | .window _ => s.trap false Cause.misaligned p
  | .mem a _ =>
    if hostBase ≤ a then s.trap false Cause.accessFault p
    else if (s.firstBad a 64).isSome then s.trap false Cause.softError p
    else k s a

/-- TDONE (R204): every posted store of the tile is performed or rejected before held failures are taken (R88). -/
def execTdone (gd : Guard) (a : BitVec 5) (s : State) : Out :=
  cWordIf 6 gd s (!s.sup) fun s => noTx s fun s =>
    reportTile s fun s =>
      if !s.caughtUp || !s.seqIdle || !s.enginesIdle then .next (s.stall .wait)
      else releaseThen (s.flushPosted fun _ => true) 3 fun s =>
        let p := s.g a
        if p = 0 then .next s.endTask
        else blockAt s p fun s block =>
          atomicAt s p 64 8 false (fun old => if old = 0 then none else some (old - 1)) fun s old =>
            if old = 0 then s.trap false Cause.accessFault p
            else .next (if old = 1 then s.pushContinuation block else s).endTask

end Sys2Proof.Machine
end

