-- ==== Sys2Proof/Machine/System.lean ====
section
/-!
DEFINITION. The system group and the CSRs (R31 to R34, R66, R121, R172 to R175, Tables 1.8 to 1.15).
-/

namespace Sys2Proof.Machine

/-! ### The system group (Table 7.2) -/

/-- NOP (R66): guarded like every C-word, and charged. -/
def execNop (gd : Guard) (s : State) : Out := cWord 0 gd s fun s => .next s.retire

/-- HALT (R173). -/
def execHalt (gd : Guard) (s : State) : Out :=
  cWord 0 gd s fun s =>
    haltThen s fun s => s.stall .resource

/-- The bundle ends an iteration of an active loop body that another follows. -/
def State.loopsBack (s : State) : Bool :=
  let f := s.tile.front
  f.loop.lact && decide (f.apc = f.loop.last) && f.loop.lcnt != 0

/-- Complete the bundle in full, with the wait of R238 for a loop-back, and then trap (R172). -/
def completeThenTrap (s : State) (cause : BitVec 8) (value : Word) : Out :=
  let s := s.passOwn
  if !s.caughtUp && (s.txact || s.loopsBack) then .next (s.stall .resource)
  else s.retire.trap false cause value

/-- TRAP. -/
def execTrap (gd : Guard) (c : BitVec 15) (s : State) : Out :=
  cWord 0 gd s fun s => completeThenTrap s Cause.software (c.setWidth 64)

/-- EBRK. -/
def execEbrk (gd : Guard) (c : BitVec 15) (s : State) : Out :=
  cWord 0 gd s fun s => s.trap false Cause.brk (c.setWidth 64)

/-- YIELD. -/
def execYield (gd : Guard) (s : State) : Out :=
  cWord 0 gd s fun s => if s.sup then .next s.retire else completeThenTrap s Cause.preempt 1

/-- The check of a workspace pointer (R32): a cause where it fails. Bits [63:19] count as part of the offset that is checked, so a
value with one of them set traps ACCESS_FAULT (log 31). -/
def wpFault (v : Word) : Option (BitVec 8) :=
  if v.toNat % 64 ≠ 0 then some Cause.misaligned else if 0x77AC0 < v.toNat then some Cause.accessFault else none

/-- WPSW (R174). -/
def execWpsw (gd : Guard) (d a : BitVec 5) (s : State) : Out :=
  cWord 0 gd s fun s => noTx s fun s =>
    match wpFault (s.g a) with
    | some c => s.trap false c (s.g a)
    | none => passOrdered s (.wpsw d (s.g a))

/-! ### CSRs (Table 1.8) -/

/-- What a mode may do with a CSR. -/
inductive CsrAccess where
  | absent | ro | rw
  deriving DecidableEq, Repr

/-- Supervisor-only CSRs. -/
def supOnly (sup : Bool) : CsrAccess := if sup then .rw else .absent
/-- CSRs that task mode reads. -/
def supWrites (sup : Bool) : CsrAccess := if sup then .rw else .ro

/-- Table 1.8. -/
def csrAccess (sup : Bool) (n : BitVec 10) : CsrAccess :=
  match n.toNat with
  | 0x000 | 0x001 => supWrites sup
  | 0x002 => .ro
  | 0x003 | 0x004 | 0x005 | 0x006 | 0x007 | 0x008 | 0x009 | 0x00A => supOnly sup
  | 0x010 | 0x011 | 0x012 => .ro
  | 0x013 => supWrites sup
  | 0x014 => supOnly sup
  | 0x018 | 0x019 | 0x01A | 0x01B => .rw
  | 0x020 | 0x021 | 0x022 | 0x023 | 0x024 | 0x025 | 0x026 | 0x027 | 0x028 | 0x029 => supWrites sup
  | 0x030 | 0x031 | 0x032 => .ro
  | 0x033 => supWrites sup
  | 0x038 => .rw
  | 0x039 => .ro
  | 0x040 | 0x041 | 0x042 => supWrites sup
  | _ => .absent

/-- The RW bits of a CSR that supervisor mode, or the only mode that writes it, sees. A misaligned value of RGTB or SHTB is kept
as written (log 32). -/
def csrMask (n : BitVec 10) : Word :=
  match n.toNat with
  | 0x000 => 3
  | 0x004 => 0xFF
  | 0x008 => ~~~(7 : Word)
  | 0x018 => 0x013F3F07
  | 0x01A => 0xFFFFFFFF
  | 0x01B => 0x01FFFFFF
  | 0x020 => 0x8000FFFFFFFFFFFF
  | 0x021 | 0x022 | 0x023 | 0x024 | 0x025 | 0x026 | 0x027 | 0x028 => 0xFFFFF
  | 0x029 => 0xFFFFFFFF
  | 0x033 => 0xFFFF
  | 0x038 => 0xFFFFFFFE
  | 0x041 => 0xFFFFF
  | 0x042 => 0x7FFFF
  | _ => BitVec.allOnes 64

/-- Address of the progress word that EPC (`other` false) or EPCO names (R35). -/
def State.progressAddr (s : State) (other : Bool) : Nat :=
  let b := s.ownAddr (wsOffset s.tile.csr.ewp)
  let fh := (s.mem.readWord (b + 0x530)).getLsbD 4
  if fh != other then b + 0x510 else b + 0x508

/-- REM: whole µs of 2,400 CYCLE ticks (R7) that remain of an active lease, rounded up (R368). -/
def State.remaining (s : State) (x : Strip) : Nat :=
  if x.st = 1 then (x.rem.toNat * 2400 - (s.cycle - x.granted).toNat + 2399) / 2400 else 0

/-- LEASE (Table 1.14). -/
def State.leaseWord (s : State) : Word :=
  let x := s.hub.strips.get s.ownStrip.toFin
  (x.id.setWidth 64 <<< 48) ||| (BitVec.ofNat 64 (s.remaining x) <<< 16) ||| (if s.hub.power.refz then 8 else 0) ||| x.st.setWidth 64

/-- The index of EW0 to EW7. -/
def ewIndex (n : BitVec 10) : Fin 8 := ⟨(n.toNat - 0x21) % 8, by omega⟩

/-- The value of a CSR. A half sees its own state as RUN (R13). -/
def State.csrRead (s : State) (n : BitVec 10) : Word :=
  let c := s.tile.csr
  let x := s.tile.ctx
  match n.toNat with
  | 0x000 => s.statusImage false &&& ~~~(0x700 : Word)
  | 0x001 => c.wp
  | 0x002 => (Config.shadowV.setWidth 64 <<< 8) ||| Config.shadowG.setWidth 64
  | 0x003 => c.swp
  | 0x004 => c.ecause
  | 0x005 => c.eval
  | 0x006 => s.mem.readWord (s.progressAddr false)
  | 0x007 => s.mem.readWord (s.progressAddr true)
  | 0x008 => c.evec
  | 0x009 => c.escr
  | 0x00A => c.ewp
  | 0x010 => c.coord
  | 0x011 => c.pcoord
  | 0x012 => s.cycle
  | 0x013 => x.step
  | 0x014 => c.snapAt
  | 0x018 => x.fcsr
  | 0x019 => x.seedk
  | 0x01A => x.seeds
  | 0x01B => x.srfix
  | 0x020 => x.energy
  | 0x029 => c.ews
  | 0x030 => s.hub.power.melt.setWidth 64
  | 0x031 => s.leaseWord
  | 0x032 => x.pgrant
  | 0x033 => x.stagger
  | 0x038 => x.depmask
  | 0x039 => x.mallow
  | 0x040 => x.shtb
  | 0x041 => x.shtn
  | 0x042 => x.rgtb
  | _ => c.ew.get (ewIndex n)

/-- FCSR after a write: a write of RM codes 5 to 7 leaves RM unchanged (Table 1.13). -/
def fcsrWrite (old v : Word) : Word :=
  let v := v &&& csrMask 0x018
  if 4 < v.toNat % 8 then (v &&& ~~~(7 : Word)) ||| (old &&& 7) else v

/-- Write a CSR whose mode may write it; read-only bits keep their values (R5). -/
def State.csrWrite (s : State) (n : BitVec 10) (v : Word) : State :=
  let c := s.tile.csr
  let x := s.tile.ctx
  let m := v &&& csrMask n
  match n.toNat with
  | 0x000 => s.setCsr { c with status := (c.status &&& ~~~(3 : Word)) ||| m }
  | 0x001 => s.switchWp v
  | 0x003 => s.setCsr { c with swp := v }
  | 0x004 => s.setCsr { c with ecause := m }
  | 0x005 => s.setCsr { c with eval := v }
  | 0x006 => s.writeHome (s.progressAddr false) 8 v.toNat 7 0
  | 0x007 => s.writeHome (s.progressAddr true) 8 v.toNat 7 0
  | 0x008 => s.setCsr { c with evec := m }
  | 0x009 => s.setCsr { c with escr := v }
  | 0x00A => s.setCsr { c with ewp := v }
  | 0x013 => s.setCtx { x with step := v }
  | 0x014 => s.setCsr { c with snapAt := v, snapArmed := decide (s.cycle.toNat < v.toNat) }
  | 0x018 => s.setCtx { x with fcsr := fcsrWrite x.fcsr v }
  | 0x019 => s.setCtx { x with seedk := v }
  | 0x01A => s.setCtx { x with seeds := m }
  | 0x01B => s.setCtx { x with srfix := m }
  | 0x020 => s.setCtx { x with energy := m }
  | 0x029 => s.setCsr { c with ews := m }
  | 0x033 => s.setCtx { x with stagger := m }
  | 0x038 => s.setCtx { x with depmask := m }
  | 0x040 => s.setCtx { x with shtb := v }
  | 0x041 => s.setCtx { x with shtn := m }
  | 0x042 => s.setCtx { x with rgtb := m }
  | _ => s.setCsr { c with ew := c.ew.set (ewIndex n).val m (ewIndex n).isLt }

/-- FCSR, SEEDK, SEEDS and SRFIX (R121). -/
def csrOrdered (n : BitVec 10) : Bool := decide (0x018 ≤ n.toNat) && decide (n.toNat ≤ 0x01B)

/-- WP, SWP and EWP (R32). -/
def csrPointer (n : BitVec 10) : Bool := n == 0x001 || n == 0x003 || n == 0x00A

/-- A CSR instruction (R31, R175): an access that the mode lacks traps before it is charged, with the CSR number in
EVAL. The old value holds every earlier charge and not the instruction's own (R371). -/
def csrOp (gd : Guard) (n : BitVec 10) (s : State) (effect : State → Word → Out) : Out :=
  if s.queueFull then .next (s.stall .resource)
  else if !s.guardC gd then .next (s.begin 0).retire
  else if csrAccess s.sup n = .absent then s.trap false Cause.illegalInstr (n.setWidth 64)
  else effect (s.begin 0) (s.csrRead n)

/-- CSRR: one of the execute half's CSRs is read when it has caught up (R121). -/
def execCsrr (gd : Guard) (d : BitVec 5) (n : BitVec 10) (s : State) : Out :=
  csrOp gd n s fun s old =>
    if csrOrdered n && !s.caughtUp then .next (s.stall .resource) else s.finishG d old

/-- Write a new value to a CSR and the old one to gd. A write of WP takes effect at the next bundle, once the execute
half has issued the A-words of this one (R32, log 16). -/
def csrPut (s : State) (d : BitVec 5) (n : BitVec 10) (old new : Word) : Out :=
  if csrAccess s.sup n = .ro then s.finishG d old
  else if csrOrdered n then passOrdered s (.csr d n new)
  else match (if csrPointer n then wpFault new else none) with
    | some c => s.trap false c new
    | none =>
      if n = 0x001 then
        let s := s.passOwn
        if s.caughtUp then .next ((s.setG d old).retire.csrWrite n new) else .next (s.stall .resource)
      else .next (((s.csrWrite n new).setG d old).retire)

/-- CSRW. -/
def execCsrw (gd : Guard) (d a : BitVec 5) (n : BitVec 10) (s : State) : Out :=
  csrOp gd n s fun s old => csrPut s d n old (s.g a)

/-- CSRS. -/
def execCsrs (gd : Guard) (d a : BitVec 5) (n : BitVec 10) (s : State) : Out :=
  csrOp gd n s fun s old => csrPut s d n old (old ||| (s.g a &&& csrMask n))

/-- CSRC. -/
def execCsrc (gd : Guard) (d a : BitVec 5) (n : BitVec 10) (s : State) : Out :=
  csrOp gd n s fun s old => csrPut s d n old (old &&& ~~~(s.g a &&& csrMask n))

/-! ### Ordered operations (R114, R238) -/

/-- The execute half has performed the ordered operation; its bundle completes. -/
def State.endOrdered (s : State) : State := (s.setFront { s.tile.front with ordered := none, xst := .run }).retire

/-- ORDERED_OP_EXECUTE (R113, R114, R121, R174). -/
def execOrderedOpExecute (s : State) : Out :=
  if s.orderedWaits then .next (s.stallX .port)
  else match s.tile.front.ordered with
    | some (.bind x kind src) => .next (s.setBinding x { kind := kind, src := src }).endOrdered
    | some (.unbind x) => .next ((s.clearPort x).setBinding x { kind := 0, src := 0 }).endOrdered
    | some (.pdrop x n) => .next (s.popMany x n.toNat).endOrdered
    | some (.csr d n v) => .next ((s.csrWrite n v).setG d (s.csrRead n)).endOrdered
    | some (.wpsw d v) => .next ((s.switchWp v).setG d s.tile.csr.wp).endOrdered
    | _ => .next s

end Sys2Proof.Machine
end

