-- ==== Sys2Proof/Machine/Context.lean ====
section
/-!
DEFINITION. Asynchronous traps, context switch: saving and loading the tile-local state, TRET, the save timeout, and
what raises the pending causes (R37 to R39, R102, R110, R157, R235 to R249).
-/

namespace Sys2Proof.Machine

/-! ### Asynchronous traps (R236, R237, Table 9.2) -/

/-- The pending causes in the order of Table 9.2: cause, value, and what is pending after it is taken. -/
def Pending.list (p : Pending) : List (BitVec 8 × Option Word × Pending) :=
  [(Cause.gangBreak, p.gangBreak, { p with gangBreak := none }),
   (Cause.leaseExpiry, p.lease, { p with lease := none }),
   (Cause.capBreach, p.capBreach, { p with capBreach := none }),
   (Cause.scopeMiss, p.scopeMiss, { p with scopeMiss := none }),
   (Cause.allAsleep, p.allAsleep, { p with allAsleep := none }),
   (Cause.brk, p.snapshot, { p with snapshot := none }),
   (Cause.preempt, p.preempt, { p with preempt := none })]

/-- IE gates the cause (Table 9.2). -/
def ieGated (c : BitVec 8) : Bool := c == Cause.allAsleep || c == Cause.brk || c == Cause.preempt

/-- The first eligible pending cause; a deterministic tile takes PREEMPT at SSTEP only (R241). -/
def State.asyncCause (s : State) : Option (BitVec 8 × Word × Pending) :=
  s.tile.pend.list.findSome? fun (c, v, rest) =>
    match v with
    | none => none
    | some v => if (ieGated c && !s.ie) || (c == Cause.preempt && s.det) then none else some (c, v, rest)

/-- The access half stands where an asynchronous trap can be taken: at a boundary, or in a wait that has committed
nothing, with no trap that the execute half holds (R171, R237). -/
def State.atBoundary (s : State) : Bool :=
  !s.sup && s.tile.front.started && s.tile.front.ast != .halted && s.tile.front.xtrap.isNone && !s.midTransfer
    && !(s.loopPending && s.caughtUp)
    && (match s.tile.wait with
      | .idle | .sleep .. | .commit | .gang _ | .ring .. | .lease .. | .leaseAnswer _ | .append .. => true
      | _ => false)

/-- ASYNC_TRAP (R236): an open transaction is aborted first (R181). -/
def execAsyncTrap (s : State) : Out :=
  match s.asyncCause with
  | none => .next s
  | some (c, v, rest) =>
    if !s.atBoundary || (s.txact && !s.caughtUp) then .next s
    else wakeThen s fun s =>
      let s := s.setPend rest
      let s := if s.txact then s.txAbort 5 c else s
      .next (s.takeTrap false c v)

/-- Keep the first value of a pending cause (R236). -/
def firstOf (old : Option Word) (v : Word) : Option Word := some (old.getD v)

/-- PREEMPT_REQUEST (R241). -/
def execPreemptRequest (s : State) : Out :=
  .next (s.setPend { s.tile.pend with preempt := firstOf s.tile.pend.preempt 0 })

/-- The pending causes of a record (R242). -/
def State.storedPend (s : State) (cxb : Word) : List Word := s.mem.readWords (cxbAddr cxb + 0x2D80) 8

/-- The pending-cause record (R242): the mask, and the values of the six causes; PREEMPT is discarded. -/
def Pending.words (p : Pending) : List Word :=
  let l := (p.list.take 6).map fun x => (x.1, x.2.1)
  BitVec.ofNat 64 ((l.map fun x => if x.2.isSome then 2 ^ x.1.toNat else 0).sum) :: (l.map fun x => x.2.getD 0) ++ [0]

/-- Make a stored cause pending again, merged with one that is (R236). -/
def pendAgain (mask : Word) (c : BitVec 8) (v : Word) (old : Option Word) : Option Word :=
  if mask.getLsbD c.toNat then firstOf (some v) (old.getD v) else old

/-- The pending causes after a load. -/
def Pending.load (p : Pending) (w : List Word) : Pending :=
  let m := w.getD 0 0
  { p with
    gangBreak := pendAgain m Cause.gangBreak (w.getD 1 0) p.gangBreak
    lease := pendAgain m Cause.leaseExpiry (w.getD 2 0) p.lease
    capBreach := pendAgain m Cause.capBreach (w.getD 3 0) p.capBreach
    scopeMiss := if m.getLsbD Cause.scopeMiss.toNat then
        some (match p.scopeMiss with
          | some n => mergeMiss (some (w.getD 4 0)) n
          | none => w.getD 4 0) else p.scopeMiss
    allAsleep := pendAgain m Cause.allAsleep (w.getD 5 0) p.allAsleep
    snapshot := pendAgain m Cause.brk (w.getD 6 0) p.snapshot }

/-- No cause pends. -/
def Pending.none : Pending :=
  { gangBreak := .none, lease := .none, capBreach := .none, scopeMiss := .none, allAsleep := .none, snapshot := .none, preempt := .none }

/-- A cause arises for the resident context. Between the end of its save and the load of the next context it joins the
causes that the save has stored (R242). -/
def State.raise (s : State) (f : Pending → Pending) : State :=
  if s.tile.wait == .load then
    if s.tile.res.cxb = 0 then s
    else s.putWords (cxbAddr s.tile.res.cxb + 0x2D80) (f (Pending.none.load (s.storedPend s.tile.res.cxb))).words
  else s.setPend (f s.tile.pend)

/-- SNAPAT_MATCH (R247). -/
def execSnapatMatch (s : State) : Out :=
  let c := s.tile.csr
  if !c.snapArmed || c.snapAt = 0 || c.snapAt ≠ s.cycle then .next s
  else
    let v : Word := ((1 : Word) <<< 63) ||| (c.snapAt &&& 0x7FFFFFFFFFFFFFFF)
    let s := s.latchSnapshot
    let s := s.setCsr { s.tile.csr with snapAt := 0, snapArmed := false }
    .next (s.raise fun p => { p with snapshot := firstOf p.snapshot v })

/-- The execute half is idle or waits only on ports. -/
def State.executeIdle (s : State) : Bool := s.caughtUp || s.tile.front.xst == .port

/-- This tile counts as asleep (R201, R248); none does during a debug halt (R397). -/
def State.countsAsleep (s : State) : Bool :=
  !s.hub.snap.frozen && s.tile.front.ast == .asleep && s.executeIdle && (match s.tile.wait with
    | .sleep _ _ _ u => u.isNone
    | _ => true)

/-- A copy can move: a row of a stream into a port with room, or bytes to a page that is not write-blocked, with room for its
result. -/
def State.copyMoves (s : State) (c : Cmd) : Bool :=
  match c with
  | .copy dst _ ctrl i held =>
    if ctrlStrm ctrl && decide (i < ctrlLen ctrl) then (s.boundPort 3 ((ctrlCh ctrl).setWidth 4)).any s.portRoom
    else s.copyRoom ctrl && (decide (ctrlLen ctrl ≤ i) || s.reach held .store (ptrAdd dst (BitVec.ofNat 64 i)) 1 != .blocked)
  | _ => false

/-- Engine 0 can move: a row into a port with room, a row out of one that holds some, or the oldest copy of a channel; a command
that waits on its port, its page or an older command has no packet on its way. -/
def State.engineMoves (s : State) : Bool :=
  let cs := s.tile.eng.fifo0
  cs.zipIdx.any fun x =>
    match x.1 with
    | .ldq p .. | .movx p _ => s.portRoom p.toFin
    | .stq p next _ _ held =>
      !(s.tile.ports.outq.get p.toFin).isEmpty && (s.rowBlocked held next (storePieces (rowFormat next))).isNone
    | .copy .. => oldestOfChannel cs x.2 && s.copyMoves x.1

/-- The tile sequencer runs an instruction of the tile's context; one whose commit a write-blocked page stalls has no packet on its
way, and a collective is engine 1's. -/
def State.seqMoves (s : State) : Bool :=
  s.tile.seq.blocked.isNone && (match s.tile.seq.running with
    | none | some (.child ..) | some .collective => false
    | some _ => true)

/-- A Sweut command of the tile is on its way: one in rendezvous waits for other packages with no packet. -/
def State.busMoves (s : State) : Bool := s.tile.eng.fifo1.any fun c => c.owner == 0 && c.phase != .joined

/-- Nothing of the context is on its way (R248). -/
def State.nothingInFlight (s : State) (c : Ctx) : Bool :=
  c.inFlight == 0 && s.tile.net.sent.isEmpty && !s.tile.net.waiting.any s.isFor && s.tile.path.posted.isEmpty
    && !s.engineMoves && !s.busMoves && !s.seqMoves && !s.hub.fe.pushes.any fun x => x.1 == c.id

/-- Every tile of a context counts as asleep. -/
def State.allAsleep (s : State) (c : Ctx) : Bool :=
  c.tiles.all fun t =>
    if t = s.own then s.tile.res.ctx == c.id && s.countsAsleep else c.asleep.contains t

/-- The lowest-numbered tile by die, then Y, then X. -/
def lowestTile : List (BitVec 24) → BitVec 24
  | [] => 0
  | [t] => t
  | t :: r => let m := lowestTile r; if t.toNat ≤ m.toNat then t else m

/-- ALL_ASLEEP_DETECT (R248). -/
def execAllAsleepDetect (ctx : Nat) (s : State) : Out :=
  match s.ctxOf ctx with
  | none => .next s
  | some c =>
    if s.allAsleep c && s.nothingInFlight c && lowestTile c.tiles == s.own then
      .next (s.raise fun p => { p with allAsleep := firstOf p.allAsleep s.cycle })
    else .next s

/-! ### The context buffer (Tables 1.9, 1.16, 4.8, 6.10, 6.12, 7.6) -/

/-- The saved record of a command of engine 0. -/
def Cmd.words : Cmd → List Word
  | .ldq p next stride left _ => [next, stride, BitVec.ofNat 64 (left + p.toNat * 256), (0x01 : Word) <<< 56]
  | .stq p next stride left _ => [next, stride, BitVec.ofNat 64 (left + p.toNat * 256), (0x02 : Word) <<< 56]
  | .movx p v => [v, 0, BitVec.ofNat 64 (1 + p.toNat * 256), (0x03 : Word) <<< 56]
  | .copy dst src ctrl i _ =>
    let n := min i (ctrlLen ctrl)
    [if ctrlStrm ctrl then dst else ptrAdd dst (BitVec.ofNat 64 n), ptrAdd src (BitVec.ofNat 64 n), ctrl - BitVec.ofNat 64 n,
      (0x05 : Word) <<< 56]

/-- A command of engine 0 from its record; none for a TYPE that no save writes. -/
def cmdFrom (w : List Word) : Option Cmd :=
  let a := w.getD 0 0
  let b := w.getD 1 0
  let c := w.getD 2 0
  match (w.getD 3 0).toNat / 2 ^ 56 with
  | 0x01 => some (.ldq (c.extractLsb' 8 3) a b (c.toNat % 256) [])
  | 0x02 => some (.stq (c.extractLsb' 8 2) a b (c.toNat % 256) [])
  | 0x03 => some (.movx (c.extractLsb' 8 3) a)
  | 0x05 => some (.copy a b c 0 [])
  | _ => none

/-- The saved record of an entry of the sequencer's queue, with the held report in the first. -/
def SeqEntry.words (held : Option Report) : SeqEntry → List Word
  | .insn i => [i.insn, i.addr, (held.map Report.value).getD 0,
      ((held.map Report.cause).getD 0).setWidth 64 ||| ((0x10 : Word) <<< 56)]
  | .marker tag => [tag.setWidth 64, 0, 0, (0x11 : Word) <<< 56]

/-- The sampled values of an entry (Table 6.12). -/
def SeqEntry.sampled : SeqEntry → List Word
  | .insn i => [i.seedk, i.seeds &&& 0xFFFFFFFF, i.srfix &&& 0x1FFFFFF, i.rm.setWidth 64 ||| (if i.ftz then 8 else 0)]
  | .marker _ => [0, 0, 0, 0]

/-- An entry of the sequencer's queue from its records. -/
def seqFrom (w v : List Word) : Option SeqEntry :=
  match (w.getD 3 0).toNat / 2 ^ 56 with
  | 0x10 => some (.insn { insn := w.getD 0 0, addr := w.getD 1 0, seedk := v.getD 0 0, seeds := v.getD 1 0
                          srfix := v.getD 2 0, rm := (v.getD 3 0).setWidth 3, ftz := (v.getD 3 0).getLsbD 3 })
  | 0x11 => some (.marker ((w.getD 0 0).setWidth 32))
  | _ => none

/-- Pad a list of dwords with zeros to a length. -/
def padTo (n : Nat) (l : List Word) : List Word := (l ++ List.replicate (n - l.length) 0).take n

/-- The bits of the context-scope CSRs that are not reserved, in the order of Table 1.16 (Tables 1.8, 1.13, 1.15). -/
def ctxCsrMasks : List Word :=
  [BitVec.allOnes 64, 0x013F3F07, BitVec.allOnes 64, 0xFFFFFFFF, 0x1FFFFFF, 0x8000FFFFFFFFFFFF, 0x1FFFFFF, 0xFFFF, 0xFFFFFFFE, 0xF,
   BitVec.allOnes 64, 0xFFFFF, 0x7FFFF]

/-- The context-scope CSRs in the order of Table 1.16, reserved bits zero; MALLOW is written as 8 (R39). -/
def CtxCsrs.words (x : CtxCsrs) : List Word :=
  List.zipWith (· &&& ·) ctxCsrMasks
    [x.step, x.fcsr, x.seedk, x.seeds, x.srfix, x.energy, x.pgrant, x.stagger, x.depmask, 8, x.shtb, x.shtn, x.rgtb]

/-- The context-scope CSRs from their images: reserved bits stay zero, and MALLOW is 8 whatever the buffer holds (R39). -/
def ctxCsrsFrom (image : List Word) : CtxCsrs :=
  let w := List.zipWith (· &&& ·) ctxCsrMasks image
  { step := w.getD 0 0, fcsr := w.getD 1 0, seedk := w.getD 2 0, seeds := w.getD 3 0, srfix := w.getD 4 0
    energy := w.getD 5 0, pgrant := w.getD 6 0, stagger := w.getD 7 0, depmask := w.getD 8 0, mallow := 8
    shtb := w.getD 10 0, shtn := w.getD 11 0, rgtb := w.getD 12 0 }

/-- Binding words with their levels. -/
def State.bindingWords (s : State) : List Word :=
  (List.finRange 12).map fun i => s.bindingWord i (BitVec.ofNat 5 (16 + i.val))

/-- The report that a save stores with the head of the queue: one that has not been taken. -/
def State.liveReport (s : State) : Option Report :=
  match s.tile.seq.held with
  | some r => if r.taken then none else some r
  | none => none

/-- Records of the sequencer's queue: the report goes with the first. -/
def seqWords (held : Option Report) : List SeqEntry → List (List Word)
  | [] => []
  | x :: r => x.words held :: r.map fun y => y.words none

/-- Write a value of `n` bytes for each element of a list. -/
def layNats (m : Memory) (a n : Nat) : List Nat → Memory
  | [] => m
  | v :: r => layNats (m.writeNat a n v) (a + n) n r

/-- The entries of an in port as pairs of row and side band in one number of 80 bytes. -/
def portNats (l : List PortEntry) : List Nat :=
  ((l.map fun (e : PortEntry) => e.row.toNat + e.side.toNat * 2 ^ 512) ++ List.replicate (8 - l.length) 0).take 8

/-- Bytes of the 85 slots of a bank; the rest of its image is zero (R143). -/
def bankBytes : Nat := 85 * 576

/-- Memory with the tile-local state written at a buffer (Table 1.9); the spill region keeps what it holds. -/
def State.saveImage (s : State) (b : Nat) : Memory :=
  let t := s.tile
  let m := s.mem.writeWords b [BitVec.ofNat 64 (1 + t.csr.ecause.toNat % 256 * 256)]
  let m := (m.writeWords (b + 0x40) t.ctx.words).clear (b + 0xA8) 0x98
  let m := layNats m (b + 0x140) 4 (t.regs.h.toList.map BitVec.toNat)
  let m := layNats m (b + 0x180) 2 (t.regs.c.toList.map BitVec.toNat)
  let m := m.writeWords (b + 0x200) t.regs.m.toList
  let m := layNats m (b + 0x240) 4 (t.front.rpt.words.toList.map BitVec.toNat)
  let m := m.writeWords (b + 0x280) s.bindingWords
  let m := layNats m (b + 0x300) 80 (t.ports.inq.toList.flatMap portNats)
  let m := layNats m (b + 0x1700) 64 (t.ports.outq.toList.flatMap fun l =>
    ((l.map BitVec.toNat) ++ List.replicate (8 - l.length) 0).take 8)
  let m := layNats m (b + 0x1F00) 128 (t.regs.acc.toList.map BitVec.toNat)
  let m := m.writeWords (b + 0x2700) (padTo 64 t.net.inbox)
  let m := m.writeWords (b + 0x2900) (t.eng.res.toList.flatMap (padTo 8))
  let m := m.writeNat (b + 0x29C0) 64 t.matrix.cfg.toNat
  let m := m.writeWords (b + 0x2A00) (padTo 32 (t.eng.fifo0.flatMap Cmd.words)
    ++ padTo 32 ((t.eng.fifo1.filter fun c => !c.tile).flatMap fun c => recordDwords c.desc)
    ++ padTo 32 (seqWords s.liveReport t.seq.queue).flatten)
  let m := m.writeWords (b + 0x2D00) t.front.rpt.addrs.toList
  let m := m.writeWords (b + 0x2D80) t.pend.words
  let m := m.writeWords (b + 0x2DC0) (padTo 32 (t.seq.queue.flatMap SeqEntry.sampled))
  let m := m.writeWords (b + 0x2EC0) (t.eng.held.toList.map fun x => x.getD 0)
  let m := m.writeWords (b + 0x2ED8) [BitVec.ofNat 64 (t.net.inbox.length + t.net.lead * 256)]
  let m := m.clear (b + 0x2EE0) (0x4000 - 0x2EE0)
  let m := (m.clear (b + 0x4000) 0xC000).lay (b + 0x4000) (t.matrix.bankA.slice 0 bankBytes)
  (m.clear (b + 0x10000) 0xC000).lay (b + 0x10000) (t.matrix.bankB.slice 0 bankBytes)

/-- The lines of a buffer leave the L1, its tags and its errors go: it is written and read at its home. -/
def State.evictBuffer (s : State) (b : Nat) : State :=
  let inBuf (a : Nat) : Bool := decide (b ≤ a) && decide (a < b + 0x20000)
  (s.tile.path.l1.filter fun l => inBuf l.addr).foldl (fun s l => s.evictLine l.addr) s

/-- The active bank: 1 is B. -/
def cfgSel (c : Row) : BitVec 1 := c.extractLsb' 56 1
/-- Replace a field of an image. -/
def cfgPut (c : Row) (pos width : Nat) (v : Nat) : Row :=
  (c &&& ~~~(BitVec.ofNat 512 ((2 ^ width - 1) * 2 ^ pos))) ||| BitVec.ofNat 512 (v % 2 ^ width * 2 ^ pos)

/-- TMMA or TMM. -/
def borrowingTop (insn : Word) : Bool :=
  let top := insn.toNat / 2 ^ 24 % 64
  top == 2 || top == 3

/-- TMMA or TMM. -/
def SeqInsn.borrows (i : SeqInsn) : Bool := borrowingTop i.insn

/-- TMMA or TMM in the queue. -/
def SeqEntry.borrows : SeqEntry → Bool
  | .insn i => i.borrows
  | .marker _ => false

/-- A part of a TMMA or TMM of a TILE packet runs on this tile. -/
def State.childBorrows (s : State) : Bool :=
  match s.tile.seq.running with
  | some (.child n _) => ((s.ctxOf n).bind Ctx.run).any fun r => borrowingTop (r.insns.headD 0)
  | _ => false

/-- The instruction that runs borrows the matrix unit (R158). -/
def State.runningBorrows (s : State) : Bool :=
  s.childBorrows || (s.tile.seq.running.isSome && (s.tile.seq.queue.head?.any SeqEntry.borrows))

/-- `n` bytes written at their homes by an engine, the hub or the front end: fresh check bits, and no release level (R226, R298). -/
def State.freshBlock (s : State) (a n : Nat) : State :=
  let s := (s.txHits a n false).clearBad a n
  s.setHub { s.hub with tags := s.hub.tags.filter fun t => !meets a n t.line 64 }

/-- Store the accumulators, both banks and SEL at their places in the context buffer (R158, Table 1.9). -/
def State.storeMatrix (s : State) : State :=
  let cxb := s.tile.res.cxb
  if cxb = 0 then s
  else
    let b := cxbAddr cxb
    let s := s.evictBuffer b
    let m := layNats s.mem (b + 0x1F00) 128 (s.tile.regs.acc.toList.map BitVec.toNat)
    let m := m.write (b + 0x29C0 + 7) ((m.read (b + 0x29C0 + 7) &&& ~~~(1 : Byte)) ||| (cfgSel s.tile.matrix.cfg).setWidth 8)
    let m := (m.clear (b + 0x4000) 0xC000).lay (b + 0x4000) (s.tile.matrix.bankA.slice 0 bankBytes)
    let m := (m.clear (b + 0x10000) 0xC000).lay (b + 0x10000) (s.tile.matrix.bankB.slice 0 bankBytes)
    (((s.setMem m).freshBlock (b + 0x1F00) 0x800).freshBlock (b + 0x29C0) 64).freshBlock (b + 0x4000) 0x18000

/-- Every word of the weight buffer has fresh check bits, when what it held has been stored or replaced (R296, log 42). -/
def State.clearWeights (s : State) : State :=
  let here (p : ErrorPlace) : Bool := match p with
    | .weight .. => true
    | _ => false
  s.setErrors { s.hub.errors with bad := s.hub.errors.bad.filter fun p => !here p, soft := s.hub.errors.soft.filter fun p => !here p }

/-- The borrowed matrix state comes back after a commit, a fault or an abandonment: from the context buffer, or as zeros
without one (R157, R158). -/
def State.returnMatrix (s : State) : State :=
  let cxb := s.tile.res.cxb
  let s := s.clearWeights
  if cxb = 0 then
    (s.setRegs { s.tile.regs with acc := .replicate 16 0 }).setMatrix
      { cfg := cfgPut s.tile.matrix.cfg 56 1 0, bankA := [], bankB := [] }
  else
    let b := cxbAddr cxb
    let s := s.evictBuffer b
    let m := s.mem
    (s.setRegs { s.tile.regs with acc := Vector.ofFn fun i : Fin 16 => BitVec.ofNat 1024 (m.readNat (b + 0x1F00 + 128 * i.val) 128) }).setMatrix
      { cfg := cfgPut s.tile.matrix.cfg 56 1 (m.readNat (b + 0x29C7) 1), bankA := m.slice (b + 0x4000) bankBytes
        bankB := m.slice (b + 0x10000) bankBytes }

/-- Save reason and parts at a CXB. -/
def State.writeBuffer (s : State) (cxb : Word) : State :=
  let b := cxbAddr cxb
  let s := s.evictBuffer b
  (s.setMem (s.saveImage b)).freshBlock b 0x1C000

/-- The tile-local state is discarded (R242). -/
def State.discardLocal (s : State) : State :=
  let t := s.tile
  let s := s.setRegs { t.regs with c := .replicate 16 0, h := .replicate 16 0, acc := .replicate 16 0, m := .replicate 8 0 }
  let s := s.setMatrix { cfg := 0, bankA := [], bankB := [] }
  let s := s.setPorts { acc := .replicate 12 ⟨0, 0⟩, exe := .replicate 12 ⟨0, 0⟩, inq := .replicate 8 [], outq := .replicate 4 [] }
  let s := s.setCtx .reset
  let s := s.setEng { fifo0 := [], fifo1 := t.eng.fifo1.filter fun c => c.owner != 0
                      res := .replicate 3 [], held := .replicate 3 none }
  let s := s.setSeq { queue := [], running := none, held := none, stopped := false, blocked := none }
  let s := s.setNet { t.net with inbox := [], lead := 0, arrived := false, sent := [] }
  let s := s.setPend .none
  let s := s.setFront { t.front with rpt := { t.front.rpt with words := .replicate 16 0, addrs := .replicate 16 0 } }
  s.setPath { t.path with failures := [], tx := none }

/-- A CXB that a load accepts (Table 1.2, R242). -/
def cxbOk (cxb : Word) : Bool :=
  let off := cxb.toNat % 2 ^ 27
  decide (cxb.toNat / 2 ^ 54 = 0) && decide (cxb.toNat / 2 ^ 27 % 8 = 0) && decide (cxb.toNat % 4096 = 0)
    && decide (cxb.toNat / 2 ^ 35 % 32 ≠ 31) && decide (2 ^ 26 ≤ off) && decide (off + 0x20000 ≤ 2 ^ 27)

/-- The eight records of four dwords of an engine. -/
def recordsOf (ws : List Word) : List (List Word) := (List.range 8).map fun i => (ws.drop (4 * i)).take 4

/-- A record of zeros is no command. -/
def isRecord (w : List Word) : Bool := w.any fun x => x != 0

/-- Every record parses. -/
def allSome {α : Type} : List (Option α) → Option (List α)
  | [] => some []
  | some x :: r => (allSome r).map fun l => x :: l
  | none :: _ => none

/-- The unstarted commands of a buffer, the Sweut commands as their descriptors; none where one has a TYPE that no save writes. -/
def buffered (m : Memory) (b : Nat) : Option (List Cmd × List (BitVec 256) × List SeqEntry) :=
  let e0 := (recordsOf (m.readWords (b + 0x2A00) 32)).filter isRecord
  let e1 := (recordsOf (m.readWords (b + 0x2B00) 32)).filter isRecord
  let e2 := (recordsOf (m.readWords (b + 0x2C00) 32)).zip (recordsOf (m.readWords (b + 0x2DC0) 32)) |>.filter fun x => isRecord x.1
  match allSome (e0.map cmdFrom), allSome (e2.map fun x => seqFrom x.1 x.2) with
  | some c, some q => some (c, e1.map fun w => BitVec.ofNat 256 (joinNat 64 (w.map BitVec.toNat)), q)
  | _, _ => none

/-- The report stored with the head of a buffer's sequencer queue. -/
def bufferedReport (m : Memory) (b : Nat) : Option Report :=
  let c := m.readNat (b + 0x2C18) 1
  if m.readNat (b + 0x2C1F) 1 = 0x10 ∧ c ≠ 0 then
    some { cause := BitVec.ofNat 8 c, value := m.readWord (b + 0x2C10), head := decide (c ≠ 0x0B), taken := false }
  else none

/-- The result FIFOs of a buffer: an element has V = 1. -/
def bufferedResults (m : Memory) (b : Nat) (e : Nat) : List Word :=
  (m.readWords (b + 0x2900 + 64 * e) 8).filter fun x => x != 0

/-- The bindings of a buffer. -/
def bufferedBinding (m : Memory) (b : Nat) (i : Fin 12) : Binding :=
  let w := m.readWord (b + 0x280 + 8 * i.val)
  { kind := w.setWidth 4, src := w.extractLsb' 8 4 }

/-- The level of a buffer's port. -/
def bufferedLevel (m : Memory) (b i : Nat) : Nat := min 8 (m.readNat (b + 0x280 + 8 * i) 8 / 2 ^ 12 % 16)

/-- The registers, ports, matrix and capture of a buffer. -/
def State.loadParts (s : State) (b : Nat) : State :=
  let m := s.mem
  let t := s.tile
  let s := s.setRegs { t.regs with
    h := Vector.ofFn fun i : Fin 16 => BitVec.ofNat 32 (m.readNat (b + 0x140 + 4 * i.val) 4)
    c := Vector.ofFn fun i : Fin 16 => BitVec.ofNat 16 (m.readNat (b + 0x180 + 2 * i.val) 2)
    m := Vector.ofFn fun i : Fin 8 => m.readWord (b + 0x200 + 8 * i.val)
    acc := Vector.ofFn fun i : Fin 16 => BitVec.ofNat 1024 (m.readNat (b + 0x1F00 + 128 * i.val) 128) }
  let s := s.setPorts {
    acc := Vector.ofFn (bufferedBinding m b)
    exe := Vector.ofFn (bufferedBinding m b)
    inq := Vector.ofFn fun i : Fin 8 => (List.range (bufferedLevel m b i.val)).map fun j =>
      { row := m.readRow (b + 0x300 + 640 * i.val + 80 * j)
        side := BitVec.ofNat 128 (m.readNat (b + 0x300 + 640 * i.val + 80 * j + 64) 16) }
    outq := Vector.ofFn fun i : Fin 4 => (List.range (bufferedLevel m b (8 + i.val))).map fun j =>
      m.readRow (b + 0x1700 + 512 * i.val + 64 * j) }
  let s := s.setMatrix { cfg := m.readRow (b + 0x29C0), bankA := m.slice (b + 0x4000) bankBytes, bankB := m.slice (b + 0x10000) bankBytes }
  let s := s.setCtx (ctxCsrsFrom (m.readWords (b + 0x40) 13))
  s.setFront { t.front with rpt := { t.front.rpt with
    words := Vector.ofFn fun i : Fin 16 => BitVec.ofNat 32 (m.readNat (b + 0x240 + 4 * i.val) 4)
    addrs := Vector.ofFn fun i : Fin 16 => m.readWord (b + 0x2D00 + 8 * i.val) } }

/-- The engines, the sequencer, the inbox and the pending causes of a buffer. -/
def State.loadQueues (s : State) (b : Nat) (c : List Cmd) (w : List (BitVec 256)) (q : List SeqEntry) : State :=
  let m := s.mem
  let held (i : Nat) : Option Word := let x := m.readWord (b + 0x2EC0 + 8 * i); if x = 0 then none else some x
  let s := (w.foldl (fun s d => s.pushSw d false 0) s)
  let s := s.setEng { s.tile.eng with
                      fifo0 := c
                      res := #v[bufferedResults m b 0, bufferedResults m b 1, bufferedResults m b 2]
                      held := #v[held 0, held 1, held 2] }
  let r := bufferedReport m b
  let s := s.setSeq { queue := q, running := none, held := r, stopped := r.isSome, blocked := none }
  let n := m.readNat (b + 0x2ED8) 8
  let s := s.setNet { s.tile.net with inbox := m.readWords (b + 0x2700) (min 64 (n % 128)), lead := n / 256 % 16 }
  s.setPend (s.tile.pend.load (m.readWords (b + 0x2D80) 8))

/-- Failures and a report that the tile kept for a context switched away (log 15). -/
def State.restoreAway (s : State) (cxb : Word) : State :=
  match assocGet cxb.toNat s.tile.path.away with
  | none => s
  | some (f, r) =>
    let s := s.setPath { s.tile.path with failures := f, away := s.tile.path.away.filter fun x => x.1 != cxb.toNat }
    match r with
    | some r => s.setSeq { s.tile.seq with held := some r, stopped := true }
    | none => s

/-- Keep the held failures of a context that leaves the tile, a rejected record of its SSTEP among them. -/
def State.keepAway (s : State) (cxb : Word) : State :=
  let r := match s.tile.seq.queue with
    | .insn _ :: _ => none
    | _ => s.liveReport
  let failures := s.tile.path.failures ++ s.tile.res.rejected.toList.map fun v => (Cause.accessFault, v)
  if cxb = 0 || (failures.isEmpty && r.isNone) then s
  else s.setPath { s.tile.path with away := assocPut cxb.toNat (failures, r) s.tile.path.away }

/-- The front end's context that a CXB names, wherever its buffer lies (R245); 0 for none. -/
def State.ctxByCxb (s : State) (cxb : Word) : Nat :=
  match s.hub.fe.ctxs.find? fun c =>
      c.ended.isNone && c.run.isNone && (if cxb = 0 then c.cxb == 0 && c.tiles.contains s.own else c.tiles.any fun t => c.buffer t == cxb) with
  | some c => c.id
  | none => 0

/-- A context that software has moved to this tile from the one whose buffer it names is counted on this tile from then on, with
all that the front end holds of it by tile (R245, log 27). -/
def Ctx.seated (c : Ctx) (own : BitVec 24) (cxb : Word) : Ctx :=
  if c.tiles.contains own then c
  else
    let seat (t : BitVec 24) : BitVec 24 := if c.tiles.contains t && c.buffer t == cxb then own else t
    { c with
      tiles := c.tiles.map seat
      moved := (own, cxb) :: c.moved.filter fun x => x.1 != own && x.2 != cxb
      idle := c.idle.map seat, asleep := c.asleep.map seat, halted := c.halted.map seat, heldRecs := c.heldRecs.map seat
      stopped := c.stopped.map seat, before := c.before.map seat, landed := c.landed.map seat
      joined := c.joined.map fun x => (seat x.1, x.2), queues := c.queues.map fun x => (seat x.1, x.2) }

/-- The context of a CXB becomes resident: a step list goes on where it stood (R268), a cut in progress reaches it (R246), its
quantum begins (R318), and what still waits for a killed context is discarded (R249). -/
def State.reside (s : State) (cxb : Word) : State :=
  let n := s.ctxByCxb cxb
  let s := s.updCtx n fun c => c.seated s.own cxb
  let c := s.ctxOf n
  let cut := match c with
    | some c => if c.stopped.contains s.own then none else c.cut
    | none => none
  let s := if cut.isSome then s.setPend { s.tile.pend with preempt := some 0 } else s
  let s := s.setRes { s.tile.res with
    ctx := n, cxb := cxb, ctxid := (c.map Ctx.ctxid).getD 0, root := (c.map Ctx.root).getD 0, cut := cut
    listPos := (assocGet n s.tile.res.lists).getD (if s.tile.ctx.step = 0 && (c.map Ctx.det).getD false then 1 else 0)
    lists := s.tile.res.lists.filter fun x => x.1 != n
    rejected := none, listAddr := (c.map Ctx.stept).getD 0
    startAt := match c with
      | some c =>
        if c.det && s.tile.ctx.step == 0 then some ((c.release.map s.releaseAt).getD (BitVec.allOnes 64)) else none
      | none => none
    quantum := s.cycle }
  let waiting := s.tile.net.waiting.filter fun x => !s.tile.res.killed.contains x.cxb
  (s.setNet { s.tile.net with arrived := true, waiting := waiting }).setPath { s.tile.path with rlv := 7 }

/-- load_tile_state (R242); none where the buffer is not loaded. -/
def State.loadLocal (s : State) (cxb : Word) : Option State :=
  if cxb = 0 then some ((s.discardLocal).reside 0)
  else if !cxbOk cxb then none
  else
    let b := cxbAddr cxb
    let s := s.evictBuffer b
    if s.mem.readNat b 1 ≠ 1 || s.mem.readNat (b + 1) 1 = 0xFF || s.tile.res.killed.contains cxb then none
    else match buffered s.mem b with
      | none => none
      | some (c, w, q) => some ((((s.discardLocal.loadParts b).loadQueues b c w q).reside cxb).restoreAway cxb)

/-- Apply the spill region of a loaded context, record by record, as far as it can be applied (R244). -/
def State.drainAll (s : State) (cxb : Word) : Nat → State
  | 0 => s
  | n + 1 => if s.tile.net.spillTo.isNone then s else (s.drainSpill cxb).drainAll cxb n

/-- Contexts assigned to a tile, in assignment order; one of a TILE packet has no workspace there. -/
def State.assigned (s : State) (t : BitVec 24) : List Ctx :=
  s.hub.fe.ctxs.filter fun c => c.ended.isNone && c.run.isNone && c.tiles.contains t

/-- The context after the resident one in assignment order. -/
def State.nextCtx (s : State) : Option Ctx :=
  let l := s.assigned s.own
  let after := (l.dropWhile fun c => c.id != s.tile.res.ctx).drop 1
  ((after ++ l).filter fun c => c.parked.isNone && c.id != s.tile.res.ctx).head?

/-! ### TRET (R37, R242) -/

/-- The CXB of a workspace. -/
def State.wsCxb (s : State) (ws : Word) : Word := s.mem.readWord (s.ownAddr (wsOffset ws + 0x538))

/-- Every engine command that has started has completed; the remainder of a command of engine 0 counts as not started
(R38, R110, R188). -/
def State.nothingStarted (s : State) : Bool := s.tile.eng.fifo1.all fun c => c.owner != 0 || c.phase == .queued

/-- Start a save (R242): arrivals spill, the running tile instruction is abandoned, an open transaction is aborted with cause
5 and the code of the trap that led to the switch (R181, log 28). -/
def State.startSave (s : State) : State :=
  let cxb := s.tile.res.cxb
  let s := s.setNet { s.tile.net with spillTo := some cxb }
  let s := if s.runningBorrows then s.returnMatrix else s
  let s := s.setSeq { s.tile.seq with running := none }
  let s := s.setEng { s.tile.eng with fifo1 := s.tile.eng.fifo1.filter fun c => !(c.tile && c.owner == 0 && c.phase == .queued) }
  let s := match s.tile.path.tx with
    | some t => s.txClose t 5 (s.tile.csr.ecause.setWidth 8)
    | none => s
  let s := s.updCtx s.tile.res.ctx fun c => { c with saving := true }
  ((s.setRes { s.tile.res with saveAt := s.cycle }).setWait .save).stall .resource

/-- The save may end: nothing started is left and every sent message has been accepted. -/
def State.saveReady (s : State) : Bool := s.nothingStarted && s.mallow == 8

/-- Charge the energy residue of the leaving context: the resident cycles since the last static charge (R371). -/
def State.chargeResidue (s : State) : State :=
  let r := s.tile.power.resident / 480 % 1024
  let s := s.setPower { s.tile.power with resident := 0 }
  s.setCtx { s.tile.ctx with energy := chargeEnergy s.tile.ctx.energy (r * (s.tile.csr.ews.toNat % 2 ^ 32) / 1024) }

/-- The last write of the save has been performed; the tile-local state is discarded. -/
def State.endSave (s : State) : State :=
  let cxb := s.tile.res.cxb
  let s := s.flushAll.chargeResidue
  let s := if cxb = 0 then s else (s.writeBuffer cxb).keepAway cxb
  let s := s.updCtx s.tile.res.ctx fun c => { c with saving := false }
  let s := if s.tile.res.ctx = 0 then s
    else s.setRes { s.tile.res with lists := assocPut s.tile.res.ctx s.tile.res.listPos s.tile.res.lists }
  s.discardLocal.setWait .load

/-- TRET returns to the resident context, which stands no longer before an SSTEP that a PREEMPT has held (R246). -/
def State.returned (s : State) (ws : Word) : State :=
  (s.resume ws).updCtx s.tile.res.ctx fun c => { c with before := c.before.erase s.own }

/-- The workspace from which a load goes on: the one at EWP; where its context is parked meanwhile, that of the next context that is
not; none while there is none (R318; log 56). -/
def State.loadFrom (s : State) : Option Word :=
  let ws := s.tile.csr.ewp
  if (s.ctxOf (s.ctxByCxb (s.wsCxb ws))).any fun c => c.parked.isSome then
    ((s.assigned s.own).find? fun c => c.parked.isNone).map Ctx.wp
  else some ws

/-- CONTEXT_LOAD (R242, R244): the incoming context's state is read, its spill region applied, and the TRET ends; a
buffer that is not loaded halts the tile, with a fault of the context that it belongs to. -/
def execContextLoad (s : State) : Out :=
  match s.loadFrom with
  | none => .next s
  | some ws =>
  if s.tile.wait ≠ .load then .next s
  else wakeThen s fun s =>
    let s := s.setCsr { s.tile.csr with ewp := ws }
    let cxb := s.wsCxb ws
    match s.loadLocal cxb with
    | none => .next ((s.setRes { s.tile.res with ctx := s.ctxByCxb cxb, cxb := 0 }).haltWith false Cause.accessFault cxb)
    | some s =>
      let s := s.setNet { s.tile.net with spillTo := if cxb = 0 then none else some cxb }
      .next ((s.drainAll cxb 2048).returned ws)

end Sys2Proof.Machine
end

