-- ==== Sys2Proof/Machine/Special.lean ====
section
/-!
DEFINITION. The special functions of R127: each lane is the exact function value rounded once to FP32 in RNE.
Reciprocals and roots are computed exactly with a sticky bit; 2^x, log2 x and tanh x are computed to more than
200 bits, and the cases in which they are exact are separated first (log 11).
-/

namespace Sys2Proof.Machine

/-- The largest r + s with (r + s)^2 ≤ x, where s is a number of `n` bits. -/
def isqrtFrom (x : Nat) : Nat → Nat → Nat
  | 0, r => r
  | n + 1, r => isqrtFrom x n (if (r + 2 ^ n) * (r + 2 ^ n) ≤ x then r + 2 ^ n else r)

/-- floor(sqrt x). -/
def isqrt (x : Nat) : Nat := isqrtFrom x (Nat.log2 x / 2 + 1) 0

/-- Fraction bits of the fixed-point numbers below. -/
def fixP : Nat := 256

/-- ln 2 × 2^256, truncated. -/
def fixLn2 : Nat := 0xB17217F7D1CF79ABC9E3B39803F2F6AF40F343267298B62D8A0D175B8BAAFA2B

/-- Σ t^k / k!, from the term t^k / k! on, `n` terms. -/
def expTerms (t : Nat) : Nat → Nat → Nat → Nat
  | 0, _, _ => 0
  | n + 1, k, term => term + expTerms t n (k + 1) (term * t / 2 ^ fixP / (k + 1))

/-- Square a fixed-point number `n` times. -/
def squareFix : Nat → Nat → Nat
  | 0, x => x
  | n + 1, x => squareFix n (x * x / 2 ^ fixP)

/-- e^z for a fixed-point z below 1. -/
def expFix (z : Nat) : Nat := squareFix 8 (expTerms (z / 2 ^ 8) 36 0 (2 ^ fixP))

/-- Σ z^(2k+1) / (2k+1), from the power `p` = z^(2k+1) on, `n` terms. -/
def atanhTerms (zz : Nat) : Nat → Nat → Nat → Nat
  | 0, _, _ => 0
  | n + 1, k, p => p / (2 * k + 1) + atanhTerms zz n (k + 1) (p * zz / 2 ^ fixP)

/-- log2 of m / 2^l, for 2^l ≤ m < 2^(l + 1), as a fixed-point number. -/
def log2Fix (m l : Nat) : Nat :=
  let z := (m - 2 ^ l) * 2 ^ fixP / (m + 2 ^ l)
  2 * atanhTerms (z * z / 2 ^ fixP) 96 0 z * 2 ^ fixP / fixLn2

/-- Round an FP32 special-function result: RNE, whatever FCSR.RM holds (R127). -/
def sfuRound (ftz neg : Bool) (mag : Nat) (exp : Int) (sticky : Bool) : Nat × Flags :=
  fp32.round false true ftz .rne neg mag exp sticky

/-- A quiet NaN result, with NV. -/
def sfuInvalid : Nat × Flags := (0x7FC00000, flNV)

/-- An infinite result. -/
def sfuInf (neg : Bool) (fl : Flags) : Nat × Flags := (fp32.sign neg + 0x7F800000, fl)

/-- 1 / x. -/
def sfuRcp (ftz : Bool) (x : Ext) : Nat × Flags :=
  match x with
  | .nan sig => (0x7FC00000, flIf sig flNV)
  | .inf neg => (fp32.sign neg, 0)
  | .fin neg m e =>
    if m = 0 then sfuInf neg flDZ
    else sfuRound ftz neg (2 ^ 96 / m) (-e - 96) (decide (2 ^ 96 % m ≠ 0))

/-- 1 / √x. -/
def sfuRsq (ftz : Bool) (x : Ext) : Nat × Flags :=
  match x with
  | .nan sig => (0x7FC00000, flIf sig flNV)
  | .inf neg => if neg then sfuInvalid else (0, 0)
  | .fin neg m e =>
    if m = 0 then sfuInf neg flDZ
    else if neg then sfuInvalid
    else
      let (m, e) := if e % 2 = 0 then (m, e) else (2 * m, e - 1)
      let r := isqrt (2 ^ 160 / m)
      sfuRound ftz false r (-(e / 2) - 80) (decide (r * r * m ≠ 2 ^ 160))

/-- √x. -/
def sfuSqrt (ftz : Bool) (x : Ext) : Nat × Flags :=
  match x with
  | .nan sig => (0x7FC00000, flIf sig flNV)
  | .inf neg => if neg then sfuInvalid else sfuInf false 0
  | .fin neg m e =>
    if m = 0 then (fp32.sign neg, 0)
    else if neg then sfuInvalid
    else
      let (m, e) := if e % 2 = 0 then (m, e) else (2 * m, e - 1)
      let r := isqrt (m * 2 ^ 80)
      sfuRound ftz false r (e / 2 - 40) (decide (r * r ≠ m * 2 ^ 80))

/-- 2^x. -/
def sfuExp2 (ftz : Bool) (x : Ext) : Nat × Flags :=
  match x with
  | .nan sig => (0x7FC00000, flIf sig flNV)
  | .inf neg => if neg then (0, 0) else sfuInf false 0
  | .fin neg m e =>
    if m = 0 then (0x3F800000, 0)
    else if 8 ≤ floorLog m e then
      if neg then sfuRound ftz false 1 (-400) true else sfuInf false (flOF ||| flNX)
    else
      let v := scaled neg m e (-(fixP : Int))
      let n := v / (2 ^ fixP : Int)
      let f := (v % (2 ^ fixP : Int)).toNat
      if f = 0 then sfuRound ftz false 1 n false
      else sfuRound ftz false (expFix (f * fixLn2 / 2 ^ fixP)) (n - fixP) true

/-- log2 x. -/
def sfuLog2 (ftz : Bool) (x : Ext) : Nat × Flags :=
  match x with
  | .nan sig => (0x7FC00000, flIf sig flNV)
  | .inf neg => if neg then sfuInvalid else sfuInf false 0
  | .fin neg m e =>
    if m = 0 then sfuInf true flDZ
    else if neg then sfuInvalid
    else
      let l := Nat.log2 m
      let n : Int := e + l
      if m = 2 ^ l then sfuRound ftz (decide (n < 0)) n.natAbs 0 false
      else
        let v : Int := n * 2 ^ fixP + log2Fix m l
        sfuRound ftz (decide (v < 0)) v.natAbs (-(fixP : Int)) true

/-- tanh x. -/
def sfuTanh (ftz : Bool) (x : Ext) : Nat × Flags :=
  match x with
  | .nan sig => (0x7FC00000, flIf sig flNV)
  | .inf neg => (fp32.sign neg + 0x3F800000, 0)
  | .fin neg m e =>
    if m = 0 then (fp32.sign neg, 0)
    else if floorLog m e < -30 then sfuRound ftz neg (m * 2 ^ 64 - 1) (e - 64) true
    else if 5 ≤ floorLog m e then sfuRound ftz neg (2 ^ 128 - 1) (-128) true
    else
      let a := 2 * (scaled false m e (-(fixP : Int))).natAbs
      let n := a / fixLn2
      let b := expFix (a - n * fixLn2) * 2 ^ n
      sfuRound ftz neg ((b - 2 ^ fixP) * 2 ^ fixP / (b + 2 ^ fixP)) (-(fixP : Int)) true

end Sys2Proof.Machine
end

