-- ==== Sys2Proof/Machine/Lanes.lean ====
section
/-!
DEFINITION. What vector instructions compute lane by lane, and the shapes in which they issue (R119 to R136).
Integer lanes are codes of `w` bits.
-/

namespace Sys2Proof.Machine

/-- Lanes combined lane by lane, with the lane number and the union of the flags (R120). -/
def zipLanes (f : Nat → Nat → Nat → Nat × Flags) : Nat → List Nat → List Nat → List Nat × Flags
  | k, x :: xs, y :: ys =>
    let (z, fl) := f k x y
    let (zs, fls) := zipLanes f (k + 1) xs ys
    (z :: zs, fl ||| fls)
  | _, _, _ => ([], 0)

/-- Three operands lane by lane. -/
def zipLanes3 (f : Nat → Nat → Nat → Nat → Nat × Flags) : Nat → List Nat → List Nat → List Nat → List Nat × Flags
  | k, x :: xs, y :: ys, z :: zs =>
    let (v, fl) := f k x y z
    let (vs, fls) := zipLanes3 f (k + 1) xs ys zs
    (v :: vs, fl ||| fls)
  | _, _, _, _ => ([], 0)

/-- A two-source lane instruction with destination d. -/
def vec2 (cls : Fin 8) (types : List Nat) (gd : Guard) (d a b : BitVec 5) (t : BitVec 3) (s : State)
    (also : List (BitVec 5)) (f : State → Nat → Nat → Nat → Nat × Flags) : Out :=
  aWord cls gd s fun s =>
    issueA cls s (accepts types t) true [a, b] [d] also fun s =>
      let r := zipLanes (f s) 0 (lanesOf t (s.rowAt a)) (lanesOf t (s.rowAt b))
      ((s.popAll [a, b]).writeRow d (rowOf (laneBits t) r.1)).finishA r.2

/-- A one-source lane instruction with destination d. -/
def vec1 (cls : Fin 8) (types : List Nat) (gd : Guard) (d a : BitVec 5) (t : BitVec 3) (s : State)
    (f : State → Nat → Nat → Nat × Flags) : Out :=
  aWord cls gd s fun s =>
    issueA cls s (accepts types t) true [a] [d] [] fun s =>
      let r := runElems (f s) 0 (lanesOf t (s.rowAt a))
      ((s.popAll [a]).writeRow d (rowOf (laneBits t) r.1)).finishA r.2

/-- An instruction that makes one row from another. -/
def rowOp1 (gd : Guard) (legal entry : Bool) (d a : BitVec 5) (s : State) (f : State → Row → Row) : Out :=
  aWord 3 gd s fun s =>
    issueA 3 s legal entry [a] [d] [] fun s =>
      ((s.popAll [a]).writeRow d (f s (s.rowAt a))).finishA 0

/-- An instruction that makes one row from two. -/
def rowOp2 (gd : Guard) (legal : Bool) (d a b : BitVec 5) (s : State) (f : Row → Row → Row) : Out :=
  aWord 3 gd s fun s =>
    issueA 3 s legal true [a, b] [d] [] fun s =>
      ((s.popAll [a, b]).writeRow d (f (s.rowAt a) (s.rowAt b))).finishA 0

/-! ### Integer lanes (R123) -/

def addLane (w x y : Nat) : Nat := (x + y) % 2 ^ w
def subLane (w x y : Nat) : Nat := (x + (2 ^ w - y % 2 ^ w)) % 2 ^ w
def mulLane (w x y : Nat) : Nat := x * y % 2 ^ w
/-- High half of the signed product. -/
def mulhLane (w x y : Nat) : Nat := intCode w (intOf w x * intOf w y / (2 ^ w : Int))
def minLane (w x y : Nat) : Nat := if intOf w y < intOf w x then y else x
def maxLane (w x y : Nat) : Nat := if intOf w x < intOf w y then y else x
def shlLane (w x y : Nat) : Nat := x * 2 ^ (y % w) % 2 ^ w
def shrLane (w x y : Nat) : Nat := x / 2 ^ (y % w)
def sraLane (w x y : Nat) : Nat := intCode w (intOf w x / (2 ^ (y % w) : Int))
/-- A sum clamped to the lane's range, with SAT and OF when clamped. -/
def satLane (w : Nat) (x : Int) : Nat × Flags :=
  let (v, sat) := clampInt w x
  (intCode w v, flIf sat (flSAT ||| flOF))

/-! ### Floating-point lanes (R124, R125) -/

/-- Round an exact value to a lane, keeping the flags of the operation. -/
def fpResult (f : FloatFmt) (ftz : Bool) (mode : Mode) (r : Ext × Flags) : Nat × Flags :=
  let (c, fl) := f.convert ftz mode r.1
  (c, fl ||| r.2)

/-- The mode rounds towards -∞ (R124). -/
def Mode.isRd : Mode → Bool
  | .rd => true
  | _ => false

/-- a + b. -/
def faddLane (f : FloatFmt) (ftz : Bool) (mode : Mode) (x y : Nat) : Nat × Flags :=
  fpResult f ftz mode (Ext.add mode.isRd (f.read ftz x) (f.read ftz y))

/-- a - b. -/
def fsubLane (f : FloatFmt) (ftz : Bool) (mode : Mode) (x y : Nat) : Nat × Flags :=
  fpResult f ftz mode (Ext.add mode.isRd (f.read ftz x) (f.read ftz y).neg)

/-- a × b. -/
def fmulLane (f : FloatFmt) (ftz : Bool) (mode : Mode) (x y : Nat) : Nat × Flags :=
  fpResult f ftz mode (Ext.mul (f.read ftz x) (f.read ftz y))

/-- a × b + d, rounded once. -/
def ffmaLane (f : FloatFmt) (ftz : Bool) (mode : Mode) (x y z : Nat) : Nat × Flags :=
  let p := Ext.mul (f.read ftz x) (f.read ftz y)
  let r := Ext.add mode.isRd p.1 (f.read ftz z)
  fpResult f ftz mode (r.1, r.2 ||| p.2)

/-- The sign of a value. -/
def Ext.sign : Ext → Bool
  | .nan _ => false
  | .inf n => n
  | .fin n _ _ => n

/-- a below b, with -0 below +0. -/
def Ext.below (x y : Ext) : Bool := x.lt y || (x.eq y && x.sign && !y.sign)

/-- The smaller (or the larger) operand (R125). -/
def fminmaxLane (f : FloatFmt) (ftz larger : Bool) (x y : Nat) : Nat × Flags :=
  let a := f.read ftz x
  let b := f.read ftz y
  let nv := flIf (a.isSig || b.isSig) flNV
  if a.isNan || b.isNan then ((f.convert false .rne (.nan false)).1, nv)
  else
    let r := if larger then (if a.below b then b else a) else (if b.below a then b else a)
    ((f.convert false .rne r).1, nv)

/-- The operand with its sign cleared or inverted (R125). -/
def fsignLane (f : FloatFmt) (ftz negate : Bool) (x : Nat) : Nat × Flags :=
  match f.read ftz x with
  | .nan sig => ((f.convert false .rne (.nan false)).1, flIf sig flNV)
  | .inf n => ((f.convert false .rne (.inf (negate && !n))).1, 0)
  | .fin n m e => ((f.convert false .rne (.fin (negate && !n) m e)).1, 0)

/-! ### Comparisons (R126) -/

/-- The conditions of VCMP. -/
inductive Cond where
  | eq | ne | lt | le | gt | ge | ord | uno
  deriving DecidableEq, Repr

/-- A condition on integers. -/
def Cond.onInt (c : Cond) (x y : Int) : Bool :=
  match c with
  | .eq => decide (x = y)
  | .ne => decide (x ≠ y)
  | .lt => decide (x < y)
  | .le => decide (x ≤ y)
  | .gt => decide (y < x)
  | .ge => decide (y ≤ x)
  | .ord => true
  | .uno => false

/-- A condition on values. -/
def Cond.onExt (c : Cond) (x y : Ext) : Bool :=
  match c with
  | .eq => x.eq y
  | .ne => !x.eq y
  | .lt => x.lt y
  | .le => x.lt y || x.eq y
  | .gt => y.lt x
  | .ge => y.lt x || x.eq y
  | .ord => !(x.isNan || y.isNan)
  | .uno => x.isNan || y.isNan

/-- A lane of VCMP: all ones or all zeros. -/
def cmpLane (t : BitVec 3) (ftz : Bool) (c : Cond) (x y : Nat) : Nat × Flags :=
  let ones (b : Bool) : Nat := if b then 2 ^ laneBits t - 1 else 0
  match laneFloat t with
  | some f =>
    let a := f.read ftz x
    let b := f.read ftz y
    (ones (c.onExt a b), flIf (a.isSig || b.isSig) flNV)
  | none => (ones (c.onInt (intOf (laneBits t) x) (intOf (laneBits t) y)), 0)

/-- VCMP. -/
def vcmp (c : Cond) (types : List Nat) (gd : Guard) (d a b : BitVec 5) (t : BitVec 3) (s : State) : Out :=
  vec2 3 types gd d a b t s [] fun s _ x y => cmpLane t s.ftz c x y

/-- VTEST. -/
def vtest (all : Bool) (gd : Guard) (q : BitVec 3) (a : BitVec 5) (t : BitVec 3) (s : State) : Out :=
  aWord 3 gd s fun s =>
    issueA 3 s (accepts allTypes t) true [a] [] [] fun s =>
      let l := lanesOf t (s.rowAt a)
      let r := if all then l.all fun x => x != 0 else l.any fun x => x != 0
      ((s.popAll [a]).setQ q r).finishA 0

/-! ### Conversions (R128 to R130) -/

/-- The exact value of a lane of a type. -/
def laneValue (t : BitVec 3) (ftz : Bool) (x : Nat) : Ext :=
  match laneFloat t with
  | some f => f.read ftz x
  | none => Ext.ofInt (intOf (laneBits t) x)

/-- A value converted to a lane of a type. -/
def laneConvert (t : BitVec 3) (ftz : Bool) (mode : Mode) (x : Ext) : Nat × Flags :=
  match laneFloat t with
  | some f => f.convert ftz mode x
  | none => toIntCode (laneBits t) mode x

/-- The RM code that the rm field of VCVT selects. -/
def cvtRm (s : State) (r : BitVec 2) : Nat :=
  match r.toNat with
  | 0 => s.rm
  | 1 => 0
  | 2 => 1
  | _ => 4

/-- Codes that VQNT and VDQ accept (R129). -/
def quantFormat (k : BitVec 5) : Option Format :=
  match formatOf k with
  | some f => if k.toNat = 0x01 ∨ 0x0C ≤ k.toNat then some f else none
  | none => none

/-- A block of 32 values in memory form (R129). -/
def quantise (f : Format) (ftz : Bool) (mode : Nat → Mode) (xs : List Ext) : Nat × Flags :=
  if f.isBlock then quantiseBlock f mode xs
  else
    let (cs, fl) := runElems (fun i x => convertElem f ftz (mode i) x) 0 xs
    (joinNat f.bits cs, fl)

/-- Element `i` of what VQNT wrote (R130). -/
def dequantise (f : Format) (x : Nat) (i : Nat) : Ext :=
  if f.isBlock then decodeRecord f x i else decodeElem f false (x / 2 ^ (f.bits * i) % 2 ^ f.bits)

/-! ### Reductions, ordering, permutes (R131 to R133) -/

/-- One level of the fixed tree: the lower half combined with the upper half. -/
def treeLevel (op : Nat → Nat → Nat × Flags) (l : List Nat) : List Nat × Flags :=
  zipLanes (fun _ x y => op x y) 0 (l.take (l.length / 2)) (l.drop (l.length / 2))

/-- The fixed tree of R131, `n` levels. -/
def tree (op : Nat → Nat → Nat × Flags) : Nat → List Nat → List Nat × Flags
  | 0, l => (l, 0)
  | n + 1, l =>
    let (l1, fl) := treeLevel op l
    let (l2, fl2) := tree op n l1
    (l2, fl ||| fl2)

/-- A reduction into lane 0. -/
def vreduce (gd : Guard) (d a : BitVec 5) (t : BitVec 3) (s : State) (op : State → Nat → Nat → Nat × Flags) : Out :=
  aWord 3 gd s fun s =>
    issueA 3 s (accepts allTypes t) true [a] [d] [] fun s =>
      let r := tree (op s) (Nat.log2 (laneCount t)) (lanesOf t (s.rowAt a))
      ((s.popAll [a]).writeRow d (rowOf (laneBits t) r.1)).finishA r.2

/-- The rank key of a 32-bit lane (R132): signed, or IEEE totalOrder with every NaN above +∞. -/
def topKey (t : BitVec 3) (x : Nat) : Int :=
  if t = 5 then
    let mag : Nat := x % 2 ^ 31
    if 0x7F800000 < mag then 2 ^ 32
    else if x / 2 ^ 31 % 2 = 1 then -(mag : Int) - 1 else mag
  else intOf 32 x

/-- A lane to be ranked: key, tag, position. -/
structure Ranked where
  key : Int
  tag : Nat
  pos : Nat
  deriving DecidableEq, Repr

/-- The order of ranks: greater key, then smaller tag, then smaller position. -/
def Ranked.before (x y : Ranked) : Bool :=
  decide (y.key < x.key) || (decide (x.key = y.key) && (decide (x.tag < y.tag) ||
    (decide (x.tag = y.tag) && decide (x.pos < y.pos))))

/-- Insert in rank order. -/
def rankInsert (x : Ranked) : List Ranked → List Ranked
  | [] => [x]
  | y :: r => if x.before y then x :: y :: r else y :: rankInsert x r

/-- Sort in rank order. -/
def rankSort : List Ranked → List Ranked
  | [] => []
  | x :: r => rankInsert x (rankSort r)

/-- Lanes with keys and tags. -/
def rankList (t : BitVec 3) : Nat → List Nat → List Nat → List Ranked
  | p, x :: xs, y :: ys => { key := topKey t x, tag := y, pos := p } :: rankList t (p + 1) xs ys
  | _, _, _ => []

/-- Lane `i` of a list of lanes. -/
def laneAt (l : List Nat) (i : Nat) : Nat := l.getD i 0

end Sys2Proof.Machine
end

