-- ==== Sys2Proof/Machine/Power.lean ====
section
/-!
DEFINITION. Clocks, sleep and wake, temperature, the package cap, the heat store, leases and energy ticks, and the gang
instructions (R205, R206, R209, R210, R355 to R371).
-/

namespace Sys2Proof.Machine

/-! ### Gangs (R209, R210) -/

/-- Tiles of a gang of a size code. -/
def gangSize (code : BitVec 2) : Nat := 2 ^ (code.toNat + 1)

/-- Two tiles are in one aligned group of a size. -/
def sameGroup (n : Nat) (a b : BitVec 24) : Bool := decide (a.toNat / 32 = b.toNat / 32) && decide (a.toNat % 32 / n = b.toNat % 32 / n)

/-- Another tile has issued a GANG of another size that names this tile, or that this one would name. -/
def State.gangDiffers (s : State) (code : BitVec 2) : Bool :=
  s.tile.res.peers.any fun x => x.2 != code && sameGroup (max (gangSize code) (gangSize x.2)) s.own x.1

/-- Members of this tile's group that have issued the GANG. -/
def State.gangCount (s : State) (code : BitVec 2) : Nat :=
  (s.tile.res.peers.filter fun x => x.2 == code && sameGroup (gangSize code) s.own x.1).length

/-- STATUS with GROLE, GSZ and GIDX of a member. -/
def State.formGang (s : State) (code : BitVec 2) : State :=
  let idx := s.own.toNat % 32 % gangSize code
  let role := if idx = 0 then 1 else 2
  let w := BitVec.ofNat 64 (role * 2 ^ 16 + code.toNat * 2 ^ 18 + idx * 2 ^ 20)
  let s := s.setCsr { s.tile.csr with status := (s.tile.csr.status &&& ~~~(0x7F0000 : Word)) ||| w }
  s.setRes { s.tile.res with peers := [] }

/-- The wait of a GANG: it ends when every member has issued one of the same size. -/
def gangWait (s : State) (c : BitVec 2) : Out :=
  if gangSize c ≤ s.gangCount c + 1 then .next ((s.setWait .idle).formGang c).retire
  else .next ((s.setWait (.gang c)).stall .resource)

/-- GANG (R209). It traps where its size differs from that of a member that waits; once it waits, it keeps on waiting. Inside a
transaction it aborts it with cause 4, as R181 lists it (log 29). -/
def execGang (gd : Guard) (c : BitVec 2) (s : State) : Out :=
  match s.tile.wait with
  | .gang c => gangWait s c
  | _ =>
    cWordIf 0 gd s (!s.sup) fun s =>
      if s.grole ≠ 0 then s.trapBundle Cause.illegalInstr
      else noTx s fun s => if s.gangDiffers c then s.trapBundle Cause.illegalInstr else gangWait s c

/-- UNGANG (R210): the gang is disbanded when the guard of one member holds, this one's or another's; each goes on with its own
fetch at the next bundle. -/
def execUngang (gd : Guard) (s : State) : Out :=
  if s.queueFull then .next (s.stall .resource)
  else
    let s' := (s.begin 0).retire
    .next (if s.guardC gd || s.tile.res.ungang then s'.leaveGang else s')

/-- The tile waits in a GANG of another size that names the tile that now issues one: that tile traps, and joins nothing. -/
def State.peerTraps (s : State) (coord : BitVec 24) (code : BitVec 2) : Bool :=
  match s.tile.wait with
  | .gang c => c != code && sameGroup (max (gangSize code) (gangSize c)) s.own coord
  | _ => false

/-- Another tile of the context issues GANG (R209). -/
def State.peerGang (s : State) (coord : BitVec 24) (code : BitVec 2) : State :=
  if s.peerTraps coord code then s
  else s.setRes { s.tile.res with peers := (s.tile.res.peers.filter fun x => x.1 != coord) ++ [(coord, code)] }

/-- A member of the gang trapped: the gang is disbanded, and GANG_BREAK pends (R210). -/
def State.breakGang (s : State) (gidx : BitVec 3) (cause : BitVec 8) : State :=
  if s.grole = 0 then s
  else
    let v := BitVec.ofNat 64 (gidx.toNat + cause.toNat * 256)
    s.leaveGang.setPend { s.tile.pend with gangBreak := firstOf s.tile.pend.gangBreak v }

/-! ### Clocks (R34, R355, R356) -/

/-- The level that a code requires (Table 18.1). -/
def railLevel (code : BitVec 4) : BitVec 3 :=
  match code.toNat with
  | 0 => 5
  | 1 => 4
  | 2 => 3
  | 3 => 2
  | 4 | 5 => 1
  | _ => 0

/-- The slower of two codes. -/
def slower (a b : BitVec 4) : BitVec 4 := if a.toNat ≤ b.toNat then b else a

/-- A strip. -/
def State.strip (s : State) (i : BitVec 8) : Strip := s.hub.strips.get i.toFin

/-- The resident context holds the active lease of a strip. -/
def State.holdsLease (s : State) (x : Strip) : Bool := x.st == 1 && s.tile.res.ctx != 0 && x.holder == s.tile.res.ctx

/-- FMAX of PGRANT. -/
def State.fmax (s : State) : BitVec 4 := s.tile.ctx.pgrant.extractLsb' 20 4
/-- FMIN of PGRANT. -/
def State.fmin (s : State) : BitVec 4 := s.tile.ctx.pgrant.extractLsb' 16 4

/-- The clamp code in force in a strip: the slower of the firmware's and the governor's (R362). -/
def Strip.held (x : Strip) : BitVec 4 := slower x.clamp x.gov

/-- SPWR.CAPL: the strip is held by a clamp. -/
def Strip.capl (x : Strip) : Bool := x.held != 0

/-- The faster of two codes. -/
def faster (a b : BitVec 4) : BitVec 4 := if a.toNat ≤ b.toNat then a else b

/-- The code of the executing tile (R355). The lease code is one of Table 18.1. -/
def State.codeWanted (s : State) : BitVec 4 :=
  let x := s.strip s.ownStrip
  let c := slower s.fmax (if s.holdsLease x then faster (Config.leaseCode (x.extra.setWidth 16) s.fmax) 9 else 2)
  slower (slower c (if x.thr then x.tcode else 0)) x.held

/-- The tile runs a context: its code counts in its strip. -/
def State.running (s : State) : Bool := s.tile.front.started && s.tile.front.ast != .halted

/-- The other tiles of a strip take up the codes that they are to run at: slower ones at once, faster ones when the rail has their
level (R356). -/
def Strip.follow (x : Strip) : Strip :=
  if x.others.toNat ≤ x.want.toNat || decide ((railLevel x.want).toNat ≤ x.vlvl.toNat) then { x with others := x.want } else x

/-- SPWR.CODE of a strip: the fastest code running in it (R356, R364). -/
def State.stripCode (s : State) (i : BitVec 8) : State :=
  let x := s.strip i
  let y := if i = s.ownStrip ∧ s.running then faster s.tile.power.code x.others else x.others
  if x.code = y then s else s.setStrip i { x with code := y }

/-- The other tiles of a strip are to run at a code. -/
def State.stripPeers (s : State) (i : BitVec 8) (code : BitVec 4) : State :=
  (s.setStrip i { s.strip i with want := faster code 9 }.follow).stripCode i

/-- A code change: to a slower clock at once, to a faster one when the rail has its level (R356). A tile that switches contexts
keeps the code of the one it leaves until it has loaded the next (R355). -/
def State.recode (s : State) : State :=
  if s.switching || !s.running then s
  else
    let c := s.codeWanted
    if s.tile.power.code.toNat ≤ c.toNat || decide ((railLevel c).toNat ≤ (s.strip s.ownStrip).vlvl.toNat) then
      s.setPower { s.tile.power with code := c }
    else s

/-- RAIL_LEVEL_REACHED (R356): the level is the one that the fastest code of the strip requires, a code to which one of its tiles
is to become faster among them. -/
def execRailLevelReached (i : BitVec 8) (s : State) : Out :=
  let x := s.strip i
  let c := faster x.want (if i = s.ownStrip ∧ s.running then faster x.code s.codeWanted else x.code)
  .next ((s.setStrip i { x with vlvl := railLevel c }.follow).stripCode i)

/-- 1 ms in CYCLE ticks (R7). -/
def msTicks : Nat := 2400000

/-- Since when a condition has held. -/
def heldSince (now : Word) (since : Option Word) (cond : Bool) : Option Word := if cond then some (since.getD now) else none

/-- It has held for a whole millisecond. -/
def heldMs (now : Word) (since : Option Word) : Bool :=
  match since with
  | some t => decide (msTicks ≤ (now - t).toNat)
  | none => false

/-- The measured package power stands below min(PCAP, GCEIL) (R362). -/
def Power.under (p : Power) : Bool := decide (p.ppwr.toNat < min p.pcap.toNat p.gceil.toNat)

/-- What the clocks do between instructions: at a bundle boundary the code follows its rule (R355), and the times of the governor's
clamp (R362) and of CAP_BREACH (R363) are counted. -/
def State.settleClock (s : State) : State :=
  let s := ((if s.tile.front.latch.isNone then s.recode else s).stripCode s.ownStrip)
  let s := s.setPw { s.hub.power with below := heldSince s.cycle s.hub.power.below s.hub.power.under }
  let p := s.tile.power
  let run := s.running && !s.switching
  let slow := heldSince s.cycle p.slowFrom
    (run && decide (s.fmin.toNat < (s.strip s.ownStrip).held.toNat) && decide (s.fmin.toNat < p.code.toNat))
  let fast := heldSince s.cycle p.fastFrom (run && decide (p.code.toNat ≤ s.fmin.toNat))
  s.setPower { p with slowFrom := slow, fastFrom := fast, armed := p.armed || heldMs s.cycle fast }

/-! ### Sleep and wake (R357, R358) -/

/-- The 20 µs of HOLD (2,400 CYCLE ticks to the µs, R7). -/
def holdTicks : Nat := 48000

/-- They have ended (R357). -/
def State.holdOver (s : State) : Bool :=
  s.tile.power.state == .hold && decide (holdTicks ≤ (s.cycle - s.tile.power.since).toNat)

/-- The tile's 20 µs of HOLD have ended, and it is not in a SLEEP with a limit, which is never gated (R357). -/
def State.mayGate (s : State) : Bool :=
  s.holdOver && (match s.tile.wait with
    | .sleep _ _ _ u => u.isNone
    | _ => true)

/-- HOLD_EXPIRE (Table 18.2): the tile writes back its shadow file and its L1, empties its caches and is gated. -/
def execHoldExpire (s : State) : Out :=
  if !s.mayGate then .next s
  else
    let halted := s.tile.front.ast == .halted || !s.tile.front.started
    let s := if halted then s else s.writeBack (wsOffset s.tile.csr.wp)
    let s := s.tile.path.l1.foldl (fun s l => s.evictLine l.addr) s
    let s := s.setPath { s.tile.path with tcache := [], l1 := [] }
    let s := s.enterPower .gated
    .next (if halted then s else s.setFront { s.tile.front with ast := .asleep })

/-- The arbiter has powered the waking tile, and its 100 ns have passed (R358). -/
def State.powered (s : State) : Bool := s.tile.power.state == .waking && decide (s.runsAt ≤ s.cycle.toNat)

/-- TILE_POWER_UP (R358). -/
def execTilePowerUp (s : State) : Out := if s.powered then .next (s.enterPower .run) else .next s

/-- 480ths of a cycle of a frequency code in one CYCLE tick of 2.4 GHz: 480 · 2 / D for the dividers D of R34. -/
def cycleParts (code : BitVec 4) : Nat :=
  match code.toNat with
  | 0 => 480
  | 1 => 384
  | 2 => 320
  | 3 => 240
  | 4 => 192
  | 5 => 160
  | 6 => 120
  | 7 => 80
  | 8 => 60
  | _ => 40

/-- A period of the tile's clock is a resident cycle: its context is resident in task mode, and the tile not in GATED or WAKING
(R371). -/
def State.countsResident (s : State) : Bool :=
  s.tile.front.started && !s.sup && s.tile.power.state != .gated && s.tile.power.state != .waking
    && (s.tile.res.ctx != 0 || s.tile.front.ast != .halted)

/-- The resident cycles of some CYCLE ticks are counted. -/
def State.countResident (s : State) (ticks : Nat) : State :=
  if s.countsResident then s.setPower { s.tile.power with resident := s.tile.power.resident + ticks * cycleParts s.tile.power.code }
  else s

/-- 1,024 resident cycles. -/
def energyPeriod : Nat := 1024 * 480

/-- ENERGY_TICK (R371): the 1,024th resident cycle charges EWS. -/
def execEnergyTick (s : State) : Out :=
  if s.tile.power.resident < energyPeriod then .next s
  else
    let s := s.setPower { s.tile.power with resident := s.tile.power.resident - energyPeriod }
    .next (s.setCtx { s.tile.ctx with energy := chargeEnergy s.tile.ctx.energy (s.tile.csr.ews.toNat % 2 ^ 32) })

/-! ### The region of a coordinate (R266) -/

/-- A coordinate lies in an element's rectangle. -/
def Rcb.holds (r : Rcb) (c : BitVec 24) : Bool :=
  let d := c.toNat / 2 ^ 10 % 4
  let y := c.toNat / 32 % 32
  let x := c.toNat % 32
  decide (r.die0.toNat ≤ d) && decide (d ≤ r.die1.toNat) && decide (r.x0.toNat ≤ x) && decide (x ≤ r.x1.toNat)
    && decide (r.y0.toNat ≤ y) && decide (y ≤ r.y1.toNat)

/-- The search of R266 from the element at place `i`. -/
def rcbFrom (l : List Rcb) (level : Nat) (c : BitVec 24) : Nat → Nat → Option Rcb
  | 0, i => l[i]?
  | fuel + 1, i =>
    match (List.range l.length).find? fun j =>
      match l[j]? with
      | some r => decide (i < j) && r.parent == i && decide (level ≤ r.level.toNat) && r.holds c
      | none => false with
    | some j => rcbFrom l level c fuel j
    | none => l[i]?

/-- The effective RCB for a level at a coordinate (R266). -/
def effectiveRcb (l : List Rcb) (level : Nat) (c : BitVec 24) : Option Rcb := rcbFrom l level c 4 0

/-! ### Leases (R205, R206, R366 to R369) -/

/-- LEASE_EXPIRY pends for this tile when its resident context held the lease (R206). -/
def State.raiseExpiry (s : State) (i : BitVec 8) (x : Strip) (st : BitVec 3) : State :=
  if i = s.ownStrip ∧ s.holdsLease x then
    s.raise fun p => { p with lease := firstOf p.lease (BitVec.ofNat 64 (x.id.toNat + st.toNat * 2 ^ 16)) }
  else s

/-- An active lease ends as expired (2) or revoked (3). -/
def State.dropLease (s : State) (i : BitVec 8) (st : BitVec 3) : State :=
  let x := s.strip i
  if x.st ≠ 1 then s
  else (s.raiseExpiry i x st).setStrip i { x with st := st, rem := 0 }

/-- A lease ends with no trap (R206, R317, R368). -/
def State.endLease (s : State) (i : BitVec 8) : State :=
  s.setStrip i { s.strip i with st := 0, id := 0, rem := 0, extra := 0, holder := 0 }

/-- Every strip number. -/
def stripNumbers : List (BitVec 8) := (List.range 256).map (BitVec.ofNat 8)

/-- Revoke every active lease. -/
def State.revokeAll (s : State) : State := stripNumbers.foldl (fun s i => s.dropLease i 3) s

/-- Σ EXTRA of the active leases. -/
def State.leasedPower (s : State) : Nat := (s.hub.strips.toList.map fun x => if x.st = 1 then x.extra.toNat else 0).sum

/-- Σ EXTRA × REM of the active leases, in 1/16 W × µs. -/
def State.leasedEnergy (s : State) : Nat := (s.hub.strips.toList.map fun x => x.extra.toNat * s.remaining x).sum

/-- max(0, min(PCAP, GCEIL) − PREJ), in 1/16 W. -/
def State.headroom (s : State) : Nat :=
  let p := s.hub.power
  (min p.pcap.toNat p.gceil.toNat - p.prej.toNat) * 16

/-- The strip of a tile. -/
def State.stripNo (s : State) (t : BitVec 24) : BitVec 8 :=
  if t = s.own then s.ownStrip else BitVec.ofNat 8 ((coordDie t).toNat * 64 + stripOf (s.physOf t))

/-- PGRANT.BOOST of a tile that runs a context: of the executing tile as its CSR holds it, of another one as the context's
creation set it, from the effective level-2 RCB (R266, R315). -/
def State.boosted (s : State) (t : BitVec 24) (ctx : Nat) : Bool :=
  if t = s.own then s.tile.ctx.pgrant.getLsbD 24
  else match s.ctxOf ctx with
    | some c => (effectiveRcb c.rcbs 2 t).any fun r => r.boost
    | none => false

/-- WHY of a refusal; 0 for a grant (R367). -/
def State.leaseWhy (s : State) (t : BitVec 24) (ctx : Nat) (power duration : Word) : Nat :=
  let x := s.strip (s.stripNo t)
  let ga := power.toNat
  let gb := duration.toNat
  if s.hub.fe.fbact then 6
  else if ga = 0 ∨ 128 < ga ∨ gb = 0 ∨ 60000000 < gb then 4
  else if !s.boosted t ctx then 3
  else if s.hub.power.refz then 1
  else if x.thr || x.capl || x.st == 1 || decide (s.headroom < s.leasedPower + ga) then 5
  else if 71250 * 16 * 10 ^ 6 < s.hub.power.quj * 16 + s.leasedEnergy + ga * gb then 2
  else 0

/-- The answer of the strip controller (R205, R367). -/
def State.answerLease (s : State) (t : BitVec 24) (ctx : Nat) (power duration : Word) : State × Word :=
  let i := s.stripNo t
  let x := s.strip i
  if x.st = 1 ∧ x.holder = ctx then (s, x.id.setWidth 64)
  else
    let why := s.leaseWhy t ctx power duration
    if why ≠ 0 then (s, BitVec.ofNat 64 (why * 2 ^ 16))
    else
      let p := s.hub.power
      let s := s.setPw { p with nextId := if p.nextId = 65535 then 1 else p.nextId + 1, serial := p.serial + 1 }
      let s := s.setStrip i { x with
        id := p.nextId, rem := duration.setWidth 32, extra := power.setWidth 8, st := 1, holder := ctx
        serial := p.serial, granted := s.cycle }
      (s, p.nextId.setWidth 64)

/-- LEASE_REQUEST (R367): the SPRL of a tile that runs a context reaches its strip controller. -/
def execLeaseRequest (t : BitVec 24) (ctx : Nat) (power duration : Word) (s : State) : Out :=
  let mine := s.tile.wait == .lease power duration && t == s.own && ctx == s.tile.res.ctx
  let (s, v) := s.answerLease t ctx power duration
  .next (if mine then s.setWait (.leaseAnswer v) else s)

/-- SPRL (R205). -/
def execSprl (gd : Guard) (d a b : BitVec 5) (s : State) : Out :=
  match s.tile.wait with
  | .leaseAnswer v => (s.setWait .idle).finishG d v
  | .lease .. => .next (s.stall .resource)
  | _ => cWord 0 gd s fun s => noTx s fun s => .next ((s.setWait (.lease (s.g a) (s.g b))).stall .resource)

/-- SPRX (R206). -/
def execSprx (gd : Guard) (d a : BitVec 5) (s : State) : Out :=
  cWord 0 gd s fun s => noTx s fun s =>
    let x := s.strip s.ownStrip
    if s.holdsLease x ∧ x.id = (s.g a).setWidth 16 then (s.endLease s.ownStrip).finishG d 1 else s.finishG d 0

/-- LEASE_EXPIRE (R368). -/
def execLeaseExpire (i : BitVec 8) (s : State) : Out :=
  if (s.strip i).st = 1 ∧ s.remaining (s.strip i) = 0 then .next (s.dropLease i 2) else .next s

/-! ### Temperature (R360, R361) -/

/-- The last four readings are each at or below TTHR - 3 °C. -/
def Strip.cool (x : Strip) : Bool := decide (4 ≤ x.recent.length) && x.recent.all fun t => decide (t.toInt ≤ x.tthr.toInt - 48)

/-- A sample is due: 50 µs of 2,400 CYCLE ticks (R7) have passed since the one before. -/
def Strip.sampleDue (x : Strip) (now : Word) : Bool := decide (120000 ≤ (now - x.sampled).toNat)

/-- One sample: the strip afterwards. Each state lasts at least 1 ms. -/
def Strip.sample (x : Strip) (now : Word) (temp : BitVec 16) : Strip :=
  let x := { x with temp := temp, sampled := now, recent := (temp :: x.recent).take 4 }
  if (now - x.turned).toNat < msTicks then x
  else if x.thr then (if x.cool then { x with thr := false, turned := now } else x)
  else if x.tthr.toInt ≤ temp.toInt then { x with thr := true, tcnt := satInc x.tcnt, turned := now }
  else x

/-- The strip of a tile is throttled, or its measured power exceeds the budget of the context's effective level-3 RCB (R323). -/
def State.strained (s : State) (c : Ctx) (t : BitVec 24) : Bool :=
  let x := s.strip (s.stripNo t)
  x.thr || (effectiveRcb c.rcbs 3 t).any fun r => decide (r.pbudget.toNat < x.pwr.toNat)

/-- A strip is strained for one of the tiles that the dispenser serves. -/
def State.strainedStrip (s : State) (i : BitVec 8) : Bool :=
  (s.strip i).thr || s.hub.fe.ctxs.any fun c => c.ended.isNone && c.queues.any fun x => s.stripNo x.1 == i && s.strained c x.1

/-- THERMAL_SAMPLE (R360): every 50 µs; a reading between is no sample. Entry into the throttled state revokes the lease. Since when
the strip has been strained goes with it (R323). -/
def execThermalSample (i : BitVec 8) (temp power : BitVec 16) (s : State) : Out :=
  let x := s.strip i
  let y := if x.sampleDue s.cycle then { x.sample s.cycle temp with pwr := power } else x
  let s := s.setStrip i y
  let s := s.setStrip i { y with withheld := heldSince s.cycle y.withheld (s.strainedStrip i) }
  .next (if y.thr && !x.thr then s.dropLease i 3 else s)

/-! ### The heat store (R365, R366) and R363 -/

/-- Q after a millisecond at a power, in µJ. -/
def heatAfter (quj milliwatts prej : Nat) : Nat := min (quj + milliwatts - prej * 1000) 75000000000

/-- An update of the heat store is due: 1 ms has passed since the one before. -/
def State.heatDue (s : State) : Bool := decide (msTicks ≤ (s.cycle - s.hub.power.heatAt).toNat)

/-- 30 s have passed since refreeze began. -/
def State.refrozen (s : State) : Bool := decide (30000 * msTicks ≤ (s.cycle - s.hub.power.refzAt).toNat)

/-- HEAT_STORE_UPDATE, every 1 ms, with the package power averaged over it: Q, MELT and refreeze. -/
def execHeatStoreUpdate (milliwatts : BitVec 32) (s : State) : Out :=
  if !s.heatDue then .next s
  else
    let p := s.hub.power
    let q := heatAfter p.quj milliwatts.toNat p.prej.toNat
    let enter := !p.refz && decide (71250000000 ≤ q)
    let leave := p.refz && decide (q ≤ 15000000000) && s.refrozen
    let s := s.setPw { p with
      quj := q, melt := BitVec.ofNat 11 (q * 1024 / 75000000000), heatAt := s.cycle
      refz := if enter then true else if leave then false else p.refz
      refzAt := if enter then s.cycle else p.refzAt }
    .next (if enter then s.revokeAll else s)

/-- CAP_BREACH_DETECT (R363): once per episode, when a clamp, and not a throttle alone, has held the tile slower than FMIN for a
whole millisecond. -/
def execCapBreachDetect (power : BitVec 16) (s : State) : Out :=
  if !s.tile.power.armed || !heldMs s.cycle s.tile.power.slowFrom then .next s
  else
    let v := BitVec.ofNat 64 (power.toNat + s.tile.ctx.pgrant.toNat % 2 ^ 16 * 2 ^ 16)
    let s := s.setPower { s.tile.power with armed := false, fastFrom := none }
    .next (s.raise fun p => { p with capBreach := firstOf p.capBreach v })

/-! ### The package cap and the governor (R362) -/

/-- A cap as it is taken: 500 to 3,000 W. -/
def clampCap (x : BitVec 12) : BitVec 12 := BitVec.ofNat 12 (min 3000 (max 500 x.toNat))

/-- The strip of the newest active lease. -/
def State.newestLease (s : State) : Option (BitVec 8) :=
  (stripNumbers.foldl (fun best i =>
    if (s.strip i).st ≠ 1 then best
    else match best with
      | none => some i
      | some j => if (s.strip j).serial < (s.strip i).serial then some i else some j) none)

/-- Revoke leases, newest first, until those that remain fit. -/
def State.fitLeases (s : State) : Nat → State
  | 0 => s
  | n + 1 =>
    if s.leasedPower ≤ s.headroom then s
    else match s.newestLease with
      | none => s
      | some i => (s.dropLease i 3).fitLeases n

/-- Change every strip, each by its number. -/
def State.eachStrip (s : State) (f : Nat → Strip → Strip) : State :=
  s.setHub { s.hub with strips := Vector.ofFn fun i : Fin 256 => f i.val (s.hub.strips.get i) }

/-- A clamp code of Table 18.1 that the firmware or the governor chooses for a strip: a free value (log 6). -/
def State.freeClamp (s : State) (i : Nat) : BitVec 4 := faster (Config.clampCode s.free i) 9

/-- The firmware raises its clamps, strip by strip and by free amounts, while the measured power exceeds the cap (R362; log 57). -/
def State.capPower (s : State) : State :=
  if s.hub.power.pcap.toNat < s.hub.power.ppwr.toNat then s.eachStrip fun i x => { x with clamp := slower x.clamp (s.freeClamp i) } else s

/-- PCAP_WRITE: leases go, newest first, and the firmware's clamps rise while the power exceeds the cap; a cap that is raised may
ease them, by free amounts (log 57). The governor's clamps stay. -/
def execPcapWrite (cap : BitVec 12) (s : State) : Out :=
  let eased := decide (s.hub.power.pcap.toNat < (clampCap cap).toNat)
  let s := (s.setPw { s.hub.power with pcap := clampCap cap }).fitLeases 256
  let s := if eased then s.eachStrip fun i x => { x with clamp := faster x.clamp (s.freeClamp i) } else s
  .next s.capPower

/-- PPWR is measured anew, and the firmware keeps the cap. -/
def State.measured (s : State) (w : BitVec 12) : State := (s.setPw { s.hub.power with ppwr := w }).capPower

/-- The code after a rise: at least one slower than the clamp in force, and at most 9. -/
def raisedClamp (held free : BitVec 4) : BitVec 4 := faster 9 (slower free (if 9 ≤ held.toNat then 9 else held + 1))

/-- GOVERNOR_TRIP: every strip's clamp rises at once, by a free amount (log 6). -/
def execGovernorTrip (s : State) : Out :=
  let p := s.hub.power
  let s := s.setPw { p with clamp := true, below := none, nclamp := if p.clamp || p.nclamp == BitVec.allOnes 16 then p.nclamp else p.nclamp + 1 }
  .next (s.eachStrip fun i x => { x with gov := raisedClamp x.held (s.freeClamp i) })

/-- The governor may end its clamp: the power has stayed below min(PCAP, GCEIL) for 1 ms. -/
def State.clampOver (s : State) : Bool := s.hub.power.clamp && s.hub.power.under && heldMs s.cycle s.hub.power.below

/-- GOVERNOR_RELEASE: the governor's clamps end; those of the firmware stay. -/
def execGovernorRelease (s : State) : Out :=
  if !s.clampOver then .next s
  else .next ((s.setPw { s.hub.power with clamp := false }).eachStrip fun _ x => { x with gov := 0 })

end Sys2Proof.Machine
end

