-- ==== Sys2Proof/Machine/Rows.lean ====
section
/-!
DEFINITION. Companding and the row sums of the matrix unit (R60 to R64, Table 2.11).
-/

namespace Sys2Proof.Machine

/-! ### FP32 arithmetic of the curves (R61) -/

/-- Round an exact value to FP32 in RNE, with FTZ ignored. -/
def toF32 (x : Ext) : Nat := (fp32.convert false .rne x).1

/-- FP32 sum. -/
def f32Add (a b : Nat) : Nat := toF32 ((fp32.decode a).add false (fp32.decode b)).1
/-- FP32 difference. -/
def f32Sub (a b : Nat) : Nat := toF32 ((fp32.decode a).add false (fp32.decode b).neg).1
/-- FP32 product. -/
def f32Mul (a b : Nat) : Nat := toF32 ((fp32.decode a).mul (fp32.decode b)).1

/-- An exact quotient of magnitudes rounded once to FP32. -/
def ratioF32 (ma : Nat) (ea : Int) (mb : Nat) (eb : Int) : Nat :=
  if ma = 0 ∨ mb = 0 then 0
  else
    let k := 64 + Nat.log2 mb
    let q := ma * 2 ^ k / mb
    (fp32.round false true false .rne false q (ea - eb - k) (decide (ma * 2 ^ k % mb ≠ 0))).1

/-- The quotient of two positive FP32 numbers. -/
def f32Div (a b : Nat) : Nat :=
  match fp32.decode a, fp32.decode b with
  | .fin _ ma ea, .fin _ mb eb => ratioF32 ma ea mb eb
  | _, _ => 0

/-- a ≤ b for FP32 codes of non-negative numbers. -/
def f32Le (a b : Nat) : Bool := !(fp32.decode b).lt (fp32.decode a)

/-- 1.0. -/
def f32One : Nat := 0x3F800000

/-- A companding table: breakpoints, slopes and knots as FP32 codes (R60, R61). -/
structure Curve where
  b : List Nat
  s : List Nat
  y : List Nat
  deriving DecidableEq, Repr

/-- The knots. -/
def knots : Nat → List Nat → List Nat → List Nat
  | y, b0 :: b1 :: b, s0 :: s => y :: knots (f32Add y (f32Mul s0 (f32Sub b1 b0))) (b1 :: b) s
  | y, _, _ => [y]

/-- Codes strictly increase as non-negative numbers do. -/
def rising : List Nat → Bool
  | a :: b :: r => decide (a < b) && rising (b :: r)
  | _ => true

/-- A slope is finite, normal and positive. -/
def slopeOk (c : Nat) : Bool := decide (0x0400 ≤ c) && decide (c ≤ 0x7BFF)

/-- The curve in 32 bytes; none where the table is invalid (R60). -/
def curveOf (bytes : Nat) : Option Curve :=
  let h := splitNat 16 bytes 16
  let b := (List.range 8).map fun j => h.getD (2 * j) 0
  let s := (List.range 8).map fun j => h.getD (2 * j + 1) 0
  if b.headD 1 = 0 && rising b && decide (b.getD 7 0 < 0x3C00) && s.all slopeOk then
    let bf := b.map fun c => toF32 (fp16.decode c)
    let sf := s.map fun c => toF32 (fp16.decode c)
    some { b := bf, s := sf, y := knots 0 bf sf }
  else none

/-- The largest index whose knot does not exceed a value. -/
def knotAt (l : List Nat) (x : Nat) : Nat := (List.range 8).foldl (fun j i => if f32Le (l.getD i 0) x then i else j) 0

/-- The code magnitude from 0 to Q of t, an FP32 value from 0 to 1 (R61). -/
def Curve.level (c : Curve) (t q : Nat) : Nat :=
  let j := knotAt c.b t
  let u := f32Add (c.y.getD j 0) (f32Mul (c.s.getD j 0) (f32Sub t (c.b.getD j 0)))
  let u := if (fp32.decode u).lt (.fin false 0 0) then 0 else if f32Le u f32One then u else f32One
  match fp32.decode (f32Mul u (toF32 (Ext.ofInt q))) with
  | .fin _ m e => (roundMag .rne false m e false 0).1
  | _ => 0

/-- Forward: |x| with the bound M gives a code magnitude from 0 to Q (R61). -/
def Curve.forward (c : Curve) (mag : Nat) (exp : Int) (mm : Nat) (me : Int) (q : Nat) : Nat :=
  let r := ratioF32 mag exp mm me
  c.level (if f32Le r f32One then r else f32One) q

/-- A companded code is inexact when k × M / Q differs from |x|. -/
def companded (k mag : Nat) (exp : Int) (mm : Nat) (me : Int) (q : Nat) : Flags :=
  flIf (magLt (k * mm) me (mag * q) exp || magLt (mag * q) exp (k * mm) me) flNX

/-- Inverse: a code magnitude k with the bound M gives a BF16 value (R61). -/
def Curve.inverse (c : Curve) (neg : Bool) (k q mm : Nat) (me : Int) : Ext :=
  let u := ratioF32 k 0 q 0
  let j := knotAt c.y u
  let t := f32Add (c.b.getD j 0) (f32Div (f32Sub u (c.y.getD j 0)) (c.s.getD j 0))
  match fp32.decode t with
  | .fin _ m e => bf16.decode (bf16.convert false .rne (.fin neg (m * mm) (e + me))).1
  | x => x

/-- The value of a companded code of a format (R61). -/
def compandedValue (c : Curve) (f : Format) (scale scale2 code : Nat) : Ext :=
  match f with
  | .mxInt8 =>
    if scale = 255 then .nan false
    else let v := intOf 8 code; c.inverse (decide (v < 0)) v.natAbs 127 127 ((scale : Int) - 133)
  | .int4 => let v := intOf 4 code; c.inverse (decide (v < 0)) v.natAbs 7 7 0
  | _ =>
    if scale = 255 ∨ scale2 = 255 then .nan false
    else
      let n := f.tbN
      let e := if code / 2 ^ (n - 2) % 2 = 1 then scale2 else scale
      let qmax := 2 ^ (n - 2) - 1
      c.inverse (decide (code / 2 ^ (n - 1) % 2 = 1)) (code % 2 ^ (n - 2)) qmax qmax ((e : Int) - 127 - f.tbF)

/-- A value as a companded INT4 code (R61); an infinity has t = 1. -/
def compandInt4 (c : Curve) (x : Ext) : Nat × Flags :=
  match x with
  | .nan _ => (0, flNV)
  | .inf neg => let k := c.level f32One 7; (intCode 4 (if neg then -(k : Int) else k), flNX)
  | .fin neg m e =>
    let k := c.forward m e 7 0 7
    (intCode 4 (if neg then -(k : Int) else k), companded k m e 7 0 7)

/-- A block of 32 values as a companded record (R56, R57, R61). -/
def compandBlock (c : Curve) (f : Format) (xs : List Ext) : Nat × Flags :=
  match finites xs with
  | none => (packRecord f (xs.map fun _ => 0) 255 (match f with
      | .mxInt8 => 0
      | _ => 255), flNV)
  | some l =>
    match f with
    | .mxInt8 =>
      let (scale, fs) := mxScale f (amax l)
      let (cs, fl) := runElems (fun _ x =>
        let k := c.forward x.mag x.exp 127 ((scale : Int) - 133) 127
        (intCode 8 (if x.neg then -(k : Int) else k), companded k x.mag x.exp 127 ((scale : Int) - 133) 127)) 0 l
      (packRecord f cs scale 0, (fl ||| fs) &&& flNX)
    | _ =>
      let (ehi, elo) := tbExponents l
      let n := f.tbN
      let qmax := 2 ^ (n - 2) - 1
      let (cs, fl) := runElems (fun _ (x : Fin32) =>
        let lo := magLt x.mag x.exp 1 ((ehi : Int) - 130)
        let me : Int := ((if lo then elo else ehi : Nat) : Int) - 127 - f.tbF
        let k := c.forward x.mag x.exp qmax me qmax
        ((if x.neg then 2 ^ (n - 1) else 0) + (if lo then 2 ^ (n - 2) else 0) + k, companded k x.mag x.exp qmax me qmax)) 0 l
      (packRecord f cs ehi elo, fl)

/-! ### Formats of the matrix unit (Tables 2.11, 6.3) -/

/-- The class of a format that the matrix unit accepts. -/
def matrixClass (f : Format) : Option Nat :=
  match f with
  | .e2m1 | .mxE2m1 | .tb4 => some 0
  | .e4m3 | .e5m2 | .e2m3 | .e3m2 | .mxE4m3 | .mxE5m2 | .mxE2m3 | .mxE3m2 | .tb8 => some 1
  | .bf16 | .fp16 => some 2
  | .int8 => some 3
  | .mxInt8 => some 4
  | .int4 => some 5
  | _ => none

/-- The integer classes. -/
def integerClass (k : Nat) : Bool := decide (3 ≤ k)

/-- Bits of an element in a delivered row (Table 4.7). -/
def rowBits (f : Format) : Nat := if f.bits = 6 then 8 else f.bits

/-- K elements of a row. -/
def perRow (f : Format) : Nat := 512 / rowBits f

/-- The codes of a delivered row. -/
def rowCodes (f : Format) (row : Nat) : List Nat := (splitNat (rowBits f) row (perRow f)).map fun c => c % 2 ^ f.bits

/-- The scale bytes of block `n` in a side band. -/
def sideScale (f : Format) (side n : Nat) : Nat × Nat :=
  match f with
  | .tb8 | .tb4 => (side / 2 ^ (16 * n) % 256, side / 2 ^ (16 * n + 8) % 256)
  | _ => (side / 2 ^ (8 * n) % 256, 0)

/-- The exact values of a delivered row; FTZ acts on BF16 and FP16 (R63). -/
def rowValues (f : Format) (ftz : Bool) (row side : Nat) : List Ext :=
  (rowCodes f row).mapIdx fun i c =>
    if f.isBlock then let (a, b) := sideScale f side (i / 32); decodeBlockElem f a b c else decodeElem f ftz c

/-! ### Row sums (R63, R64) -/

/-- Products of two rows, with the flags of invalid cases and signalling NaNs. -/
def products : List Ext → List Ext → List Ext × Flags
  | x :: xs, y :: ys => let (p, f) := x.mul y; let (ps, fs) := products xs ys; (p :: ps, f ||| fs)
  | _, _ => ([], 0)

/-- The greatest exponent of the non-zero terms. -/
def maxLog : List Ext → Option Int
  | [] => none
  | .fin _ m e :: r =>
    if m = 0 then maxLog r
    else match maxLog r with
      | some k => some (max k (floorLog m e))
      | none => some (floorLog m e)
  | _ :: r => maxLog r

/-- The truncated sum of finite terms in units of 2^q, and whether truncation discarded a bit. -/
def truncSum (q : Int) : List Ext → Int × Bool
  | [] => (0, false)
  | .fin n m e :: r =>
    let (s, b) := truncSum q r
    let k := if q ≤ e then m * 2 ^ (e - q).toNat else m / 2 ^ (q - e).toNat
    let lost := decide (e < q) && decide (m % 2 ^ (q - e).toNat ≠ 0)
    (s + (if n then -(k : Int) else k), b || lost)
  | _ :: r => truncSum q r

/-- One floating-point K row added to an accumulator value (R63). Truncation alone raises NX, and no UF (log 63). -/
def floatRowFrom (ftz : Bool) (c : Ext) (a b : List Ext) : Nat × Flags :=
  let (ps, fp) := products a b
  let terms := c :: ps
  let posInf := terms.any fun x => x == .inf false
  let negInf := terms.any fun x => x == .inf true
  let nv := fp ||| flIf c.isSig flNV ||| flIf (posInf && negInf) flNV
  if terms.any Ext.isNan || (posInf && negInf) then (0x7FC00000, nv)
  else if posInf then (0x7F800000, nv)
  else if negInf then (0xFF800000, nv)
  else match maxLog terms with
    | none => (if terms.all fun x => match x with
        | .fin n _ _ => n
        | _ => false then 0x80000000 else 0, nv)
    | some l =>
      let q := l - 40
      let (s, lost) := truncSum q terms
      let (code, fl) := fp32.round false true ftz .rne (decide (s < 0)) s.natAbs q false
      (code, nv ||| fl ||| flIf lost flNX)

/-- One floating-point K row into an FP32 accumulator word (R63). -/
def floatRow (ftz : Bool) (acc : Nat) (a b : List Ext) : Nat × Flags := floatRowFrom ftz (fp32.read ftz acc) a b

/-- Σ a × b of two integer rows. -/
def dot : List Int → List Int → Int
  | x :: xs, y :: ys => x * y + dot xs ys
  | _, _ => 0

/-- A block term of MXINT8 (R64), from the exact sum and the two scales, and what the rounding has taken off it, in units of
2^-254. -/
def blockTerm (p : Int) (sa sb : Nat) : Int × Int × Flags :=
  if sa = 255 ∨ sb = 255 then (0, 0, flNV)
  else
    let k := (roundMag .rne (decide (p < 0)) p.natAbs ((sa : Int) + sb - 254) false 0).1
    let t := if p < 0 then -(k : Int) else k
    (t, p * 2 ^ (sa + sb) - t * 2 ^ 254, 0)

/-- Block terms of rows of 32 elements each: their sum, the sum of what the rounding has taken off them, and their flags. -/
def blockTerms : List (List Int × Nat) → List (List Int × Nat) → Int × Int × Flags
  | (x, sx) :: xs, (y, sy) :: ys =>
    let (t, d, f) := blockTerm (dot x y) sx sy
    let (ts, ds, fs) := blockTerms xs ys
    (t + ts, d + ds, f ||| fs)
  | _, _ => (0, 0, 0)

/-- Add to an INT32 accumulator word, clamping (R64). -/
def clampAcc (acc : Nat) (s : Int) : Nat × Flags :=
  let (v, sat) := clampInt 32 (intOf 32 acc + s)
  (intCode 32 v, flIf sat (flSAT ||| flOF))

/-- One K row of the matrix unit's operands as delivered: bytes and side band. -/
structure KRow where
  row  : Nat
  side : Nat
  deriving DecidableEq, Repr

/-- The blocks of an MXINT8 row with their scales. -/
def KRow.blocks (x : KRow) : List (List Int × Nat) :=
  (List.range 2).map fun n =>
    (((rowCodes .mxInt8 x.row).drop (32 * n)).take 32 |>.map (intOf 8), (sideScale .mxInt8 x.side n).1)

/-- row_step (R147); an MXINT8 row whose sum is not exact raises NX (R46). -/
def rowStep (fa fb : Format) (ftz : Bool) (acc : Nat) (a b : KRow) : Nat × Flags :=
  match fa with
  | .mxInt8 =>
    let (t, d, f) := blockTerms a.blocks b.blocks
    let (v, g) := clampAcc acc t
    (v, f ||| g ||| flIf (d != 0) flNX)
  | .int8 => clampAcc acc (dot ((rowCodes fa a.row).map (intOf 8)) ((rowCodes fb b.row).map (intOf 8)))
  | .int4 => clampAcc acc (dot ((rowCodes fa a.row).map (intOf 4)) ((rowCodes fb b.row).map (intOf 4)))
  | _ => floatRow ftz acc (rowValues fa ftz a.row a.side) (rowValues fb ftz b.row b.side)

end Sys2Proof.Machine
end

