-- ==== Sys2Proof/Machine/Matrix.lean ====
section
/-!
DEFINITION. Matrix A-words, major 0x09 (R139 to R150).
-/

namespace Sys2Proof.Machine

/-! ### The configuration image (Table 6.2) -/

def cfgFmta (c : Row) : BitVec 5 := c.extractLsb' 0 5
def cfgFmtb (c : Row) : BitVec 5 := c.extractLsb' 8 5
def cfgArows (c : Row) : Nat := (c.extractLsb' 16 3).toNat
def cfgKptr (c : Row) : BitVec 7 := c.extractLsb' 32 7
def cfgKbeg (c : Row) : BitVec 7 := c.extractLsb' 40 7
def cfgKend (c : Row) : BitVec 7 := c.extractLsb' 48 7
/-- GRANT. -/
def cfgGrant (c : Row) : Word := c.extractLsb' 128 64

/-- The RW fields. -/
def cfgRw : Row := 0x1F + 0x1F * 2 ^ 8 + 0x7 * 2 ^ 16 + 0x7F * 2 ^ 32 + 0x7F * 2 ^ 40 + 0x7F * 2 ^ 48
/-- The RO fields: SEL and GRANT. -/
def cfgRo : Row := 1 * 2 ^ 56 + (2 ^ 64 - 1) * 2 ^ 128

/-- Check 4 of R141: the cursors. -/
def cursorsOk (c : Row) : Bool :=
  decide ((cfgKbeg c).toNat ≤ (cfgKptr c).toNat) && decide ((cfgKptr c).toNat ≤ (cfgKend c).toNat)
    && decide ((cfgKend c).toNat ≤ 84)

/-- A FORMAT trap of MCFG: its EVAL, or none. -/
def cfgFormat (c : Row) : Option Word :=
  match formatOf (cfgFmta c), formatOf (cfgFmtb c) with
  | none, _ => some ((cfgFmta c).setWidth 64)
  | _, none => some ((cfgFmtb c).setWidth 64 + 0x100)
  | some a, some b =>
    match matrixClass a, matrixClass b with
    | none, _ => some ((cfgFmta c).setWidth 64)
    | _, none => some ((cfgFmtb c).setWidth 64 + 0x100)
    | some x, some y => if x = y then none else some ((cfgFmtb c).setWidth 64 + 0x300)

/-- What MCFG finds wrong with an image: a cause, with the EVAL of a FORMAT trap (R141). -/
def cfgFault (c : Row) : Option (BitVec 8 × Option Word) :=
  let unconfigured := cfgFmta c == 0 && cfgFmtb c == 0 && cfgArows c == 0
  if c &&& ~~~(cfgRw ||| cfgRo) ≠ 0 then some (Cause.illegalInstr, none)
  else match (if unconfigured then none else cfgFormat c) with
    | some v => some (Cause.format, some v)
    | none =>
      if (!unconfigured && (decide (cfgArows c = 0) || decide (4 < cfgArows c))) || !cursorsOk c then
        some (Cause.illegalInstr, none)
      else none

/-- A TMMA or TMM that has neither committed nor faulted holds the matrix unit: those of the queue, but for a head whose
fault is held, and a part of a TILE packet's instruction that runs. Matrix A-words, which were all passed after them, wait
(R152, R158). -/
def State.borrowed (s : State) : Bool :=
  let q := s.tile.seq.queue
  let faulted := s.tile.seq.stopped && s.tile.seq.held.any fun r => r.head
  ((if faulted then q.tail else q).any SeqEntry.borrows) || s.childBorrows

/-- A matrix A-word (R12, R150, R158): guarded off it stalls on nothing. -/
def matrixWord (gd : Guard) (s : State) (k : State → Out) : Out :=
  aWord 3 gd s fun s => if s.borrowed then .next (s.stallX .resource) else k s

/-- The operand z. -/
def isZ (x : BitVec 5) : Bool := x == 28

/-- MCFG (R141). -/
def execMcfg (gd : Guard) (d a : BitVec 5) (s : State) : Out :=
  matrixWord gd s fun s =>
    issueA 3 s true true [a] [d] [] fun s =>
      let old := s.tile.matrix.cfg
      if isZ a then ((s.writeRow d old).finishA 0)
      else
        let new := s.rowAt a
        match cfgFault new with
        | some (c, some v) => s.faultA c v
        | some (c, none) => s.faultA c s.aEval
        | none =>
          let s := (s.popAll [a]).setMatrix { s.tile.matrix with cfg := (new &&& cfgRw) ||| (old &&& cfgRo) }
          (s.writeRow d old).finishA 0

/-! ### Weight banks (R143 to R146) -/

/-- The bank of a bank bit. -/
def MatrixUnit.bank (m : MatrixUnit) (b : BitVec 1) : Memory := if b = 1 then m.bankB else m.bankA

/-- Replace a bank. -/
def MatrixUnit.setBank (m : MatrixUnit) (b : BitVec 1) (x : Memory) : MatrixUnit :=
  if b = 1 then { m with bankB := x } else { m with bankA := x }

/-- Column `j` of a slot. -/
def bankCol (x : Memory) (slot j : Nat) : KRow :=
  { row := x.readNat (576 * slot + 64 * j) 64, side := x.readNat (576 * slot + 512 + 8 * j) 8 }

/-- Write a column. -/
def putCol (x : Memory) (slot j : Nat) (c : KRow) : Memory :=
  (x.writeNat (576 * slot + 64 * j) 64 c.row).writeNat (576 * slot + 512 + 8 * j) 8 c.side

/-- Write columns from `j` on. -/
def putCols (x : Memory) (slot : Nat) : Nat → List KRow → Memory
  | _, [] => x
  | j, c :: r => putCols (putCol x slot j c) slot (j + 1) r

/-- One group of a compressed entry (R145): its four bytes, or none where the positions do not rise. -/
def expandGroup (row g : Nat) : Option Nat :=
  let nib := row / 2 ^ (8 * 32 + 4 * g) % 16
  let p0 := nib % 4
  let p1 := nib / 4
  if p1 ≤ p0 then none
  else some (row / 2 ^ (16 * g) % 256 * 2 ^ (8 * p0) + row / 2 ^ (16 * g + 8) % 256 * 2 ^ (8 * p1))

/-- Expand the groups from `g` on; the number of the first that fails. -/
def expandFrom (row : Nat) : Nat → Nat → Except Nat (List Nat)
  | 0, _ => .ok []
  | n + 1, g =>
    match expandGroup row g with
    | none => .error g
    | some x => match expandFrom row n (g + 1) with
      | .ok l => .ok (x :: l)
      | .error e => .error e

/-- The columns of an MLDB; the EVAL of a FORMAT trap where a group fails. -/
def mldbCols (comp : Bool) : Nat → List PortEntry → Except Word (List KRow)
  | _, [] => .ok []
  | j, e :: r =>
    let side := e.side.toNat % 2 ^ 64
    let row := if comp then expandFrom e.row.toNat 16 0 else .ok []
    match row with
    | .error g => .error (BitVec.ofNat 64 (0x200 + 16 * j + g))
    | .ok gs => match mldbCols comp (j + 1) r with
      | .error v => .error v
      | .ok l => .ok ({ row := if comp then joinNat 32 gs else e.row.toNat, side := side } :: l)

/-- FMTB codes that COMP accepts (R145). -/
def compFormats : List Nat := [0x01, 0x0C, 0x0D, 0x0E, 0x0F, 0x11, 0x12, 0x13, 0x14, 0x16, 0x18]

/-- A matrix word that takes `n` entries of an in port (R144, R147): unbound, not ready, poisoned, or go on. -/
def takeEntries (cls : Fin 8) (s : State) (k : BitVec 3) (n : Nat) (effect : State → List PortEntry → Out) : Out :=
  let x := inOperand k
  let l := s.tile.ports.inq.get k.toFin
  if s.exeKind x = 0 then (s.charge cls).faultA Cause.portUnbound (x.setWidth 64)
  else if l.length < n then .next (s.stallX .port)
  else match (l.take n).findSome? PortEntry.poison with
    | some (c, p) => (s.charge cls).faultA c p
    | none => effect (s.charge cls) (l.take n)

/-- Pop entries of an in port. -/
def State.popEntries (s : State) (k : BitVec 3) (n : Nat) : State :=
  s.setPorts { s.tile.ports with inq := s.tile.ports.inq.set k.toNat ((s.tile.ports.inq.get k.toFin).drop n) k.isLt }

/-- Writing a slot gives its words fresh check bits (R296). -/
def State.clearWeight (s : State) (b : BitVec 1) (slot : BitVec 7) : State :=
  let here (p : ErrorPlace) : Bool := match p with
    | .weight x y _ => x == b && y == slot
    | _ => false
  s.setErrors { s.hub.errors with bad := s.hub.errors.bad.filter fun p => !here p, soft := s.hub.errors.soft.filter fun p => !here p }

/-- MLDB (R144). -/
def execMldb (gd : Guard) (b : BitVec 1) (slot : BitVec 7) (c : BitVec 1) (k : BitVec 3) (s : State) : Out :=
  matrixWord gd s fun s =>
    if 84 < slot.toNat ∨ (c = 1 ∧ ¬compFormats.contains (cfgFmtb s.tile.matrix.cfg).toNat) then
      (s.charge 3).faultA Cause.illegalInstr s.aEval
    else takeEntries 3 s k 8 fun s es =>
      match mldbCols (c == 1) 0 es with
      | .error v => s.faultA Cause.format v
      | .ok cols =>
        let m := s.tile.matrix
        let s := (s.popEntries k 8).setMatrix (m.setBank b (putCols (m.bank b) slot.toNat 0 cols))
        (s.clearWeight b slot).finishA 0

/-- MSWP (R146). -/
def execMswp (gd : Guard) (o : BitVec 2) (s : State) : Out :=
  matrixWord gd s fun s =>
    let s := s.charge 3
    let c := s.tile.matrix.cfg
    let sel := match o.toNat with
      | 0 => 1 - (cfgSel c).toNat
      | 1 => 0
      | _ => 1
    (s.setMatrix { s.tile.matrix with cfg := cfgPut c 56 1 sel }).finishA 0

/-! ### Multiply-accumulate (R147) -/

/-- Word `n` of an accumulator image. -/
def accWord (a : BitVec 1024) (n : Nat) : Nat := a.toNat / 2 ^ (32 * n) % 2 ^ 32

/-- One accumulator row of eight words. -/
def mmaRow (fa fb : Format) (ftz : Bool) (acc : BitVec 1024) (i : Nat) (a : KRow) (cols : List KRow) : List Nat × Flags :=
  runElems (fun j c => rowStep fa fb ftz (accWord acc (8 * i + j)) a c) 0 cols

/-- The rows of an accumulator, from row `i` on, with the rows that no entry names unchanged. -/
def mmaRows (fa fb : Format) (ftz : Bool) (acc : BitVec 1024) (cols : List KRow) : Nat → Nat → List KRow → List Nat × Flags
  | 0, _, _ => ([], 0)
  | n + 1, i, [] => ((List.range 8).map fun j => accWord acc (8 * i + j)).append (mmaRows fa fb ftz acc cols n (i + 1) []).1 |> fun l => (l, 0)
  | n + 1, i, a :: r =>
    let (ws, f) := mmaRow fa fb ftz acc i a cols
    let (rest, fs) := mmaRows fa fb ftz acc cols n (i + 1) r
    (ws ++ rest, f ||| fs)

/-- The slot that an MMA uses. -/
def mmaSlot (c : Row) (adv : Bool) (slot : BitVec 7) : BitVec 7 := if adv then cfgKptr c else slot

/-- The configuration after an MMA (KPTR steps under ADV). -/
def mmaStep (c : Row) (adv : Bool) : Row :=
  if adv then cfgPut c 32 7 (if cfgKptr c = cfgKend c then (cfgKbeg c).toNat else (cfgKptr c).toNat + 1) else c

/-- The first column of a slot with an uncorrectable word. -/
def State.weightBad (s : State) (b : BitVec 1) (slot : BitVec 7) : Option (Fin 8) :=
  (List.finRange 8).find? fun j => s.hub.errors.bad.contains (.weight b slot (BitVec.ofNat 3 j.val))

/-- A slot's correctable errors are corrected when it is read (R296). -/
def State.correctWeight (s : State) (b : BitVec 1) (slot : BitVec 7) : State :=
  s.correctWhere fun p => match p with
    | .weight x y _ => x == b && y == slot
    | _ => false

/-- EVAL of a SOFT_ERROR of the weight buffer. -/
def weightEval (b : BitVec 1) (slot : BitVec 7) (j : Nat) : Word :=
  BitVec.ofNat 64 (2 ^ 63 + b.toNat * 2 ^ 16 + slot.toNat * 2 ^ 8 + j)

/-- The format of a configured code. -/
def cfgFormatOf (c : BitVec 5) : Format := (formatOf c).getD .raw

/-- MMA (R147). -/
def execMma (gd : Guard) (a : BitVec 4) (v : BitVec 1) (slot : BitVec 7) (k : BitVec 3) (s : State) : Out :=
  if !s.guardA gd then .next (s.charge 5).retireA
  else matrixWord gd s fun s =>
    let c := s.tile.matrix.cfg
    let adv := v == 1
    if 84 < slot.toNat ∨ (adv ∧ slot ≠ 0) then (s.charge 5).faultA Cause.illegalInstr s.aEval
    else if cfgArows c = 0 then (s.charge 5).faultA Cause.format 0
    else takeEntries 5 s k (cfgArows c) fun s es =>
      let n := mmaSlot c adv slot
      let b := cfgSel c
      match s.weightBad b n with
      | some j => s.faultA Cause.softError (weightEval b n j.val)
      | none =>
        let s := s.correctWeight b n
        let cols := (List.range 8).map (bankCol (s.tile.matrix.bank b) n.toNat)
        let rows := es.map fun e => { row := e.row.toNat, side := e.side.toNat % 2 ^ 64 : KRow }
        let acc := s.tile.regs.acc.get a.toFin
        let (ws, fl) := mmaRows (cfgFormatOf (cfgFmta c)) (cfgFormatOf (cfgFmtb c)) s.ftz acc cols 4 0 rows
        let s := (s.popEntries k (cfgArows c)).setRegs { s.tile.regs with
          acc := s.tile.regs.acc.set a.toNat (BitVec.ofNat 1024 (joinNat 32 ws)) a.isLt }
        (s.setMatrix { s.tile.matrix with cfg := mmaStep c adv }).finishA fl

/-- MACZ (R148). -/
def execMacz (gd : Guard) (m : BitVec 16) (s : State) : Out :=
  matrixWord gd s fun s =>
    let s := s.charge 3
    (s.setRegs { s.tile.regs with acc := s.tile.regs.acc.mapIdx fun i x => if m.getLsbD i then 0 else x }).finishA 0

/-- MRD (R149). -/
def execMrd (gd : Guard) (d : BitVec 5) (j : BitVec 4) (h c : BitVec 1) (s : State) : Out :=
  matrixWord gd s fun s =>
    issueA 3 s true true [] [d] [] fun s =>
      let x := s.tile.regs.acc.get j.toFin
      let half := x.extractLsb' (512 * h.toNat) 512
      let kept := x &&& ~~~((((1 : BitVec 1024) <<< 512) - 1) <<< (512 * h.toNat))
      let s := if c = 1 then
          s.setRegs { s.tile.regs with acc := s.tile.regs.acc.set j.toNat kept j.isLt } else s
      (s.writeRow d half).finishA 0

end Sys2Proof.Machine
end

