-- ==== Sys2Proof/Machine/Tensor.lean ====
section
/-!
DEFINITION. Tensors of tile instructions: handles and shape records, where elements lie, reading elements, and staging
what an instruction writes (R27, R42, R60, R154, R155, R257, R319, Tables 1.7, 6.8, 6.9).
-/

namespace Sys2Proof.Machine

/-! ### Computations that read memory and may fault -/

/-- A check of Table 6.8 failed: its cause and value. -/
abbrev TileFault := BitVec 8 × Word

/-- Why a computation stops: a fault, or an output page that is write-blocked (R289). -/
inductive TileStop where
  | fault (cause : BitVec 8) (value : Word)
  | blocked (t : TEntry)
  deriving DecidableEq, Repr

/-- A tile instruction's computation: it reads memory, and answers a value or stops. -/
abbrev TileM (α : Type) := State → State × Except TileStop α

/-- Answer a value. -/
def tpure {α : Type} (x : α) : TileM α := fun s => (s, .ok x)

/-- Fault. -/
def tfail {α : Type} (c : BitVec 8) (v : Word) : TileM α := fun s => (s, .error (.fault c v))

/-- One computation and then another. -/
def tbind {α β : Type} (x : TileM α) (f : α → TileM β) : TileM β := fun s =>
  match x s with
  | (s, .ok a) => f a s
  | (s, .error e) => (s, .error e)

/-- The same computation on every element of a list, in order. -/
def tmap {α β : Type} (f : α → TileM β) : List α → TileM (List β)
  | [] => tpure []
  | x :: r => tbind (f x) fun y => tbind (tmap f r) fun ys => tpure (y :: ys)

/-- Fault when a condition fails. -/
def trequire (ok : Bool) (c : BitVec 8) (v : Word) : TileM Unit := if ok then tpure () else tfail c v

/-! ### The setting of an instruction -/

/-- Who runs an instruction: this tile's sequencer for its resident context; a tile for a TILE packet; the hub, which joins parts
and checks the whole of an instruction before it is cut (R152, R255, R261). -/
inductive Runner where
  | resident
  | part (tile : BitVec 24)
  | hub
  deriving DecidableEq, Repr

/-- What an instruction runs with: the handle registers, the shape table, the sampled values, the grant, and who runs it
(R153, R256, R319). -/
structure TileEnv where
  insn   : Word
  frame  : Vector (BitVec 32) 16
  shtb   : Word
  shtn   : Nat
  seedk  : Word
  seeds  : Word
  srfix  : Word
  rm     : Nat
  ftz    : Bool
  /-- K rows of the grant where K may be cut (R261); none where it is not. -/
  kg     : Option Nat
  runner : Runner
  /-- The checks of a start, before any part runs: no page stalls them, and they are no accesses that count. -/
  dry    : Bool
  /-- The records that the package has read, by position; none where the shape table is read (R259). -/
  shapes : List (Nat × BitVec 512)
  /-- The part of D that a unit forms: first index and extent in each dimension; none for all of it (R258). -/
  part   : Option (List (Nat × Nat))
  /-- The part of K that a unit forms; none for all of them, joined (R261). -/
  kpart  : Option Nat
  ctxid  : BitVec 12
  root   : BitVec 38
  deriving DecidableEq, Repr

/-- An instruction of a TILE packet. -/
def TileEnv.pkg (e : TileEnv) : Bool := e.runner != .resident
/-- This tile runs it, by its own path to memory (R152, R155). -/
def TileEnv.here (e : TileEnv) (s : State) : Bool := e.runner == .resident || e.runner == .part s.own
def TileEnv.param (e : TileEnv) : BitVec 32 := e.insn.extractLsb' 32 32
def TileEnv.top (e : TileEnv) : Nat := e.insn.toNat / 2 ^ 24 % 64
def TileEnv.mode (e : TileEnv) : Nat := e.insn.toNat % 16
/-- The handle in a position: 0 hd, 1 ha, 2 hb, 3 hc. -/
def TileEnv.handle (e : TileEnv) (pos : Nat) : BitVec 32 :=
  e.frame.get (BitVec.ofNat 4 (e.insn.toNat / 2 ^ (20 - 4 * pos))).toFin

/-! ### Access (Table 4.1) -/

/-- The translation that this tile caches for an address of the instruction's address space. -/
def State.cachedFor (s : State) (e : TileEnv) (va : Nat) : Option TEntry :=
  if e.here s then (s.tile.path.tcache ++ s.tile.path.pinned).find? fun t => t.serves e.ctxid va else none

/-- The translation of a virtual address in the instruction's address space. -/
def State.entryFor (s : State) (e : TileEnv) (va : Nat) : Option TEntry :=
  match s.cachedFor e va with
  | some t => some t
  | none => s.walkTables e.ctxid e.root va

/-- A walk for an address reads the entries on its path: the walkers of the tile's die, or the hub (R227, R288). -/
def State.walkFor (s : State) (e : TileEnv) (p : Word) : State :=
  if !ptrVirtual p || (s.cachedFor e (ptrVa p)).isSome then s
  else match e.runner with
    | .resident => s.walkReads s.own e.root (ptrVa p)
    | .part t => s.walkReads t e.root (ptrVa p)
    | .hub => s.hubWalk e.root (ptrVa p)

/-- A host pointer (Table 13.10). -/
def hostPtr (p : Word) : Bool := ptrFmt p == 0x1E

/-- A pointer some bytes further. -/
def hubAdd (p : Word) (n : Nat) : Word := if hostPtr p then p + BitVec.ofNat 64 n else ptrAdd p (BitVec.ofNat 64 n)

/-- Where an access of the hub goes: pointers relative to logical tile (0, 0) of die 0 (R319, R320). -/
def State.hubPlace (s : State) (ctxid : BitVec 12) (root : BitVec 38) (acc : Acc) (p : Word) (align n : Nat) : Place :=
  let zero : BitVec 24 := s.hub.boot.pkgId.setWidth 24 <<< 12
  if ptrFmt p = 0x1F ∨ ptrFmt p = 0x1E then .trap Cause.accessFault p
  else if ptrVirtual p then
    if ptrVa p % align ≠ 0 then .trap Cause.misaligned p
    else match s.walkTables ctxid root (ptrVa p) with
      | none => .trap Cause.pageFault p
      | some t =>
        if !s.permits acc t (ptrVa p) n then .trap Cause.accessFault p
        else if acc.writes && t.leaf.getLsbD 5 then .blocked
        else .mem (t.target (ptrVa p)) (some t)
  else
    let off := ptrOff p
    match (if ptrRel p then resolveCoord zero (ptrCoord p) else some (ptrCoord p)) with
    | none => .trap Cause.accessFault p
    | some c =>
      if off % align ≠ 0 then .trap Cause.misaligned p
      else if p.toNat / 2 ^ 27 % 8 ≠ 0 || !offsetOk off || !offsetOk (off + n - 1) || decide (c.toNat / 32 % 32 = 31)
          || !s.reachable (coordPkg c) || inStaging off || inStaging (off + n - 1) then
        .trap Cause.accessFault p
      else if s.touchesActive false (coordBase c + off) n then .trap Cause.accessFault p
      else .mem (coordBase c + off) none

/-- Where bytes of a tensor lie. -/
def State.tensorPlace (s : State) (e : TileEnv) (acc : Acc) (p : Word) (n : Nat) : Place :=
  if e.pkg then s.hubPlace e.ctxid e.root acc p 1 n
  else if ptrFmt p = 0x1E ∨ ptrFmt p = 0x1F then .trap Cause.accessFault p
  else if ptrVirtual p then
    match s.entryFor e (ptrVa p) with
    | none => .trap Cause.pageFault p
    | some t => s.checkVirtual false acc p n t
  else s.resolve false acc p 1 n

/-- The home addresses of `n` bytes, piece by piece. -/
def placeBytes (e : TileEnv) (acc : Acc) (p : Word) (n : Nat) : TileM (List Nat) := fun s =>
  match tmap (fun (x : Nat × Nat) => fun s =>
    let q := ptrAdd p (BitVec.ofNat 64 x.1)
    let s := s.walkFor e q
    let bytes (a : Nat) : List Nat := (List.range x.2).map fun i => a + i
    match s.tensorPlace e acc q x.2 with
    | .mem a _ => (s, .ok (bytes a))
    | .trap c v => (s, .error (.fault c v))
    | .window _ => (s, .error (.fault Cause.misaligned p))
    | .blocked => match s.entryFor e (ptrVa q) with
      | some t => (s, if e.dry then .ok (bytes (t.target (ptrVa q))) else .error (.blocked t))
      | none => (s, .error (.fault Cause.pageFault q))
    | .walk => (s, .error (.fault Cause.pageFault p))) (pagePieces p.toNat (n / 4096 + 2) 0 n) s with
  | (s, .ok l) => (s, .ok l.flatten)
  | (s, .error x) => (s, .error x)

/-- Read one byte at its home as another tile does. -/
def State.tileByte (s : State) (t : BitVec 24) (a : Nat) : State × Option Byte :=
  let s := (s.txHits a 1 true).agentRead (s.pairScope t) a 1
  (s, if decide (a < hostBase) && s.badAt a then none else some (s.mem.read a))

/-- Read one byte: through this tile's path, as an agent beside the access half (R180), or at its home by another tile or the
hub. -/
def readByte (e : TileEnv) (p : Word) (a : Nat) : TileM Nat := fun s =>
  let (s, v) : State × Option Nat :=
    if e.here s then (s.txHits a 1 true).readPlace a 1
    else
      let (s, b) := match e.runner with
        | .part t => s.tileByte t a
        | _ => s.hubByte a
      (s, b.map BitVec.toNat)
  match v with
  | some v => (s, .ok v)
  | none => (s, .error (.fault Cause.softError p))

/-- Read `n` bytes at a pointer as a little-endian number. -/
def readTensor (e : TileEnv) (p : Word) (n : Nat) : TileM Nat :=
  tbind (placeBytes e .load p n) fun l => tbind (tmap (readByte e p) l) fun bs => tpure (joinNat 8 bs)

/-- Read `n` bytes of the shape table at an offset; SHTB of a packet may be a host pointer (R281). -/
def readTable (e : TileEnv) (off n : Nat) : TileM Nat :=
  let p := hubAdd e.shtb off
  if e.pkg && hostPtr e.shtb then fun s =>
    if s.hostOk (p.toNat % 2 ^ 59) n then (s, .ok (s.mem.readNat (hostBase + p.toNat % 2 ^ 59) n))
    else (s, .error (.fault Cause.accessFault p))
  else readTensor e (ptrAdd e.shtb (BitVec.ofNat 64 off)) n

/-! ### Shape records (Table 1.7) -/

/-- A shape record as read. -/
structure Shape where
  bits : Nat
  deriving DecidableEq, Repr

def Shape.field (r : Shape) (pos width : Nat) : Nat := r.bits / 2 ^ pos % 2 ^ width
def Shape.code (r : Shape) : Nat := r.field 0 5
def Shape.rank (r : Shape) : Nat := r.field 12 2 + 1
def Shape.strict (r : Shape) : Bool := r.field 14 1 == 1
def Shape.ctid (r : Shape) : Nat := r.field 16 8
/-- Extents: D0 is innermost. -/
def Shape.ext (r : Shape) (k : Nat) : Nat := r.field (64 + 32 * k) 32
/-- Signed strides. -/
def Shape.stride (r : Shape) (k : Nat) : Int := intOf 32 (r.field (192 + 32 * k) 32)
def Shape.base (r : Shape) : Word := BitVec.ofNat 64 (r.field 320 64)
def Shape.origin (r : Shape) : Nat := r.field 384 64
def Shape.gen (r : Shape) : Nat := r.field 448 12
/-- Number of elements. -/
def Shape.count (r : Shape) : Nat := r.ext 0 * r.ext 1 * r.ext 2 * r.ext 3

/-- EVAL of SHAPE_MISMATCH (Table 6.9). -/
def shapeEval (why pos : Nat) (h : BitVec 32) : Word := BitVec.ofNat 64 (why * 2 ^ 36 + pos * 2 ^ 32 + h.toNat)

/-- Check 1: the record of a handle (R27). -/
def shapeOf (e : TileEnv) (h : BitVec 32) : TileM Shape :=
  let slot := h.toNat / 2 ^ 12
  if e.shtn ≤ slot then tfail Cause.handleStale (h.setWidth 64)
  else tbind (readTable e (64 * slot) 64) fun v =>
    let r : Shape := { bits := v }
    if r.gen ≠ h.toNat % 2 ^ 12 then tfail Cause.handleStale (h.setWidth 64) else tpure r

/-- The record of the operand in a position: the one that the package has read, or its handle's (R27, R259). -/
def recordAt_ (e : TileEnv) (pos : Nat) : TileM Shape :=
  match e.shapes.find? fun x => x.1 == pos with
  | some x => tpure { bits := x.2.toNat }
  | none => shapeOf e (e.handle pos)

/-- An operand: its position, handle, record and format. -/
structure Operand where
  pos : Nat
  h   : BitVec 32
  r   : Shape
  f   : Format
  curve : Option Curve
  deriving DecidableEq, Repr

/-- SHAPE_MISMATCH of an operand. -/
def mismatch {α : Type} (o : Operand) (why : Nat) : TileM α := tfail Cause.shapeMismatch (shapeEval why o.pos o.h)

/-- Check 3 (Table 1.7). -/
def Shape.fieldsOk (r : Shape) (f : Format) : Bool :=
  decide (r.field 5 3 = 0) && decide (r.field 8 3 = if f.isBlock then 5 else 0) && decide (r.field 11 1 = 0)
    && decide (r.field 15 1 = 0) && decide (r.field 24 40 = 0) && decide (r.field 460 52 = 0)
    && (List.range 4).all fun k => if k < r.rank then decide (1 ≤ r.ext k) else decide (r.ext k = 1)

/-- Formats that carry a companding table (R60). -/
def compands (f : Format) : Bool := f == .mxInt8 || f == .int4 || f == .tb8 || f == .tb4

/-- Checks 1 to 3 of the used positions, position by position within each check. -/
def operands (e : TileEnv) (ps : List Nat) : TileM (List Operand) :=
  tbind (tmap (fun p => tbind (recordAt_ e p) fun r => tpure (p, r)) ps) fun rs =>
    tbind (tmap (fun (x : Nat × Shape) =>
      match formatOf (BitVec.ofNat 5 x.2.code) with
      | some f => tpure { pos := x.1, h := e.handle x.1, r := x.2, f := f, curve := none : Operand }
      | none => tfail Cause.format (BitVec.ofNat 64 x.2.code)) rs) fun os =>
      tbind (tmap (fun o =>
        if !o.r.fieldsOk o.f then mismatch o 1
        else if o.r.ctid ≠ 0 && !compands o.f then mismatch o 7
        else tpure ()) os) fun _ => tpure os

/-- The companding table of an operand, read and checked with check 5 (R60). -/
def withCurve (e : TileEnv) (o : Operand) : TileM Operand :=
  if o.r.ctid = 0 then tpure o
  else tbind (readTable e (64 * e.shtn + 32 * (o.r.ctid - 1)) 32) fun v =>
    match curveOf v with
    | some c => tpure { o with curve := some c }
    | none => tfail Cause.format (BitVec.ofNat 64 (0x100 + o.r.ctid))

/-! ### Where elements lie (R42, R257) -/

/-- A non-block format of 4 bits. -/
def nibbles (f : Format) : Bool := f.bits == 4 && !f.isBlock

/-- What a stride must be a multiple of. -/
def pitchUnit (f : Format) (k : Nat) : Nat :=
  if nibbles f then 1 else if f.isBlock then (if k = 0 then 1 else f.recordBytes) else f.bits / 8

/-- Every stride is a multiple of its divisor, whatever the rank (R257). -/
def Operand.stridesOk (o : Operand) : Bool :=
  (List.range 4).all fun k => decide (o.r.stride k % (pitchUnit o.f k : Int) = 0)

/-- The pitch of dimension `k` (R257). -/
def Operand.pitch (o : Operand) (k : Nat) : Int :=
  if nibbles o.f then (if k = 0 then o.r.stride 0 else 2 * o.r.stride k)
  else if o.f.isBlock then (if k = 0 then 1 else 32 * (o.r.stride k / (o.f.recordBytes : Int)))
  else o.r.stride k / ((o.f.bits / 8 : Nat) : Int)

/-- An index in four dimensions. -/
abbrev Ix := List Nat

/-- Coordinate `k`. -/
def ixAt (i : Ix) (k : Nat) : Nat := i.getD k 0

/-- The global element index (R257). -/
def Operand.gindex (o : Operand) (i : Ix) : Nat :=
  ((o.r.origin + ((List.range 4).map fun k => (ixAt i k : Int) * o.pitch k).sum) % (2 ^ 64 : Int)).toNat

/-- Byte strides of dimensions 1 to 3 of an index. -/
def Operand.outer (o : Operand) (i : Ix) : Int := ([1, 2, 3].map fun k => (ixAt i k : Int) * o.r.stride k).sum

/-- The pointer to a byte offset from BASE. -/
def Operand.at (o : Operand) (off : Int) : Word := ptrAdd o.r.base (BitVec.ofInt 64 off)

/-- The bytes of an element or of its record: pointer, length, and the bit at which the code lies. -/
def Operand.span (o : Operand) (i : Ix) : Word × Nat × Nat :=
  if o.f.isBlock then
    (o.at ((ixAt i 0 / 32 : Nat) * (o.f.recordBytes : Int) + o.outer i), o.f.recordBytes, o.f.bits * (ixAt i 0 % 32))
  else if nibbles o.f then
    let n := (ixAt i 0 : Int) * o.r.stride 0 + 2 * o.outer i
    (o.at (n / 2), 1, if n % 2 = 0 then 0 else 4)
  else (o.at ((ixAt i 0 : Int) * o.r.stride 0 + o.outer i), o.f.bits / 8, 0)

/-! ### Reading elements -/

/-- An element as read: its code, scale bytes and exact value. -/
structure Elem where
  code  : Nat
  scale : Nat
  value : Ext
  deriving DecidableEq, Repr

/-- The exact value of a code of an operand (R49, R51, R61). -/
def Operand.valueOf (o : Operand) (ftz : Bool) (code s1 s2 : Nat) : Ext :=
  match o.curve with
  | some c => compandedValue c o.f s1 s2 code
  | none => if o.f.isBlock then decodeBlockElem o.f s1 s2 code else decodeElem o.f ftz code

/-- Read an element. -/
def readElem (e : TileEnv) (o : Operand) (i : Ix) : TileM Elem :=
  let (p, n, bit) := o.span i
  tbind (readTensor e p n) fun v =>
    let code := v / 2 ^ bit % 2 ^ o.f.codeBits
    let off := 32 * o.f.bits
    let s1 := v / 2 ^ off % 256
    let s2 := v / 2 ^ (off + 8) % 256
    tpure { code := code, scale := s1, value := o.valueOf e.ftz code s1 s2 }

/-- Read the whole record, or the code, of an element. -/
def readCode (e : TileEnv) (o : Operand) (i : Ix) : TileM Nat :=
  let (p, n, bit) := o.span i
  tbind (readTensor e p n) fun v => tpure (if o.f.isBlock then v else v / 2 ^ bit % 2 ^ o.f.codeBits)

/-- Every index of given extents, dimension 0 innermost. -/
def indices (d0 d1 d2 d3 : Nat) : List Ix :=
  (List.range d3).flatMap fun i3 => (List.range d2).flatMap fun i2 => (List.range d1).flatMap fun i1 =>
    (List.range d0).map fun i0 => [i0, i1, i2, i3]

/-- An index of D lies in the part that the unit forms. -/
def TileEnv.covers (e : TileEnv) (i : Ix) : Bool :=
  match e.part with
  | none => true
  | some r => (List.range 4).all fun k =>
    let x := r.getD k (0, 1)
    decide (x.1 ≤ ixAt i k) && decide (ixAt i k < x.1 + x.2)

/-- Every index of an operand. -/
def Operand.indices (o : Operand) : List Ix := Machine.indices (o.r.ext 0) (o.r.ext 1) (o.r.ext 2) (o.r.ext 3)

/-- The first index of each block record, or of each element. -/
def Operand.units (o : Operand) : List Ix :=
  if o.f.isBlock then
    (Machine.indices ((o.r.ext 0 + 31) / 32) (o.r.ext 1) (o.r.ext 2) (o.r.ext 3)).map fun i =>
      match i with
      | b :: r => 32 * b :: r
      | [] => []
  else o.indices

/-- The indices of the elements of a unit. -/
def Operand.members (o : Operand) (i : Ix) : List Ix :=
  if o.f.isBlock then
    (List.range (min 32 (o.r.ext 0 - ixAt i 0))).map fun k => (ixAt i 0 + k) :: i.tail
  else [i]

/-! ### Staging outputs (R155) -/

/-- Bits that a unit writes, from a pointer: mask and value as little-endian numbers of `n` bytes. -/
structure Patch where
  ptr  : Word
  n    : Nat
  mask : Nat
  bits : Nat
  deriving DecidableEq, Repr

/-- The patch of a code of a non-block element, or of a whole record. -/
def Operand.patch (o : Operand) (i : Ix) (v : Nat) : Patch :=
  let (p, n, bit) := o.span i
  if o.f.isBlock then { ptr := p, n := n, mask := 2 ^ (8 * n) - 1, bits := v }
  else { ptr := p, n := n, mask := (2 ^ o.f.bits - 1) * 2 ^ bit, bits := v * 2 ^ bit }

/-- The patch of a record with `k` elements inside the extent: the elements beyond it are written as +0
(R50), of a TB format too as the code of zeros, whichever selector R57 would give it (log 37). -/
def Operand.recordPatch (o : Operand) (i : Ix) (k v : Nat) : Patch :=
  let (p, n, _) := o.span i
  { ptr := p, n := n, mask := 2 ^ (8 * n) - 1, bits := v - (v % 2 ^ (32 * o.f.bits) - v % 2 ^ (k * o.f.bits)) }

/-- The staged bytes of a patch, each with the pointer that names its element or record. -/
def stagePatch (e : TileEnv) (p : Patch) : TileM (List (Word × StagedByte)) :=
  tbind (placeBytes e .store p.ptr p.n) fun l =>
    tpure (l.mapIdx fun i a => (p.ptr,
      { addr := a, mask := BitVec.ofNat 8 (p.mask / 2 ^ (8 * i)), bits := BitVec.ofNat 8 (p.bits / 2 ^ (8 * i)) }))

/-- Bytes that the commit would write into part of an uncorrectable dword (R298). -/
def State.stagedBad (s : State) (bs : List StagedByte) : Option StagedByte :=
  bs.find? fun b => s.badAt b.addr &&
    !(List.range 8).all fun i => bs.any fun c => c.addr == b.addr / 8 * 8 + i && c.mask == 0xFF

/-- Stage patches, with check 10 on the stores: EVAL is the pointer of the first element or record that fails it (R87, R154). -/
def stageAll (e : TileEnv) (ps : List Patch) : TileM (List StagedByte) :=
  tbind (tmap (stagePatch e) ps) fun l => fun s =>
    let named := (l.flatten).filter fun x => x.2.mask != 0 && !(addrSpm x.2.addr && inStaging (addrOff x.2.addr))
    let bs := named.map Prod.snd
    match s.stagedBad bs with
    | some b => (s, .error (.fault Cause.softError (((named.find? fun x => x.2 == b).map Prod.fst).getD 0)))
    | none => (s, .ok bs)

/-- The byte that a pointer names, whatever its FMT, BLG and REL: its home address, or its address where nothing maps it. -/
def State.byteKey (s : State) (e : TileEnv) (p : Word) : Nat :=
  if ptrVirtual p then
    match s.entryFor e (ptrVa p) with
    | some t => t.target (ptrVa p)
    | none => 2 ^ 65 + ptrVa p
  else
    match (if s.isAgent then some s.own else if ptrRel p then resolveCoord (if e.pkg then s.hub.boot.pkgId.setWidth 24 <<< 12 else s.own) (ptrCoord p)
        else some (ptrCoord p)) with
    | some c => coordBase c + ptrOff p
    | none => 2 ^ 66 + p.toNat % 2 ^ 54

/-- The bytes of a patch. -/
def State.patchKeys (s : State) (e : TileEnv) (a : Patch) : List Nat :=
  (List.range a.n).map fun i => s.byteKey e (ptrAdd a.ptr (BitVec.ofNat 64 i))

/-- Two patches write a common bit. -/
def State.patchesMeet (s : State) (e : TileEnv) (a b : Patch) : Bool :=
  (s.patchKeys e a).zipIdx.any fun (x, i) => (s.patchKeys e b).zipIdx.any fun (y, j) =>
    x == y && (a.mask / 2 ^ (8 * i) % 256) &&& (b.mask / 2 ^ (8 * j) % 256) != 0

/-! ### Writing converted values (R52, R56 to R58, R60, R161) -/

/-- The rounding mode of an element at a global index for an RM code; the counter of a draw is 0 (R161). TEW, TRED, TFILL and
TDROP, whose entries name neither, draw in the same way (log 38). -/
def TileEnv.modeFor (e : TileEnv) (rm : Nat) (index : Nat) : Mode :=
  modeOf rm (if rm = 4 then srDraw (BitVec.ofNat 64 index) 0 e.seedk e.seeds e.srfix else 0)

/-- Pad a block of values to 32 with zeros. -/
def padBlock (l : List Ext) : List Ext := l ++ List.replicate (32 - l.length) (.fin false 0 0)

/-- The patch and flags of one unit's values. -/
def Operand.convertUnit (o : Operand) (e : TileEnv) (rm : Nat) (i : Ix) (vs : List Ext) : Patch × Flags :=
  if o.f.isBlock then
    let xs := padBlock vs
    let (v, fl) := match o.curve with
      | some c => compandBlock c o.f xs
      | none => quantiseBlock o.f (fun k => e.modeFor rm (o.gindex ((ixAt i 0 + k) :: i.tail))) xs
    (o.recordPatch i vs.length v, fl)
  else
    let x := vs.headD (.fin false 0 0)
    let (v, fl) := match o.curve with
      | some c => compandInt4 c x
      | none => convertElem o.f e.ftz (e.modeFor rm (o.gindex i)) x
    (o.patch i v, fl)

/-- What an instruction writes: its patches and the flags it raises. -/
structure TileOut where
  patches : List Patch
  flags   : Flags
  deriving DecidableEq, Repr

/-- Form every element of an output and convert it. `value` gives an element's exact value and flags. -/
def produce (e : TileEnv) (o : Operand) (rm : Nat) (value : Ix → TileM (Ext × Flags)) : TileM TileOut :=
  tbind (tmap (fun i => tbind (tmap value (o.members i)) fun l =>
    let (p, fl) := o.convertUnit e rm i (l.map Prod.fst)
    tpure (p, l.foldl (fun a x => a ||| x.2) fl)) (o.units.filter e.covers)) fun us =>
    tpure { patches := us.map Prod.fst, flags := us.foldl (fun a x => a ||| x.2) 0 }

end Sys2Proof.Machine
end

