-- ==== Sys2Proof/Machine/TileOps.lean ====
section
/-!
DEFINITION. What each tile instruction checks and computes (R151, R154, R159 to R169, R256, R260 to R262, Tables 6.7,
6.8, 6.9).
-/

namespace Sys2Proof.Machine

/-! ### The rules of check 4 (Table 6.8) -/

/-- A rule of an instruction: it holds, its reason, and the first position whose record takes part. -/
structure TileRule where
  ok  : Bool
  why : Nat
  pos : Nat
  deriving DecidableEq, Repr

/-- The operand in a position. -/
def opAt (os : List Operand) (pos : Nat) : Option Operand := os.find? fun o => o.pos == pos

/-- The first rule that fails is the fault; reason 8 names no position (R154). -/
def tileRules (os : List Operand) : List TileRule → TileM Unit
  | [] => tpure ()
  | r :: rest =>
    if r.ok then tileRules os rest
    else if r.why = 8 then tfail Cause.shapeMismatch (shapeEval 8 0 0)
    else tfail Cause.shapeMismatch (shapeEval r.why r.pos ((opAt os r.pos).elim 0 fun o => o.h))

/-- The rules of an instruction where operands lie in this state. -/
def tileRulesAt (os : List Operand) (rules : State → List TileRule) : TileM Unit := fun s => tileRules os (rules s) s

/-- Strides are multiples of their divisors (R257). -/
def strideRules (os : List Operand) : List TileRule := os.map fun o => ⟨o.stridesOk, 1, o.pos⟩

/-- S0 of a block record is 0. -/
def blockRules (os : List Operand) : List TileRule :=
  os.map fun o => ⟨!o.f.isBlock || o.r.stride 0 == 0, 6, o.pos⟩

/-- The bits of every unit of an operand, as patches. -/
def Operand.footprint (o : Operand) : List Patch := o.units.map fun i => o.patch i 0

/-- Two operands share a bit. -/
def State.meets (s : State) (e : TileEnv) (a b : Operand) : Bool := a.footprint.any fun x => b.footprint.any (s.patchesMeet e x)

/-- Two operands name the same bits element for element. -/
def State.coincides (s : State) (e : TileEnv) (a b : Operand) : Bool :=
  (a.footprint.map fun x => (s.patchKeys e x, x.mask)) == b.footprint.map fun x => (s.patchKeys e x, x.mask)

/-- Overlaps: of two outputs, and in the hub of an output with an input, but for a C that coincides with D (R155, R262). -/
def State.overlapRules (s : State) (e : TileEnv) (outs ins : List Operand) : List TileRule :=
  (match outs with
    | [d, c] => [⟨!s.meets e d c, 5, d.pos⟩]
    | _ => [])
  ++ (if e.pkg then outs.flatMap fun d => ins.map fun i =>
        ⟨!s.meets e d i || (i.pos == 3 && s.coincides e d i), 5, min d.pos i.pos⟩ else [])

/-- Equal extents. -/
def sameExt (a b : Operand) : Bool := (List.range 4).all fun k => a.r.ext k == b.r.ext k

/-- A format that has numbers. -/
def Operand.numeric (o : Operand) : Bool := o.f != .raw

/-- An integer format. -/
def Operand.integer (o : Operand) : Bool := o.f.int.isSome

/-- PARAM as an FP32 value; FTZ acts on it as on every FP32 input (R44). -/
def TileEnv.scale (e : TileEnv) : Ext := fp32.read e.ftz e.param.toNat

/-- An rm field: 0 takes the sampled mode (R151). -/
def TileEnv.rmOf (e : TileEnv) (field : Nat) : Nat :=
  match field with
  | 1 => 0
  | 2 => 1
  | 3 => 4
  | _ => e.rm

/-- Pad with +0 to a number of elements. -/
def padZero (n : Nat) (l : List Ext) : List Ext := l ++ List.replicate (n - l.length) (.fin false 0 0)

/-- A product with the scale. -/
def scaledBy (e : TileEnv) (x : Ext × Flags) : Ext × Flags :=
  let (v, fl) := x.1.mul e.scale
  (v, fl ||| x.2)

/-- The positions an instruction uses (Table 6.7). -/
def TileEnv.used (e : TileEnv) : List Nat :=
  match e.top with
  | 2 => [0, 1, 2, 3]
  | 3 => [0, 1, 2]
  | 4 => if e.mode = 5 then [0, 1] else [0, 1, 2]
  | 9 => [0]
  | 7 | 11 => if e.mode / 2 % 2 = 1 then [0, 1, 3] else [0, 1]
  | _ => [0, 1]

/-! ### TMMA, TMM (R161, R260, R261) -/

/-- The class of an operand, companded ones being expanded to BF16. -/
def Operand.mclass (o : Operand) : Option Nat := if o.r.ctid ≠ 0 then some 2 else matrixClass o.f

/-- Elements of a K row (Table 2.11). -/
def Operand.per (o : Operand) : Nat := if o.r.ctid ≠ 0 then 32 else perRow o.f

/-- C, if the instruction is TMMA. -/
structure Gemm where
  d : Operand
  a : Operand
  b : Operand
  c : Option Operand
  ta : Bool
  tb : Bool
  deriving DecidableEq, Repr

def Gemm.k (x : Gemm) : Nat := if x.ta then x.a.r.ext 1 else x.a.r.ext 0
def Gemm.m (x : Gemm) : Nat := if x.ta then x.a.r.ext 0 else x.a.r.ext 1
def Gemm.n (x : Gemm) : Nat := if x.tb then x.b.r.ext 0 else x.b.r.ext 1
def Gemm.kb (x : Gemm) : Nat := if x.tb then x.b.r.ext 1 else x.b.r.ext 0
/-- The class of the pair. -/
def Gemm.cls (x : Gemm) : Nat := x.a.mclass.getD 0

/-- C's format agrees with a class. -/
def cFormatOk (cls : Nat) (f : Format) : Bool :=
  if cls = 3 ∨ cls = 5 then f == .int32 else f == .fp32 || f == .bf16 || f == .fp16

/-- The rules of TMMA and TMM. ha's record takes part in the rule of C's format, by its class. -/
def Gemm.rules (s : State) (e : TileEnv) (x : Gemm) (os : List Operand) : List TileRule :=
  let ins := [x.a, x.b] ++ x.c.toList
  strideRules os
  ++ (os.map fun o => ⟨o.r.rank == 2 || o.r.rank == 3, 2, o.pos⟩)
  ++ (os.map fun o => ⟨(!o.f.isBlock || o.r.stride 0 == 0) && !(o.f.isBlock && ((o.pos == 1 && x.ta) || (o.pos == 2 && x.tb))), 6, o.pos⟩)
  ++ [⟨x.d.numeric && !(x.a.mclass == some 4 && x.b.mclass == some 4 && x.d.integer), 4, 0⟩,
      ⟨x.a.mclass.isSome && x.a.mclass == x.b.mclass, 4, 1⟩]
  ++ (x.c.toList.map fun c => ⟨cFormatOk x.cls c.f, 4, 1⟩)
  ++ [⟨x.d.r.ext 1 == x.m && x.d.r.ext 0 == x.n && (os.all fun o => o.r.ext 2 == x.d.r.ext 2)
        && (x.c.toList.all fun c => sameExt c x.d), 3, 0⟩,
      ⟨x.k == x.kb, 3, 1⟩]
  ++ s.overlapRules e [x.d] ins
  ++ [⟨!((x.cls == 3 || x.cls == 5) && x.d.f == .int32) || e.param == 0x3F800000, 8, 0⟩]

/-- The index in A of row m and K element k. -/
def Gemm.atA (x : Gemm) (b m k : Nat) : Ix := if x.ta then [m, k, b, 0] else [k, m, b, 0]
/-- The index in B of column n and K element k. -/
def Gemm.atB (x : Gemm) (b n k : Nat) : Ix := if x.tb then [n, k, b, 0] else [k, n, b, 0]

/-- An accumulator: the exact value of an FP32 word, or an INT32 word. -/
inductive AccVal where
  | flt (x : Ext)
  | int (w : Nat)
  deriving DecidableEq, Repr

/-- Elements in blocks of 32, each with the scale of its record. -/
def elemBlocks : Nat → List Elem → List (List Int × Nat)
  | 0, _ => []
  | _, [] => []
  | n + 1, l => ((l.take 32).map fun x => intOf 8 x.code, ((l.head?).map fun x => x.scale).getD 0) :: elemBlocks n (l.drop 32)

/-- row_step over elements that have been read (R63, R64). -/
def Gemm.step (x : Gemm) (ftz : Bool) (acc : AccVal) (as bs : List Elem) : AccVal × Flags :=
  let per := x.a.per
  match acc with
  | .flt c =>
    let (w, fl) := floatRowFrom ftz c (padZero per (as.map fun a => a.value)) (padZero per (bs.map fun b => b.value))
    (.flt (fp32.decode w), fl)
  | .int w =>
    if x.cls = 4 then
      let (t, d, f) := blockTerms (elemBlocks 2 as) (elemBlocks 2 bs)
      let (v, g) := clampAcc w t
      (.int v, f ||| g ||| flIf (d != 0) flNX)
    else
      let (v, g) := clampAcc w (dot (as.map fun a => intOf x.a.f.bits a.code) (bs.map fun b => intOf x.b.f.bits b.code))
      (.int v, g)

/-- K rows from r on, `n` of them. -/
def Gemm.rows (x : Gemm) (e : TileEnv) (b m col : Nat) : Nat → Nat → AccVal × Flags → TileM (AccVal × Flags)
  | _, 0, acc => tpure acc
  | r, n + 1, acc =>
    let ks := (List.range (min x.a.per (x.k - r * x.a.per))).map fun i => r * x.a.per + i
    tbind (tmap (fun k => readElem e x.a (x.atA b m k)) ks) fun as =>
      tbind (tmap (fun k => readElem e x.b (x.atB b col k)) ks) fun bs =>
        let (v, fl) := x.step e.ftz acc.1 as bs
        x.rows e b m col (r + 1) n (v, fl ||| acc.2)

/-- What a C element starts an accumulator with, and the value that it forces on the D element instead (MXINT8). -/
def Gemm.start (x : Gemm) (e : TileEnv) (i : Ix) : TileM (AccVal × Flags × Option Ext) :=
  match x.c with
  | none => tpure (if integerClass x.cls then .int 0 else .flt (.fin false 0 0), 0, none)
  | some c => tbind (readElem e c i) fun el =>
    if x.cls = 4 then
      match el.value with
      | .fin n m ex =>
        let (w, fl) := toIntCode 32 .rne (.fin n m (ex + 12))
        tpure (.int w, fl, none)
      | v => tpure (.int 0, flIf v.isSig flNV, some (match v with
          | .nan _ => .nan false
          | y => y))
    else if integerClass x.cls then tpure (.int el.code, 0, none)
    else tpure (.flt el.value, 0, none)

/-- The smallest power of two that is at least `n`, capped at 64. -/
def partsFor (n : Nat) : Nat := ([1, 2, 4, 8, 16, 32].find? fun p => decide (n ≤ p)).getD 64

/-- Number of parts K is cut into, and rows of a part (R261); 1 where K is not cut. -/
def Gemm.cut (x : Gemm) (e : TileEnv) : Nat × Nat :=
  let rows := (x.k + x.a.per - 1) / x.a.per
  match e.kg with
  | some kg =>
    if integerClass x.cls || kg == 0 || x.d.r.strict || x.a.r.strict || x.b.r.strict || (x.c.toList.any fun c => c.r.strict) then
      (1, rows)
    else let p := partsFor ((rows + kg - 1) / kg); (p, (rows + p - 1) / p)
  | none => (1, rows)

/-- The join of R261, level by level. -/
def joinParts (ftz : Bool) : Nat → List (Ext × Flags) → Ext × Flags
  | 0, l => l.headD (.fin false 0 0, 0)
  | n + 1, l =>
    let h := l.length / 2
    if h = 0 then l.headD (.fin false 0 0, 0)
    else joinParts ftz n (List.zipWith (fun a b =>
      let (w, fl) := fpResult fp32 ftz .rne (a.1.add false b.1)
      (fp32.decode w, fl ||| a.2 ||| b.2)) (l.take h) (l.drop h))

/-- The exact value of an accumulator (R161). -/
def Gemm.accValue (x : Gemm) : AccVal → Ext
  | .flt v => v
  | .int w => (Ext.ofInt (intOf 32 w)).shift (if x.cls = 4 then -12 else 0)

/-- An element of D before conversion; of one part of K, the sum that its unit leaves to the join. -/
def Gemm.value (x : Gemm) (e : TileEnv) (i : Ix) : TileM (Ext × Flags) :=
  let (p, q) := x.cut e
  let rows := (x.k + x.a.per - 1) / x.a.per
  tbind (x.start e i) fun st =>
    tbind (tmap (fun j =>
      let acc := if j = 0 then st.1 else .flt (.fin false 0 0)
      x.rows e (ixAt i 2) (ixAt i 1) (ixAt i 0) (j * q) (min q (rows - j * q)) (acc, 0)) (match e.kpart with
        | some j => [j]
        | none => List.range p)) fun parts =>
      let (v, fl) := joinParts e.ftz 6 (parts.map fun a => (x.accValue a.1, a.2))
      match st.2.2 with
      | some c => tpure (c, fl ||| st.2.1)
      | none => tpure (scaledBy e (v, fl ||| st.2.1))

/-- K rows of the instruction (Table 2.11). -/
def Gemm.krows (x : Gemm) : Nat := (x.k + x.a.per - 1) / x.a.per

/-- The operands of a TMMA or TMM. -/
def gemmOf (e : TileEnv) (os : List Operand) : Option Gemm :=
  match opAt os 0, opAt os 1, opAt os 2 with
  | some d, some a, some b =>
    some { d := d, a := a, b := b, c := opAt os 3, ta := decide (e.mode % 2 = 1), tb := decide (e.mode / 2 % 2 = 1) }
  | _, _, _ => none

/-- TMMA and TMM. -/
def runGemm (e : TileEnv) : TileM TileOut :=
  tbind (operands e e.used) fun os =>
    match gemmOf e os with
    | some x =>
      tbind (tileRulesAt os (fun s => x.rules s e os)) fun _ =>
        tbind (withCurve e x.d) fun d => tbind (withCurve e x.a) fun a => tbind (withCurve e x.b) fun b =>
          produce e d (e.rmOf (e.mode / 4)) ({ x with d := d, a := a, b := b }.value e)
    | none => tpure { patches := [], flags := 0 }

/-! ### TEW (R162) -/

/-- An index with broadcast dimensions set to 0. -/
def Operand.broadcast (o : Operand) (i : Ix) : Ix := i.mapIdx fun k x => if o.r.ext k = 1 then 0 else x

/-- Extents equal D's or are 1. -/
def broadcasts (d o : Operand) : Bool := (List.range 4).all fun k => o.r.ext k == d.r.ext k || o.r.ext k == 1

/-- MAX and MIN on exact values (R125). -/
def extreme (larger : Bool) (a b : Ext) : Ext × Flags :=
  if a.isNan || b.isNan then (.nan false, flIf (a.isSig || b.isSig) flNV)
  else (if larger then (if a.below b then b else a) else (if b.below a then b else a), 0)

/-- The operation of a TEW. -/
def tewOp (e : TileEnv) (a b : Ext) : Ext × Flags :=
  match e.mode with
  | 0 => Ext.add (e.rm == 3) a b
  | 1 => Ext.add (e.rm == 3) a b.neg
  | 2 => Ext.mul a b
  | 3 => extreme true a b
  | 4 => extreme false a b
  | _ => Ext.mul a e.scale

/-- TEW. -/
def runEw (e : TileEnv) : TileM TileOut :=
  let scale := e.mode == 5
  tbind (operands e e.used) fun os =>
    match opAt os 0 with
    | none => tpure { patches := [], flags := 0 }
    | some d =>
      let ins := os.filter fun o => o.pos != 0
      tbind (tileRulesAt os (fun s => strideRules os
        ++ [⟨ins.all fun o => o.r.rank == d.r.rank, 2, 0⟩]
        ++ blockRules os
        ++ [⟨d.numeric && (!ins.all Operand.integer || d.integer), 4, 0⟩]
        ++ (ins.map fun o => ⟨o.numeric, 4, o.pos⟩)
        ++ [⟨ins.all (broadcasts d), 3, 0⟩]
        ++ s.overlapRules e [d] ins
        ++ [⟨scale || e.param == 0, 8, 0⟩])) fun _ =>
        tbind (withCurve e d) fun d => tbind (tmap (withCurve e) ins) fun ins =>
          produce e d e.rm fun i =>
            tbind (tmap (fun o => readElem e o (Operand.broadcast o i)) ins) fun xs =>
              match xs with
              | a :: b :: _ => tpure (tewOp e a.value b.value)
              | a :: _ => tpure (tewOp e a.value a.value)
              | [] => tpure (.fin false 0 0, 0)

/-! ### TCVT, TRED (R163, R164) -/

/-- An instruction of one input of D's extents, whose D element comes from the A element at the same index. -/
def runMap (e : TileEnv) (rm : Nat) (f : Ext → Ext × Flags) : TileM TileOut :=
  tbind (operands e e.used) fun os =>
    match opAt os 0, opAt os 1 with
    | some d, some a =>
      tbind (tileRulesAt os (fun s => strideRules os ++ blockRules os
        ++ [⟨d.numeric, 4, 0⟩, ⟨a.numeric, 4, 1⟩, ⟨sameExt d a, 3, 0⟩] ++ s.overlapRules e [d] [a])) fun _ =>
        tbind (withCurve e d) fun d => tbind (withCurve e a) fun a =>
          produce e d rm fun i => tbind (readElem e a i) fun x => tpure (f x.value)
    | _, _ => tpure { patches := [], flags := 0 }

/-- TCVT. -/
def runCvt (e : TileEnv) : TileM TileOut := runMap e (e.rmOf (e.mode % 4)) fun x => x.mul e.scale

/-- A sum over elements of a non-integer format: groups of 32, each element with 1.0. -/
def sumFloat (ftz : Bool) : Nat → Ext → List Ext → Ext × Flags
  | 0, acc, _ => (acc, 0)
  | _, acc, [] => (acc, 0)
  | n + 1, acc, l =>
    let (w, fl) := floatRowFrom ftz acc (l.take 32) (List.replicate 32 (.fin false 1 0))
    let (r, g) := sumFloat ftz n (fp32.decode w) (l.drop 32)
    (r, fl ||| g)

/-- A sum over integer elements, in INT32: under R64, whose rows have no length here, it is clamped at each element (log 54). -/
def sumInt : Nat → List Ext → Nat × Flags
  | acc, [] => (acc, 0)
  | acc, .fin n m _ :: l =>
    let (w, fl) := clampAcc acc (if n then -(m : Int) else m)
    let (r, g) := sumInt w l
    (r, fl ||| g)
  | acc, _ :: l => sumInt acc l

/-- The extreme of a list. -/
def extremeOf (larger : Bool) : Ext → List Ext → Ext × Flags
  | x, [] => (match x with
      | .nan _ => .nan false
      | y => y, flIf x.isSig flNV)
  | x, y :: l =>
    let (m, fl) := extreme larger x y
    let (r, g) := extremeOf larger m l
    (r, fl ||| g)

/-- The reduction of the elements along a dimension. -/
def reduce (e : TileEnv) (a : Operand) (l : List Ext) : Ext × Flags :=
  match e.mode / 4 with
  | 0 =>
    if a.integer && a.curve.isNone then let (w, fl) := sumInt 0 l; (Ext.ofInt (intOf 32 w), fl)
    else sumFloat e.ftz l.length (.fin false 0 0) l
  | op => match l with
    | x :: r => extremeOf (op == 1) x r
    | [] => (.fin false 0 0, 0)

/-- TRED. -/
def runRed (e : TileEnv) : TileM TileOut :=
  let dim := e.mode % 4
  tbind (operands e e.used) fun os =>
    match opAt os 0, opAt os 1 with
    | some d, some a =>
      tbind (tileRulesAt os (fun s => strideRules os ++ blockRules os
        ++ [⟨d.numeric, 4, 0⟩, ⟨a.numeric, 4, 1⟩,
            ⟨(List.range 4).all fun k => d.r.ext k == (if k = dim then 1 else a.r.ext k), 3, 0⟩]
        ++ s.overlapRules e [d] [a] ++ [⟨decide (dim < a.r.rank), 8, 0⟩])) fun _ =>
        tbind (withCurve e d) fun d => tbind (withCurve e a) fun a =>
          produce e d e.rm fun i =>
            tbind (tmap (fun k => readElem e a (i.set dim k)) (List.range (a.r.ext dim))) fun xs =>
              tpure (scaledBy e (reduce e a (xs.map fun x => x.value)))
    | _, _ => tpure { patches := [], flags := 0 }

/-! ### TTOPK (R165) -/

/-- A candidate: its value, code and global index. -/
structure TopKey where
  value : Ext
  code  : Nat
  index : Nat
  deriving DecidableEq, Repr

/-- x ranks strictly above y by value: every NaN above +∞, all NaNs equal, -0 below +0. -/
def ranksAbove (x y : Ext) : Bool :=
  match x, y with
  | .nan _, .nan _ => false
  | .nan _, _ => true
  | _, .nan _ => false
  | a, b => b.below a

/-- x comes before y. -/
def TopKey.before (desc : Bool) (x y : TopKey) : Bool :=
  let up := if desc then ranksAbove y.value x.value else ranksAbove x.value y.value
  let down := if desc then ranksAbove x.value y.value else ranksAbove y.value x.value
  up || (!down && decide (x.index < y.index))

/-- Put a candidate into a sorted list. -/
def TopKey.insert (desc : Bool) (x : TopKey) : List TopKey → List TopKey
  | [] => [x]
  | y :: l => if x.before desc y then x :: y :: l else y :: TopKey.insert desc x l

/-- The candidates in rank order. -/
def topSort (desc : Bool) (l : List TopKey) : List TopKey := l.foldl (fun s x => TopKey.insert desc x s) []

/-- TTOPK. The codes are ranked as they stand: a companding table is neither read nor checked, and FTZ flushes no key (log 40). -/
def runTopk (e : TileEnv) : TileM TileOut :=
  let desc := decide (e.mode % 2 = 1)
  let kb := e.param.toNat / 2 ^ 16
  let kc := e.param.toNat % 2 ^ 16
  tbind (operands e e.used) fun os =>
    match opAt os 0, opAt os 1 with
    | some d, some a =>
      let c := opAt os 3
      tbind (tileRulesAt os (fun s => strideRules os ++ blockRules os
        ++ [⟨d.f == a.f, 4, 0⟩, ⟨!a.f.isBlock && a.numeric, 4, 1⟩]
        ++ (c.toList.map fun c => ⟨c.f == .int64, 4, 3⟩)
        ++ [⟨(kc == 0 || d.r.ext 0 == kc) && ([1, 2, 3].all fun k => d.r.ext k == a.r.ext k)
              && (c.toList.all fun c => sameExt c d), 3, 0⟩]
        ++ s.overlapRules e (d :: c.toList) [a]
        ++ [⟨kc != 0 && decide (kb + kc ≤ a.r.ext 0), 8, 0⟩])) fun _ =>
        tbind (tmap (fun i =>
          tbind (tmap (fun k =>
            let j := i.set 0 k
            tbind (readCode e a j) fun v => tpure { value := decodeElem a.f false v, code := v, index := a.gindex j : TopKey })
            (List.range (a.r.ext 0))) fun ks =>
            let best := ((topSort desc ks).drop kb).take kc
            tpure ((best.mapIdx fun n x => d.patch (i.set 0 n) x.code)
              ++ (match c with
                | some c => best.mapIdx fun n x => c.patch (i.set 0 n) x.index
                | none => [])))
          ((indices 1 (a.r.ext 1) (a.r.ext 2) (a.r.ext 3)).filter e.covers)) fun ps => tpure { patches := ps.flatten, flags := 0 }
    | _, _ => tpure { patches := [], flags := 0 }

/-! ### TCOPY, TFILL, TTRANS (R166) -/

/-- D takes the codes or whole records of A at another index; the codes beyond an extent go with their record (R166, log 39). -/
def moveCodes (e : TileEnv) (d a : Operand) (f : Ix → Ix) : TileM TileOut :=
  tbind (tmap (fun i => tbind (readCode e a (f i)) fun v => tpure (d.patch i v)) (d.units.filter e.covers)) fun ps =>
    tpure { patches := ps, flags := 0 }

/-- TCOPY. -/
def runCopy (e : TileEnv) : TileM TileOut :=
  tbind (operands e e.used) fun os =>
    match opAt os 0, opAt os 1 with
    | some d, some a =>
      tbind (tileRulesAt os (fun s => strideRules os ++ blockRules os ++ [⟨d.f == a.f, 4, 0⟩, ⟨sameExt d a, 3, 0⟩]
        ++ s.overlapRules e [d] [a] ++ [⟨e.param == 0, 8, 0⟩])) fun _ => moveCodes e d a fun i => i
    | _, _ => tpure { patches := [], flags := 0 }

/-- TFILL. -/
def runFill (e : TileEnv) : TileM TileOut :=
  tbind (operands e e.used) fun os =>
    match opAt os 0 with
    | some d =>
      tbind (tileRulesAt os (fun s => strideRules os ++ blockRules os ++ [⟨d.numeric, 4, 0⟩])) fun _ =>
        tbind (withCurve e d) fun d =>
          produce e d e.rm fun _ => tpure (if e.mode = 1 then Ext.ofInt (intOf 32 e.param.toNat) else e.scale, 0)
    | none => tpure { patches := [], flags := 0 }

/-- Exchange two coordinates. -/
def swapIx (a b : Nat) (i : Ix) : Ix := (i.set a (ixAt i b)).set b (ixAt i a)

/-- TTRANS. -/
def runTrans (e : TileEnv) : TileM TileOut :=
  let x := e.mode % 4
  let y := e.mode / 4
  tbind (operands e e.used) fun os =>
    match opAt os 0, opAt os 1 with
    | some d, some a =>
      tbind (tileRulesAt os (fun s => strideRules os
        ++ (os.map fun o => ⟨!o.f.isBlock || (o.r.stride 0 == 0 && x != 0 && y != 0), 6, o.pos⟩)
        ++ [⟨d.f == a.f, 4, 0⟩,
            ⟨(List.range 4).all fun k => d.r.ext k == a.r.ext (if k = x then y else if k = y then x else k), 3, 0⟩]
        ++ s.overlapRules e [d] [a]
        ++ [⟨x != y && decide (x < a.r.rank) && decide (y < a.r.rank) && e.param == 0, 8, 0⟩])) fun _ =>
        moveCodes e d a (swapIx x y)
    | _, _ => tpure { patches := [], flags := 0 }

/-! ### TDROP (R168) -/

/-- a × 2^24 / (2^24 - T): the exact quotient to 512 bits, and a bit below them for the rest. -/
def dropScale (t : Nat) : Ext → Ext
  | .fin n m e =>
    let d := 2 ^ 24 - t
    let v := m * 2 ^ 536
    .fin n (2 * (v / d) + (if v % d = 0 then 0 else 1)) (e - 513)
  | x => x

/-- TDROP. -/
def runDrop (e : TileEnv) : TileM TileOut :=
  let scl := decide (e.mode % 2 = 1)
  let t := e.param.toNat / 2 ^ 8
  let keep (d : Operand) (i : Ix) : Bool :=
    decide (t ≤ (mjx (BitVec.ofNat 64 (d.gindex i)) (e.seeds.setWidth 32) (BitVec.ofNat 32 (e.param.toNat % 256)) e.seedk).w1.toNat / 2 ^ 8)
  tbind (operands e e.used) fun os =>
    match opAt os 0, opAt os 1 with
    | some d, some a =>
      let c := opAt os 3
      tbind (tileRulesAt os (fun s => strideRules os ++ blockRules os
        ++ [⟨d.numeric, 4, 0⟩, ⟨a.numeric, 4, 1⟩] ++ (c.toList.map fun c => ⟨c.f == .int8, 4, 3⟩)
        ++ [⟨sameExt d a && (c.toList.all fun c => sameExt c d), 3, 0⟩]
        ++ s.overlapRules e (d :: c.toList) [a])) fun _ =>
        tbind (withCurve e d) fun d => tbind (withCurve e a) fun a =>
          tbind (produce e d e.rm fun i =>
            tbind (readElem e a i) fun x =>
              tpure (if !keep d i then .fin false 0 0 else if scl then dropScale t x.value else x.value, 0)) fun out =>
            tpure { out with patches := out.patches ++ (match c with
              | some c => (d.indices.filter e.covers).map fun i => c.patch i (if keep d i then 1 else 0)
              | none => []) }
    | _, _ => tpure { patches := [], flags := 0 }

/-! ### TSHAPE, TBIND, TCOLL (R159, R160, R169, R256) -/

/-- Limits of a level: the greatest M and N, and W (Table 11.2); none at a tile. -/
abbrev GrantLimits := Option (Nat × Nat × Nat)

/-- The package's limits. -/
def packageLimits : GrantLimits := some (4096, 4096, 8388608)

/-- The grant of a request (R159, R256). -/
def grantOf (limits : GrantLimits) (p : BitVec 32) : Word :=
  let m := p.toNat / 2 ^ 22
  let n := p.toNat / 2 ^ 12 % 2 ^ 10
  let k := p.toNat % 2 ^ 12
  let (mmax, nmax) := match limits with
    | some (a, b, _) => (a, b)
    | none => (64, 64)
  let mg := if m = 0 then mmax else min ((m + 3) / 4 * 4) mmax
  let ng := if n = 0 then nmax else min ((n + 7) / 8 * 8) nmax
  let bound := match limits with
    | some (_, _, w) => max 1 (w / (64 * (mg + ng)))
    | none => 85 / (ng / 8)
  let kg := if k = 0 then bound else min k bound
  BitVec.ofNat 64 (mg * 2 ^ 48 + ng * 2 ^ 32 + kg * 2 ^ 16)

/-- KG of a grant. -/
def grantK (g : Word) : Nat := g.toNat / 2 ^ 16 % 2 ^ 16

/-- The value TBIND writes: PARAM or ha, checked under R27. -/
def runBind (e : TileEnv) : TileM (BitVec 32) :=
  let h := if e.mode = 1 then e.handle 1 else e.param
  tbind (shapeOf e h) fun _ => tbind (tileRules [] [⟨e.mode == 0 || e.param == 0, 8, 0⟩]) fun _ => tpure h

/-- The part of an operand that a part of D takes: first index and extent in each dimension (Table 11.3). -/
def Operand.cutTo (o : Operand) (e : TileEnv) (ks : Nat × Nat) (r : List (Nat × Nat)) : List (Nat × Nat) :=
  let d (k : Nat) : Nat × Nat := r.getD k (0, 1)
  let whole (k : Nat) : Nat × Nat := (0, o.r.ext k)
  let all := List.range 4
  if o.pos = 0 then all.map d
  else match e.top with
    | 2 | 3 =>
      if o.pos = 1 then (if e.mode % 2 = 1 then [d 1, ks] else [ks, d 1]) ++ [d 2, d 3]
      else if o.pos = 2 then (if e.mode / 2 % 2 = 1 then [d 0, ks] else [ks, d 0]) ++ [d 2, d 3]
      else all.map d
    | 6 => all.map fun k => if k = e.mode % 4 then whole k else d k
    | 7 => if o.pos = 1 then whole 0 :: [d 1, d 2, d 3] else all.map d
    | 10 => all.map fun k => d (if k = e.mode % 4 then e.mode / 4 else if k = e.mode / 4 then e.mode % 4 else k)
    | _ => all.map fun k => if o.r.ext k = 1 then (0, 1) else d k

/-- K elements of a part of K. -/
def kRange (e : TileEnv) (os : List Operand) (p : Nat) : Nat × Nat :=
  ((gemmOf e os).map fun x =>
    let (_, q) := x.cut e
    let lo := min x.k (p * q * x.a.per)
    (lo, min (q * x.a.per) (x.k - lo))).getD (0, 1)

/-- An index lies in a region. -/
def inRegion (r : List (Nat × Nat)) (i : Ix) : Bool :=
  (List.range 4).all fun k =>
    let x := r.getD k (0, 1)
    decide (x.1 ≤ ixAt i k) && decide (ixAt i k < x.1 + x.2)

/-- The elements or records of an operand that an instruction reads or writes, or the part of it that it runs. -/
def TileEnv.touched (e : TileEnv) (os : List Operand) (o : Operand) : List Ix :=
  match e.part with
  | none => o.units
  | some r => o.units.filter (inRegion (o.cutTo e (kRange e os (e.kpart.getD 0)) r))

/-- Count the 64-byte chunks of some elements or records of an operand (R294), on the die of the tile that runs the instruction. -/
def State.countOperand (s : State) (e : TileEnv) (o : Operand) (l : List Ix) : State :=
  if !ptrVirtual o.r.base then s
  else
    let chunks := (l.flatMap fun i =>
      let (p, n, _) := o.span i
      [ptrVa p / 64, (ptrVa p + n - 1) / 64]).eraseDups
    chunks.foldl (fun s c =>
      match e.runner, s.entryFor e (64 * c) with
      | .part t, some x => s.countOn (coordDie t) x
      | _, x => s.count x) s

/-- Count the accesses of an instruction that a tile runs; the hub's accesses are no tile's. -/
def countAll (e : TileEnv) : TileM Unit :=
  if e.dry || e.runner == .hub then tpure ()
  else tbind (operands e e.used) fun os => fun s => (os.foldl (fun s o => s.countOperand e o (e.touched os o)) s, .ok ())

/-- The descriptor of a TCOLL (Table 7.12). -/
def collDescriptor (e : TileEnv) (d a : Operand) : BitVec 256 :=
  let planes := if a.f.isBlock && e.mode == 0 then e.param.toNat / 2 ^ 7 % 32 else 0
  BitVec.ofNat 256
    (e.param.toNat / 2 ^ 20 + e.param.toNat / 2 ^ 16 % 16 * 2 ^ 12 + e.param.toNat / 2 ^ 12 % 16 * 2 ^ 16
      + planes * 2 ^ 20 + a.f.code * 2 ^ 32 + e.mode * 2 ^ 37 + d.f.code * 2 ^ 40 + a.r.count % 2 ^ 32 * 2 ^ 64
      + a.r.base.toNat * 2 ^ 128 + d.r.base.toNat * 2 ^ 192)

/-- TCOLL up to its push: checks 1 to 5, then the checks of R208. A write-blocked page stalls its commit, not its start (R289). -/
def runColl (e : TileEnv) : TileM (BitVec 256) :=
  let planes := e.param.toNat / 2 ^ 7 % 32
  tbind (operands e e.used) fun os =>
    match opAt os 0, opAt os 1 with
    | some d, some a =>
      tbind (tileRulesAt os (fun s => strideRules os ++ blockRules os
        ++ [⟨formatsOk (e.mode == 0) a.f d.f (if a.f.isBlock && e.mode == 0 then 24 else 0), 4, 0⟩, ⟨sameExt d a, 3, 0⟩]
        ++ s.overlapRules e [d] [a]
        ++ [⟨decide (e.param.toNat % 2 ^ 7 = 0) && decide (e.param.toNat / 2 ^ 12 % 16 ≠ 0) && decide (2 ≤ planes)
              && decide (planes ≤ 24) && decide (a.r.count < 2 ^ 32), 8, 0⟩])) fun _ =>
        let desc := collDescriptor e d a
        tbind (readTensor e a.r.base (formatBytes a.f a.r.count)) fun _ =>
          tbind (placeBytes { e with dry := true } .store d.r.base (formatBytes d.f d.r.count)) fun _ => tbind (countAll e) fun _ => fun s =>
            match s.collectiveCheck desc with
            | .error x => (s, .error (.fault x.1 x.2))
            | .ok _ => (s, .ok desc)
    | _, _ => tpure 0

/-- The outputs of an instruction that writes tensors, staged (R154, R155). A part of K leaves its sums to the join, which writes
them (R261). -/
def runTensor (e : TileEnv) : TileM (List StagedByte × Flags) :=
  tbind (match e.top with
    | 2 | 3 => runGemm e
    | 4 => runEw e
    | 5 => runCvt e
    | 6 => runRed e
    | 7 => runTopk e
    | 8 => runCopy e
    | 9 => runFill e
    | 10 => runTrans e
    | _ => runDrop e) fun out =>
    tbind (stageAll e (if e.kpart.isSome then [] else out.patches)) fun bs => tbind (countAll e) fun _ => tpure (bs, out.flags)

end Sys2Proof.Machine
end

