-- ==== Sys2Proof/Machine/Tile.lean ====
section
/-!
DEFINITION. Tile instructions: placing them in the tile sequencer's queue, starting and committing them, TSYNC (R151 to
R160, R167, R169).
-/

namespace Sys2Proof.Machine

/-! ### Placing an instruction (R152, R153) -/

/-- A tile instruction's 64 bits (R151). -/
def tileBits (top : Nat) (gd : Guard) (hd ha hb hc mode : BitVec 4) (param : BitVec 32) : Word :=
  BitVec.ofNat 64 (2 ^ 31 + top * 2 ^ 24 + hd.toNat * 2 ^ 20 + ha.toNat * 2 ^ 16 + hb.toNat * 2 ^ 12 + hc.toNat * 2 ^ 8
    + gd.neg.toNat * 2 ^ 7 + gd.pred.toNat * 2 ^ 4 + mode.toNat + param.toNat * 2 ^ 32)

/-- The entry of an instruction placed now: its sampled values (R153). -/
def State.sample (s : State) (insn : Word) : SeqInsn :=
  let x := s.tile.ctx
  { insn := insn, addr := s.tile.front.apc, seedk := x.seedk, seeds := x.seeds, srfix := x.srfix
    rm := x.fcsr.setWidth 3, ftz := s.ftz }

/-- A tile instruction at the access half: charged to EW7, stalled while the queue is full or while the execute half has
words to issue that the sampled CSRs depend on, then queued (R152, R153). -/
def tileInsn (gd : Guard) (insn : Word) (s : State) : Out :=
  cWord 7 gd s fun s => noTx s fun s => reportTile s fun s =>
    if 8 ≤ s.tile.seq.queue.length ∨ ¬s.caughtUp then .next (s.stall .resource)
    else .next (s.setSeq { s.tile.seq with queue := s.tile.seq.queue ++ [.insn (s.sample insn)] }).retire

/-- TSHAPE. -/
def execTshape (gd : Guard) (param : BitVec 32) (s : State) : Out := tileInsn gd (tileBits 0 gd 0 0 0 0 0 param) s
/-- TBIND. -/
def execTbind (gd : Guard) (hd ha mode : BitVec 4) (param : BitVec 32) (s : State) : Out :=
  tileInsn gd (tileBits 1 gd hd ha 0 0 mode param) s
/-- TMMA. -/
def execTmma (gd : Guard) (hd ha hb hc mode : BitVec 4) (param : BitVec 32) (s : State) : Out :=
  tileInsn gd (tileBits 2 gd hd ha hb hc mode param) s
/-- TMM. -/
def execTmm (gd : Guard) (hd ha hb mode : BitVec 4) (param : BitVec 32) (s : State) : Out :=
  tileInsn gd (tileBits 3 gd hd ha hb 0 mode param) s
/-- TEW. -/
def execTew (gd : Guard) (hd ha hb mode : BitVec 4) (param : BitVec 32) (s : State) : Out :=
  tileInsn gd (tileBits 4 gd hd ha hb 0 mode param) s
/-- TCVT. -/
def execTcvt (gd : Guard) (hd ha mode : BitVec 4) (param : BitVec 32) (s : State) : Out :=
  tileInsn gd (tileBits 5 gd hd ha 0 0 mode param) s
/-- TRED. -/
def execTred (gd : Guard) (hd ha mode : BitVec 4) (param : BitVec 32) (s : State) : Out :=
  tileInsn gd (tileBits 6 gd hd ha 0 0 mode param) s
/-- TTOPK. -/
def execTtopk (gd : Guard) (hd ha hc mode : BitVec 4) (param : BitVec 32) (s : State) : Out :=
  tileInsn gd (tileBits 7 gd hd ha 0 hc mode param) s
/-- TCOPY. -/
def execTcopy (gd : Guard) (hd ha : BitVec 4) (param : BitVec 32) (s : State) : Out :=
  tileInsn gd (tileBits 8 gd hd ha 0 0 0 param) s
/-- TFILL. -/
def execTfill (gd : Guard) (hd mode : BitVec 4) (param : BitVec 32) (s : State) : Out :=
  tileInsn gd (tileBits 9 gd hd 0 0 0 mode param) s
/-- TTRANS. -/
def execTtrans (gd : Guard) (hd ha mode : BitVec 4) (param : BitVec 32) (s : State) : Out :=
  tileInsn gd (tileBits 10 gd hd ha 0 0 mode param) s
/-- TDROP. -/
def execTdrop (gd : Guard) (hd ha hc mode : BitVec 4) (param : BitVec 32) (s : State) : Out :=
  tileInsn gd (tileBits 11 gd hd ha 0 hc mode param) s
/-- TCOLL. -/
def execTcoll (gd : Guard) (hd ha mode : BitVec 4) (param : BitVec 32) (s : State) : Out :=
  tileInsn gd (tileBits 13 gd hd ha 0 0 mode param) s

/-! ### TSYNC (R167) -/

/-- PARAM of TSYNC is not 0: reason 8 (R151). -/
def paramZero (param : BitVec 32) (s : State) (k : State → Out) : Out :=
  if param = 0 then k s else s.trap false Cause.shapeMismatch (shapeEval 8 0 0)

/-- TSYNC. -/
def execTsync (gd : Guard) (mode : BitVec 4) (param : BitVec 32) (s : State) : Out :=
  cWord 7 gd s fun s => noTx s fun s => reportTile s fun s => paramZero param s fun s =>
    if s.seqIdle || s.tile.seq.stopped then wakeThen s fun s => releaseOnly s mode.toNat fun s => .next s.retire
    else .next (s.waitHere .wait)

/-- Discard the held report, and the head instruction when it caused it. -/
def State.dropReport (s : State) : State :=
  match s.tile.seq.held with
  | none => s
  | some r => s.setSeq { s.tile.seq with
      held := none, queue := if r.head then s.tile.seq.queue.tail else s.tile.seq.queue }

/-- TSYNC.DROP: in supervisor mode only; the sequencer stays stopped until TRET. -/
def execTsyncDrop (gd : Guard) (param : BitVec 32) (s : State) : Out :=
  cWordIf 7 gd s s.sup fun s => noTx s fun s => paramZero param s fun s => .next s.dropReport.retire

/-! ### Starting an instruction (R154, R158) -/

/-- The setting of an instruction at the tile. -/
def State.tileEnv (s : State) (i : SeqInsn) : TileEnv :=
  let x := s.tile.ctx
  { insn := i.insn, frame := s.tile.regs.h, shtb := x.shtb, shtn := x.shtn.toNat, seedk := i.seedk, seeds := i.seeds
    srfix := i.srfix, rm := i.rm.toNat, ftz := i.ftz, kg := none, runner := .resident, dry := false, shapes := [], part := none, kpart := none
    ctxid := s.tile.res.ctxid, root := s.tile.res.root }

/-- The sequencer stalls at a write-blocked page: the translation stays with the tile until it is removed (R289). -/
def State.stallSeq (s : State) (t : TEntry) : State :=
  let s := s.setSeq { s.tile.seq with blocked := some t }
  if s.tile.path.tcache.contains t then s else s.setPath { s.tile.path with tcache := (t :: s.tile.path.tcache).take 64 }

/-- What a computation stages, or the fault it holds; none while an output page is write-blocked. -/
def stagedOf {α : Type} (f : α → Staged) (r : State × Except TileStop α) : State × Option Staged :=
  match r with
  | (s, .ok x) => (s, some (f x))
  | (s, .error (.fault c v)) => (s, some (.failed c v))
  | (s, .error (.blocked t)) => (s.stallSeq t, none)

/-- K rows of a TMMA or TMM, whose weights pass through bank A (R274). -/
def matrixRows (e : TileEnv) (s : State) : Nat :=
  match (operands e e.used s).2 with
  | .ok os => if borrowingTop e.insn then ((gemmOf e os).map Gemm.krows).getD 0 else 0
  | .error _ => 0

/-- Check and compute an instruction into staging. -/
def State.stage (s : State) (e : TileEnv) : State × Option Staged :=
  match e.top with
  | 0 => (s, some (.grant (grantOf none e.param)))
  | 1 => stagedOf (fun h => .handle (BitVec.ofNat 4 (e.insn.toNat / 2 ^ 20)) h) (runBind e s)
  | _ => stagedOf (fun x => .outputs x.1 x.2 (matrixRows e s)) (runTensor e s)

/-- The instruction has started. -/
def State.begun (s : State) (x : Staged) : State := s.setSeq { s.tile.seq with running := some x, blocked := none }

/-- TCOLL: the descriptor is pushed to engine 1 once its FIFO has room; dirty bytes reach their homes first (R169,
R208). -/
def State.startColl (s : State) (e : TileEnv) : State :=
  if 8 ≤ s.tile.eng.fifo1.length then s
  else match stagedOf (fun _ => .collective) (runColl e s), (runColl e s).2 with
    | (s, some .collective), .ok d =>
      let rlv := s.tile.path.rlv
      let s := s.release 4
      let s := s.setPath { s.tile.path with rlv := rlv }
      (s.pushSw d true 0).begun .collective
    | (s, some x), _ => s.begun x
    | (s, none), _ => s

/-- A TMMA or TMM takes the matrix unit: its state is stored, and the weights that it loads have fresh check bits (R158, R274). -/
def State.borrow (s : State) : State := s.storeMatrix.clearWeights

/-! ### Committing (R155) -/

/-- Dwords that the staged bytes cover whole lose their errors (R298). -/
def State.clearStaged (s : State) (bs : List StagedByte) : State :=
  let covers (d : Nat) : Bool := (List.range 8).all fun i => bs.any fun c => c.addr == 8 * d + i && c.mask == 0xFF
  let gone (p : ErrorPlace) : Bool :=
    match p with
    | .memory d => covers d
    | .cache d => covers d
    | _ => false
  s.setErrors { s.hub.errors with
    bad := s.hub.errors.bad.filter fun p => !gone p, soft := s.hub.errors.soft.filter fun p => !gone p }

/-- Write one staged byte by the tile's path; a byte of another tile's SPM or of the host at its home. An engine's write has no
release level (R226). -/
def State.commitByte (s : State) (b : StagedByte) : State :=
  let s := s.txHits b.addr 1 false
  let (s, old) := if b.mask = 0xFF then (s, some 0) else s.readPlace b.addr 1
  let v := (BitVec.ofNat 8 (old.getD 0) &&& ~~~b.mask) ||| (b.bits &&& b.mask)
  if decide (hostBase ≤ b.addr) || addrSpm b.addr then
    let s := if s.isLocal b.addr then s else s.flushPosted fun p => p.reaches fun a => addrCoord a == addrCoord b.addr
    s.writeHome b.addr 1 v.toNat 7 0
  else s.cacheWrite b.addr 1 v.toNat 7 (meshPtr b.addr)

/-- Every output byte, as one group. -/
def State.commitBytes (s : State) (bs : List StagedByte) : State := bs.foldl State.commitByte (s.clearStaged bs)

/-- The head instruction leaves the queue; an enabled flag that it raised stops the sequencer (R33, R155). -/
def State.insnDone (s : State) (flags : Flags) : State :=
  let s := (s.orFlags flags).setSeq { s.tile.seq with queue := s.tile.seq.queue.tail, running := none }
  if s.enabled flags = 0 then s
  else s.setSeq { s.tile.seq with
    stopped := true, held := some { cause := Cause.fpEnabled, value := flags.setWidth 64, head := false, taken := false } }

/-- The page at which the sequencer stalls is still cached in this tile (R289). -/
def State.seqStalls (s : State) : Bool := s.tile.seq.blocked.any s.tile.path.tcache.contains

/-- The commit of an instruction of the resident context stalls, and its access half with it, in RESOURCE (R289). A handler goes
on: it took its trap during the stall. -/
def State.commitStalls (s : State) : Bool :=
  s.seqStalls && !s.sup && s.tile.seq.queue.any fun x => match x with
    | .insn _ => true
    | .marker _ => false

/-- The fault of the head instruction is held, and the sequencer stops with it at the head of its queue (R155). -/
def State.insnFails (s : State) (cause : BitVec 8) (value : Word) : State :=
  s.setSeq { s.tile.seq with
    running := none, stopped := true, held := some { cause := cause, value := value, head := true, taken := false } }

/-- A word of bank A that went bad while it held a weight of K rows 0 to `rows` - 1, which pass through slot r mod 85, is found
by an MMA or has been reloaded before one: which is a free choice (R274, R296). -/
def State.weightUpset (s : State) (rows : Nat) : Option (BitVec 7 × Fin 8) :=
  if !(Config.freeWord s.free).getLsbD 1 then none
  else (List.range (min rows 85)).findSome? fun r =>
    (s.weightBad 0 (BitVec.ofNat 7 r)).map fun j => (BitVec.ofNat 7 r, j)

end Sys2Proof.Machine
end

