-- ==== Sys2Proof/Machine/Slots.lean ====
section
/-!
DEFINITION. The slots of a Sweut segment: the slot clock, packet frames and bit streams, flits, and the batches of a collective
(R331 to R337, R341, Table 16.1).
-/

namespace Sys2Proof.Machine

/-- Members of a set. -/
def popcount {n : Nat} (x : BitVec n) : Nat := ((List.range n).filter x.getLsbD).length

/-- The statistics of one wavelength. -/
def Attachment.setWave (x : Attachment) (w : BitVec 3) (f : Wave → Wave) : Attachment :=
  { x with waves := x.waves.set w.toNat (f (x.waves.get w.toFin)) w.isLt }

/-- Saturating 16-bit increment. -/
def satInc16 (x : BitVec 16) : BitVec 16 := if x = BitVec.allOnes 16 then x else x + 1

/-- A 32-bit counter and a number added to it, saturating. -/
def satAdd32 (x : BitVec 32) (n : Nat) : BitVec 32 := BitVec.ofNat 32 (min (x.toNat + n) (2 ^ 32 - 1))

/-! ### The slot clock (R331) -/

/-- The frame number that every station of the segment reads: a frame lasts 96/35 CYCLE ticks. -/
def State.frame (s : State) (a : BitVec 4) : BitVec 48 := BitVec.ofNat 48 (((s.att a).frame0 + 35 * s.cycle.toNat) / 96)

/-- Frame `f` has come at frame `now`, on a clock that wraps. -/
def reached (now f : BitVec 48) : Bool := decide ((now - f).toNat < 2 ^ 47)

/-- A counting collective holds the segment at a frame: one that has not ended, or one that ended after it (R339). -/
def Attachment.heldAt (x : Attachment) (f : BitVec 48) : Bool :=
  (x.busy.any fun b => reached f b.2) || x.past.any fun p => reached f p.1 && !reached f p.2

/-- A packet frame: each eighth, and any other while no counting collective holds the segment (R331, R339). -/
def Attachment.packetFrame (x : Attachment) (f : BitVec 48) : Bool := decide (f.toNat % 8 = 7) || !x.heldAt f

/-- WLIM and ACKLAG that training computed meanwhile take effect once no collective holds the segment (R332). -/
def Attachment.applyLimits (x : Attachment) (now : BitVec 48) : Attachment :=
  match x.newLim with
  | some (l, k) => if x.busy.any fun b => reached now b.2 then x else { x with wlim := l, acklag := k, newLim := none }
  | none => x

/-- They change, now or when nothing holds the segment. -/
def Attachment.setLimits (x : Attachment) (wlim acklag : BitVec 4) (now : BitVec 48) : Attachment :=
  { x with newLim := some (wlim, acklag) }.applyLimits now

/-- The collective that holds the segment first has ended: frames from `until_` on are no longer its own (R339). -/
def Attachment.endBusy (x : Attachment) (until_ : BitVec 48) : Attachment :=
  match x.busy with
  | [] => x
  | b :: r => { x with busy := r, past := x.past ++ [(b.2, until_)] }.applyLimits until_

/-- The collective of this package holds the segment. -/
def Attachment.holdsFirst (x : Attachment) (c : Collective) : Bool :=
  c.members != 0 && x.busy.head? == some (c.fields.group, c.frame)

/-- The collective of this package has ended at a field or at a failure: the segment is free from `until_` on, and a marked
wavelength is active again once it has been retrained (R332, R339, R346). -/
def Attachment.closeColl (x : Attachment) (until_ : BitVec 48) : Attachment :=
  match x.coll with
  | some c =>
    if c.ended.isNone || !x.holdsFirst c then x
    else { x.endBusy until_ with waves := x.waves.map fun (w : Wave) =>
      if w.state = 1 then { w with state := if w.trained then 0 else 2, trained := false } else w }
  | none => x

/-- The active set at a frame, with the changes that are effective by then (R337). -/
def Attachment.activeAt (x : Attachment) (f : BitVec 48) : BitVec 8 :=
  x.changes.foldl (fun m c => if reached f c.2.2 then setBit m c.1.toNat c.2.1 else m) x.actw

/-- At its start frame a collective's wavelength set is the active set, and what is to be retired later is known (R339). -/
def Attachment.beginColl (x : Attachment) (now : BitVec 48) : Attachment :=
  { x with coll := x.coll.map fun (c : Collective) =>
      if c.begun || !reached now c.frame then c
      else { c with begun := true, waves := x.activeAt c.frame
                    retired := (x.changes.filter fun y => !y.2.1).map fun y => (y.1, y.2.2) } }

/-- Make the changes whose frames have come: a retired wavelength is being retrained, a reinstated one is active. -/
def Attachment.settle (x : Attachment) (now : BitVec 48) : Attachment :=
  let x := x.beginColl now
  let due := x.changes.filter fun c => reached now c.2.2
  let y := due.foldl (fun (x : Attachment) c => x.setWave c.1 fun v => { v with state := if c.2.1 then 0 else 2 }) x
  { y with actw := x.activeAt now, changes := x.changes.filter fun c => !reached now c.2.2 }

/-- An attachment at this instant. -/
def State.attNow (s : State) (a : BitVec 4) : Attachment := (s.att a).settle (s.frame a)

/-! ### Flits (R335, Table 16.1) -/

/-- KINDs that may be addressed to every station. -/
def broadcastKind (kind : Nat) : Bool := decide (0x11 ≤ kind) && decide (kind ≤ 0x19)

/-- The destination of a flit. -/
def flitDst (l : List Byte) : BitVec 4 := (l.getD 1 0).setWidth 4

/-- The wavelengths and bytes in hand are fill: no flit waited where they begin, and no KIND is 0. -/
def fill (part : List (BitVec 3 × Byte)) : Bool := (part.head?.map Prod.snd) == some 0

/-- A flit has been sent: it is kept for a retry, 256 of each destination. -/
def Attachment.sentOut (x : Attachment) : Attachment :=
  match x.sending with
  | [] => x
  | f :: r =>
    let same := x.sent.filter fun y => flitDst y == flitDst f
    { x with sending := r, sent := (if 256 ≤ same.length then x.sent.erase (same.headD []) else x.sent) ++ [f] }

/-- A retry: the flits to a destination from a SEQ on stand before the later ones again; a flit that is half sent goes first
(R335). -/
def Attachment.resendFrom (x : Attachment) (dst : BitVec 4) (seq : BitVec 8) : Attachment :=
  let again := (x.sent.filter fun y => flitDst y == dst).dropWhile fun y => y.getD 2 0 != seq
  let part := (x.streams.get x.stn.toFin).part
  let half := if part.isEmpty || fill part then 0 else 1
  { x with sending := x.sending.take half ++ again ++ x.sending.drop half, sent := x.sent.filter fun y => !again.contains y }

/-- The station lacks a flit: a retry flit names the first sequence number that it lacks (R335). One that is discarded asks at each
time, one that only comes out of order where the station has not asked yet. -/
def Attachment.askRetry (x : Attachment) (src : BitVec 4) (all again : Bool) : Attachment :=
  let seq := if all then x.expectAll.get src.toFin else x.expect.get src.toFin
  if x.retries.contains (src, all, seq) && !again then x
  else ({ x with retries := addOnce x.retries (src, all, seq) }).post 0x1F src [seq]

/-- KINDs that are not discarded. -/
def flitKinds : List Nat := [0x01, 0x02, 0x03, 0x10, 0x11, 0x12, 0x13, 0x14, 0x18, 0x19, 0x1F]

/-- A flit of a source is accepted in the order of its pair's sequence numbers; one that has been accepted before is discarded
(R335, R336). -/
def Attachment.receive (x : Attachment) (src : BitVec 4) (l : List Byte) : Attachment :=
  let kind := (l.getD 0 0).toNat
  let all := decide ((flitDst l).toNat = everyone) && broadcastKind kind
  let seq := l.getD 2 0
  let next := if all then x.expectAll.get src.toFin else x.expect.get src.toFin
  if !flitKinds.contains kind || decide (32 < (l.getD 3 0).toNat) || !(all || flitDst l == x.stn) then x
  else if 128 ≤ (seq - next).toNat then x
  else if seq ≠ next then x.askRetry src all false
  else
    let x := { x with retries := x.retries.filter fun r => r.1 != src || r.2.1 != all
                      accepted := x.accepted ++ [l.take (4 + (l.getD 3 0).toNat)] }
    if all then { x with expectAll := x.expectAll.set src.toNat (seq + 1) src.isLt }
    else { x with expect := x.expect.set src.toNat (seq + 1) src.isLt }

/-! ### Statistics (R337) -/

/-- Bits and bit errors of a wavelength: BERE follows each 2^24 bits, over the latest 256 such intervals. -/
def Wave.count (v : Wave) (bits errs symbols : Nat) : Wave :=
  let v := { v with bits := v.bits + bits, errs := v.errs + errs, corr := satAdd32 v.corr symbols }
  if v.bits < 2 ^ 24 then v
  else
    let l := (v.errs :: v.buckets).take 256
    { v with bits := v.bits - 2 ^ 24, errs := 0, buckets := l, bere := satAdd32 0 l.sum }

/-- Bits that differ. -/
def bitErrors (a b : Byte) : Nat := popcount (a ^^^ b)

/-- Count a flit, byte by byte with the wavelength of each; of one that cannot be corrected the spec gives the bit errors no value. -/
def Attachment.countFlit (x : Attachment) (raw : List (BitVec 3 × Byte)) (fixed : Option (List Byte)) (errors : List Nat) : Attachment :=
  (raw.zipIdx).foldl (fun (x : Attachment) (y : (BitVec 3 × Byte) × Nat) =>
    match fixed with
    | some l =>
      let b := l.getD y.2 0
      x.setWave y.1.1 fun v => v.count 8 (bitErrors y.1.2 b) (if b = y.1.2 then 0 else 1)
    | none => x.setWave y.1.1 fun v => v.count 8 (errors.getD y.2 0 % 9) 0) x

/-- A wavelength whose BERE reaches BERTH leaves the active set at a frame at least ACKLAG + 8 later, every station being told;
the last one is not retired (R337). The second component says that the segment goes down. -/
def Attachment.retireBad (x : Attachment) (now wait : BitVec 48) (payload : List Byte) : Attachment × Bool :=
  let bad := (List.finRange 8).find? fun i =>
    decide (x.berth.toNat ≤ (x.waves.get i).bere.toNat) && x.actw.getLsbD i.val
      && !x.changes.any fun c => c.1 == BitVec.ofNat 3 i.val && !c.2.1
  match bad with
  | none => (x, false)
  | some i =>
    let left := x.changes.foldl (fun (m : BitVec 8) c => setBit m c.1.toNat c.2.1) x.actw
    if setBit left i.val false = 0 then (x, true)
    else
      let f := now + BitVec.ofNat 48 (x.acklag.toNat + 8) + wait % 64
      let x := { x with changes := x.changes ++ [(BitVec.ofNat 3 i.val, false, f)]
                        coll := x.coll.map fun (c : Collective) => { c with retired := c.retired ++ [(BitVec.ofNat 3 i.val, f)] } }
      (x.post 0x18 15 payload, false)

/-! ### Packet frames (R333, R334) -/

/-- What a reading says in packet class: a count of 1 is a one bit, a count of 0 a zero bit. -/
def packetBit (r : Option Nat) : Option Bool :=
  match r with
  | some 0 => some false
  | some 1 => some true
  | _ => none

/-- What this station lights in slots 0 to 15 of a wavelength of a packet frame: its request slot on the lowest active one, the
training pattern on the others. -/
def Attachment.header (x : Attachment) (act : BitVec 8) (w : BitVec 3) (slot : Nat) : Bool :=
  if (List.range w.toNat).any act.getLsbD then Config.trainingPattern w slot
  else decide (slot = x.stn.toNat) && !x.sending.isEmpty

/-- The first requesting station after the previous owner, in ascending order, wrapping from 15 to 0. -/
def nextOwner (prev : BitVec 4) (asks : List Bool) : Option (BitVec 4) :=
  ((List.range 16).map fun i => prev + 1 + BitVec.ofNat 4 i).find? fun t => asks.getD t.toNat false

/-- Packet frames between the latest one read and this one. -/
def Attachment.missed (x : Attachment) (now : BitVec 48) : Nat :=
  let gap := (now - x.lastFrame).toNat
  if 256 ≤ gap then 256
  else ((List.range (gap - 1)).filter fun i => x.packetFrame (x.lastFrame + 1 + BitVec.ofNat 48 i)).length

/-- Six bytes of a wavelength's slots 16 to 63, least significant bit first (log 35); an invalid reading gives a free bit. -/
def laneBytes (readings : List (Option Nat)) (free : Nat) : List Byte :=
  (List.range 6).map fun i => BitVec.ofNat 8 (((List.range 8).map fun b =>
    let r := (packetBit (readings.getD (8 * i + b) (some 0))).getD ((Config.freeWord free).getLsbD (8 * i + b))
    if r then 2 ^ b else 0).sum)

/-- The bytes that a station's stream gains in its frame, wavelength by wavelength; the wavelengths that it uses change at a
flit boundary (R334, R337). -/
def Stream.gain (x : Stream) (act : BitVec 8) (bytes : BitVec 3 → List (BitVec 3 × Byte) → List Byte) : List (BitVec 3) → Stream
  | [] => x
  | w :: r =>
    let x := if x.part.length % 48 = 0 then { x with on := act } else x
    let x := if x.on.getLsbD w.toNat then { x with part := x.part ++ (bytes w x.part).map fun b => (w, b) } else x
    x.gain act bytes r

/-- Wavelengths 0 to 7. -/
def wavelengths : List (BitVec 3) := (List.range 8).map (BitVec.ofNat 3)

/-- The next six bytes of this station's stream behind those in hand: of the flit that they belong to, of the next one at a multiple
of 384 bits, or fill up to the next multiple (R335). -/
def Attachment.ownBytes (x : Attachment) (part : List (BitVec 3 × Byte)) : List Byte :=
  let k := part.length / 48
  let off := part.length % 48
  let flits := ((List.range k).filter fun i => !fill (part.drop (48 * i))).length
  let l := if off ≠ 0 ∧ fill (part.drop (48 * k)) then [] else (x.sending[flits]?).getD []
  (((l ++ (if l.isEmpty then [] else fecParity l)).drop off) ++ List.replicate 6 0).take 6

/-- Flits of this station's stream that have been sent whole leave it, and fill with them. -/
def Attachment.sendOff : Nat → Attachment → Attachment
  | 0, x => x
  | n + 1, x =>
    let st := x.streams.get x.stn.toFin
    if st.part.length < 48 then x
    else Attachment.sendOff n
      { (if fill st.part then x else x.sentOut) with streams := x.streams.set x.stn.toNat { st with part := st.part.drop 48 } x.stn.isLt }

/-- A packet frame is read (R334): its owner's stream goes on, and its requests decide who owns the frame ACKLAG + 1 packet
frames later. -/
def Attachment.readFrame (x : Attachment) (now : BitVec 48) (free : Nat) (requests : List (Option Nat))
    (slots : List (List (Option Nat))) : Attachment :=
  let act := x.activeAt now
  let asks := (List.range 16).map fun i =>
    if i = x.stn.toNat then !x.sending.isEmpty else (packetBit (requests.getD i none)).getD false
  let grants := (x.grants ++ List.replicate (x.acklag.toNat + 1) none).take (x.acklag.toNat + 1)
  let grants := (grants.drop (x.missed now) ++ List.replicate (x.acklag.toNat + 1) none).take (x.acklag.toNat + 1)
  let next := nextOwner x.prev asks
  let y := { x with lastFrame := now, past := x.past.filter fun p => !reached now p.2, grants := grants.drop 1 ++ [next], prev := next.getD x.prev }
  match grants.headD none with
  | none => y
  | some o =>
    let own := decide (o = x.stn)
    let bytes (w : BitVec 3) (part : List (BitVec 3 × Byte)) : List Byte :=
      if own then x.ownBytes part
      else laneBytes (slots.getD w.toNat []) (free + 64 * w.toNat)
    let y := { y with streams := y.streams.set o.toNat ((y.streams.get o.toFin).gain act bytes wavelengths) o.isLt }
    if own then y.sendOff 8 else y

/-! ### Batches (R341)

Slots of a wavelength's stream are counted in counting frames from the start frame, whose number is a multiple of 8. -/

/-- The time of a stream slot: slots since the start frame, packet frames included. -/
def slotTime (n : Nat) : Nat := n / 448 * 512 + n % 448

/-- The first stream slot at a time or after it. -/
def slotAt (t : Nat) : Nat := if t % 512 < 448 then t / 512 * 448 + t % 512 else (t / 512 + 1) * 448

/-- The first stream slot that lies at least some frames after a slot. -/
def slotAfter (n frames : Nat) : Nat := slotAt (slotTime n + 64 * frames)

/-- The acknowledgement fields that stand in a wavelength's stream: first slot and length, in order. -/
def Lane.fields (l : Lane) : List (Nat × Nat) := l.batches.map fun b => (b.1, 2 * b.2.length)

/-- Slot number `k` of the stream from a slot on, fields apart. -/
def dataSlot : List (Nat × Nat) → Nat → Nat → Nat
  | [], n, k => n + k
  | (a, len) :: r, n, k =>
    if n + k < a then n + k
    else if a + len ≤ n then dataSlot r n k
    else dataSlot r (a + len) (k - (a - n))

/-- Where the slots after the planes of `groups` groups begin. Planes of a max agreement begin at least ACKLAG frames apart for
each group, with idle slots between them. -/
def planesEnd (fields : List (Nat × Nat)) (groups lag : Nat) (spaced : Bool) : Nat → Nat → Nat
  | 0, n => n
  | planes + 1, n =>
    let after := dataSlot fields n (16 * groups)
    if planes = 0 ∨ !spaced then planesEnd fields groups lag spaced planes after
    else
      let from_ := max after (slotAfter (dataSlot fields n 0) lag)
      let room := (fields.map Prod.snd).sum + 512
      let fits (m : Nat) : Bool := (List.range groups).all fun j =>
        decide (slotTime (dataSlot fields n (16 * j)) + 64 * lag ≤ slotTime (dataSlot fields m (16 * j)))
      planesEnd fields groups lag spaced planes
        (((List.range room).map fun i => from_ + i).find? fits |>.getD (from_ + room))

/-- A wavelength takes a batch at its boundary. -/
def Lane.take (l : Lane) (groups : List Nat) (planes lag : Nat) (spaced : Bool) : Lane :=
  let f := l.fields
  let guards := planesEnd f groups.length lag spaced planes (dataSlot f l.boundary 0)
  let last := dataSlot f guards (3 * groups.length - 1)
  let field := f.foldl (fun n x => max n (x.1 + x.2)) (slotAfter last lag)
  { l with boundary := dataSlot f last 1, batches := l.batches ++ [(field, groups)] }

/-- Width in planes of a phase (R340). -/
def Collective.planes (c : Collective) : Nat :=
  let f := (formatOf c.fields.sfmt).getD .raw
  if c.exponent then 8 else if c.fields.op != 1 && f.isBlock then c.fields.planes.toNat else f.bits

/-- A max agreement. -/
def Collective.agrees (c : Collective) : Bool := c.exponent || c.fields.op == 1

/-- A wavelength may take a batch that begins at a slot: it belongs to the set, and is neither marked nor retired by then. -/
def Collective.usable (c : Collective) (w : BitVec 3) (slot : Nat) : Bool :=
  c.waves.getLsbD w.toNat && !c.marked.getLsbD w.toNat
    && !c.retired.any fun r => r.1 == w && reached (c.frame + BitVec.ofNat 48 (slotTime slot / 64)) r.2

/-- The lane of a wavelength. -/
def Collective.lane (c : Collective) (w : BitVec 3) : Lane := c.lanes.get w.toFin

/-- The groups that no batch holds. -/
def Collective.pending (c : Collective) : List Nat := c.resend ++ c.unsent

/-- The next acknowledgement pair on the segment: its slot, wavelength and group. -/
def Collective.nextField (c : Collective) : Option (Nat × BitVec 3 × Nat) :=
  wavelengths.foldl (fun best w =>
    match (c.lane w).batches with
    | (n, g :: _) :: _ => match best with
      | some b => if n < b.1 then some (n, w, g) else best
      | none => some (n, w, g)
    | _ => best) none

/-- The next batch: at the earliest boundary no later than a slot, the lowest wavelength first. It takes resends before unsent
groups; the second component counts them. -/
def Collective.takeBatch (c : Collective) (lag limit : Nat) : Option (Collective × Nat) :=
  let w := wavelengths.foldl (fun (best : Option (BitVec 3)) w =>
    if c.usable w (c.lane w).boundary && decide ((c.lane w).boundary ≤ limit)
        && best.all fun b => decide ((c.lane w).boundary < (c.lane b).boundary) then some w else best) none
  match w with
  | none => none
  | some w =>
    if c.pending.isEmpty then none
    else
      let groups := c.pending.take (4 * lag)
      let again := min c.resend.length groups.length
      some ({ c with
        lanes := c.lanes.set w.toNat ((c.lane w).take groups c.planes lag c.agrees) w.isLt
        resend := c.resend.drop again, unsent := c.unsent.drop (groups.length - again) }, again)

/-- Frames of a collective that have passed. -/
def Collective.age (c : Collective) (now : BitVec 48) : Nat := if reached now c.frame then (now - c.frame).toNat else 0

/-- A collective at this frame: the batches that have begun, as far as the next acknowledgement pair does not decide. -/
def Collective.advance (c : Collective) (lag : Nat) (now : BitVec 48) : Collective × Nat :=
  if !c.begun || c.ended.isSome then (c, 0)
  else
    let limit := slotAt (64 * (c.age now + 1)) - 1
    let step (x : Collective × Nat) : Collective × Nat :=
      match x.1.takeBatch lag (match x.1.nextField with
        | some (n, _, _) => min limit (n + 1)
        | none => limit) with
      | some (c, n) => (c, x.2 + n)
      | none => x
    (List.range (c.pending.length + 1)).foldl (fun x _ => step x) (c, 0)

/-- Put a group among those to be sent again, in ascending order. -/
def insertGroup (g : Nat) : List Nat → List Nat
  | [] => [g]
  | x :: l => if g < x then g :: x :: l else x :: insertGroup g l

/-- A pair has been read at a slot: the field goes on, and a wavelength that found nothing pending reaches its next boundary
after the pair. Behind the last pair of the field the groups that it has made pending can be taken (R341). -/
def Collective.pastField (c : Collective) (w : BitVec 3) (slot : Nat) : Collective :=
  let lane := c.lane w
  let (lane, late) := match lane.batches with
    | (n, _ :: g :: r) :: l => ({ lane with batches := (n + 2, g :: r) :: l }, [])
    | _ :: l => ({ lane with batches := l, late := [] }, lane.late)
    | [] => (lane, [])
  let lanes := c.lanes.set w.toNat lane w.isLt
  { c with resend := late.foldl (fun l g => insertGroup g l) c.resend, lanes := lanes.map fun (l : Lane) =>
      if l.boundary < slot + 2 then { l with boundary := dataSlot l.fields (slot + 2) 0 } else l }

end Sys2Proof.Machine
end

