-- ==== Sys2Proof/Machine/Sweut.lean ====
section
/-!
DEFINITION. The Sweut optical bus: rendezvous, counting collectives, wavelengths, flits, training (R329 to R350, R406,
Tables 16.1 to 16.3).
-/

namespace Sys2Proof

open Machine

/-- The source format of a collective. -/
def JoinFields.source (f : JoinFields) : Format := (formatOf f.sfmt).getD .raw
/-- The destination format. -/
def JoinFields.dest (f : JoinFields) : Format := (formatOf f.dfmt).getD .raw
/-- MAX. -/
def JoinFields.isMax (f : JoinFields) : Bool := f.op == 1
/-- A sum over a block format. -/
def JoinFields.isBlock (f : JoinFields) : Bool := !f.isMax && f.source.isBlock

/-- Units of a phase (R340). -/
def JoinFields.units (f : JoinFields) (exponent : Bool) : Nat := if exponent then (f.count.toNat + 31) / 32 else f.count.toNat

/-- The groups of a phase. -/
def JoinFields.groups (f : JoinFields) (exponent : Bool) : List Nat := List.range ((f.units exponent + 15) / 16)

end Sys2Proof

namespace Sys2Proof.Machine

/-! ### The command of an attachment (R330) -/

/-- The Sweut commands of the package's tiles: those of this tile's engine 1, and the TCOLLs of TILE packets in the engines of
other tiles. -/
def State.swCmds (s : State) : List SwCmd := s.tile.eng.fifo1 ++ s.hub.fe.colls

/-- The command that an attachment runs or runs next: of those that name it, the one that arrived first. -/
def State.swCmd (s : State) (a : BitVec 4) : Option SwCmd :=
  (s.swCmds.filter fun c => descSeg c.desc == a).foldl (fun best c =>
    match best with
    | none => some c
    | some b => if c.order < b.order then some c else best) none

/-- Where an access of a collective of an owner goes. -/
def State.swReach (s : State) (owner : Nat) (acc : Acc) (p : Word) (n : Nat) : Reach :=
  match s.ctxOf owner with
  | none => s.reach [] acc p n
  | some c =>
    match s.hubPlace c.ctxid c.root acc p 1 n with
    | .mem a l => .mem a l
    | .blocked => .blocked
    | _ => .bad

/-- The fields that a descriptor's JOIN carries (R338). -/
def joinFields (d : BitVec 256) : JoinFields :=
  { group := descGroup d, writers := descWriters d, planes := descPlanes d, sfmt := descSfmt d, op := descOp d
    dfmt := descDfmt d, count := descCount d }

/-- Change the commands that have a place in the order of arrival. -/
def State.mapSw (s : State) (f : List SwCmd → List SwCmd) : State :=
  (s.setEng { s.tile.eng with fifo1 := f s.tile.eng.fifo1 }).setFe { s.hub.fe with colls := f s.hub.fe.colls }

/-- Put a command in a phase. -/
def State.setSwPhase (s : State) (c : SwCmd) (p : SwPhase) : State :=
  s.mapSw fun l => l.map fun x => if x.order = c.order then { x with phase := p } else x

/-- A command leaves its queue. -/
def State.dropSw (s : State) (c : SwCmd) : State := s.mapSw fun l => l.filter fun x => x.order != c.order

/-- A collective that ends without having started, with a reason; with reason 0 it carries the failure of its source (R348). -/
def endedColl (c : SwCmd) (reason : BitVec 4) (fail : Option (BitVec 8)) : Collective :=
  { fields := joinFields c.desc, members := 0, frame := 0, begun := false, waves := 0, marked := 0, retired := [], exponent := false
    unsent := [], resend := [], lanes := .replicate 8 { boundary := 0, batches := [], late := [] }, fails := [], runs := .replicate 8 0, exps := []
    src := [], srcFail := fail, dark := false, dst := descDst c.desc, ended := some reason, tile := c.tile, out := [], blocked := none }

/-- Its command is in rendezvous for a group and has not started. -/
def State.joinedFor (s : State) (a : BitVec 4) (group : BitVec 12) : Option SwCmd :=
  match s.swCmd a with
  | some c => if c.phase == .joined && descGroup c.desc == group && (s.att a).coll.isNone then some c else none
  | none => none

/-- The joined command of an attachment ends with a reason before it has started (R338, R346). -/
def State.endJoined (s : State) (a : BitVec 4) (group : BitVec 12) (reason : BitVec 4) : State :=
  match s.joinedFor a group with
  | some c => s.setAtt a { s.att a with coll := some (endedColl c reason none), early := none, withdrawing := none }
  | none => s

/-! ### Rendezvous (R338) -/

/-- This station leads its segment: it is the active station with the lowest number (R329). -/
def Attachment.leads (x : Attachment) : Bool := x.stn == x.lead

/-- The rendezvous of a group that waits for JOINs. -/
def Attachment.openGroup (x : Attachment) (g : BitVec 12) : Option Rendezvous :=
  x.groups.find? fun r => r.first.group == g && !r.complete

/-- Replace it; none removes it. -/
def Attachment.putGroup (x : Attachment) (g : BitVec 12) (r : Option Rendezvous) : Attachment :=
  { x with groups := (x.groups.filter fun y => y.first.group != g || y.complete) ++ r.toList }

/-- The stations of a set. -/
def stationsOf (m : BitVec 16) : List (BitVec 4) := ((List.range 16).filter m.getLsbD).map (BitVec.ofNat 4)

/-- The leader ends a rendezvous and sends REJECT to every station of a set; its own command ends with the reason. -/
def State.rejectAll (s : State) (a : BitVec 4) (r : Rendezvous) (joined : BitVec 16) (reason : BitVec 4) : State :=
  let group := r.first.group
  let s := s.setAtt a { s.att a with groups := (s.att a).groups.filter fun y => y != r }
  let s := ((stationsOf joined).filter fun t => t != (s.att a).stn).foldl (fun s t => s.postFlit a 0x12 t) s
  if joined.getLsbD (s.att a).stn.toNat then s.endJoined a group reason else s

/-- A JOIN at the leader: with WRITERS matching ones held, its START is to be sent (log 36). -/
def State.leaderJoin (s : State) (a station : BitVec 4) (f : JoinFields) : State :=
  let x := s.att a
  let r := (x.openGroup f.group).getD { first := f, joined := 0, since := s.cycle, complete := false }
  let joined := setBit r.joined station.toNat true
  if r.first = f then
    s.setAtt a (x.putGroup f.group (some { r with joined := joined, complete := popcount joined == f.writers.toNat }))
  else s.rejectAll a r joined 5

/-- Bytes of SRC read at their homes; the cause where one cannot be read (R348). -/
def State.readSource (s : State) (owner : Nat) (p : Word) : Nat → Nat → State × Except (BitVec 8) (List Byte)
  | 0, _ => (s, .ok [])
  | n + 1, i =>
    match s.swReach owner .load (ptrAdd p (BitVec.ofNat 64 i)) 1 with
    | .mem a _ =>
      match (s.txHits a 1 true).homeByte a with
      | (s, none) => (s, .error Cause.softError)
      | (s, some b) =>
        match s.readSource owner p n (i + 1) with
        | (s, .ok l) => (s, .ok (b :: l))
        | (s, .error c) => (s, .error c)
    | _ => (s, .error Cause.accessFault)

/-- SRC of a command: its bytes, or none of them and the cause. -/
def State.sourceOf (s : State) (c : SwCmd) : State × (List Byte × Option (BitVec 8)) :=
  let f := joinFields c.desc
  match s.readSource c.owner (descSrc c.desc) (formatBytes f.source f.count.toNat) 0 with
  | (s, .ok l) => (s, (l, none))
  | (s, .error e) => (s, ([], some e))

/-- JOIN: of this station, its first command of the segment goes into rendezvous, SRC being read then or later (R348); at the
leader, any station's. -/
def execJoin (a station : BitVec 4) (f : JoinFields) (s : State) : Out :=
  let x := s.att a
  if station = x.stn then
    match s.swCmd a with
    | some c =>
      if c.phase == .queued && x.coll.isNone && joinFields c.desc == f then
        let s := s.setSwPhase c .joined
        if !x.up then .next (s.endJoined a f.group 9)
        else
          let s := if (Config.freeWord s.free).getLsbD 0 then
              let (s, src) := s.sourceOf c
              s.setAtt a { s.att a with early := some src }
            else s
          .next (if x.leads then s.leaderJoin a station f else s.postFlit a 0x10 x.lead)
      else .next s
    | none => .next s
  else .next (if x.up && x.leads then s.leaderJoin a station f else s)

/-- The start frame of a START that is sent now: the first multiple of 8 at least 2·ACKLAG + 8 frames later. -/
def State.startFrame (s : State) (a : BitVec 4) : BitVec 48 :=
  BitVec.ofNat 48 (((s.frame a).toNat + 2 * (s.att a).acklag.toNat + 8 + 7) / 8 * 8)

/-- The complete rendezvous of a group. -/
def Attachment.completeGroup (x : Attachment) (g : BitVec 12) : Option Rendezvous :=
  x.groups.find? fun r => r.first.group == g && r.complete

/-- The leader can send the START of a group: its JOINs are held, every earlier collective has ended, and the members and the frame
are those that R338 gives. -/
def State.mayStart_ (s : State) (a : BitVec 4) (group : BitVec 12) (members : BitVec 16) (frame : BitVec 48) : Bool :=
  match (s.att a).completeGroup group with
  | some r => r.joined == members && (s.att a).busy.isEmpty && frame == s.startFrame a
  | none => false

/-- A collective as it starts. -/
def startedColl (c : SwCmd) (members : BitVec 16) (frame : BitVec 48) (src : List Byte × Option (BitVec 8)) : Collective :=
  let f := joinFields c.desc
  { fields := f, members := members, frame := frame, begun := false, waves := 0, marked := 0, retired := [], exponent := f.isBlock
    unsent := f.groups f.isBlock, resend := [], lanes := .replicate 8 { boundary := 0, batches := [], late := [] }, fails := []
    runs := .replicate 8 0, exps := [], src := src.1, srcFail := src.2, dark := src.2.isSome, dst := descDst c.desc, ended := none
    tile := c.tile, out := [], blocked := none }

/-- START: the leader sends it; the joined command of a member starts, SRC being read now unless it has been (R338, R339,
R348). -/
def execStart (a : BitVec 4) (group : BitVec 12) (members : BitVec 16) (frame : BitVec 48) (s : State) : Out :=
  let x := s.att a
  if !x.up || frame.toNat % 8 ≠ 0 || (x.leads && !s.mayStart_ a group members frame) then .next s
  else
    let s := if x.leads then s.postFlit a 0x11 15 else s
    let s := s.setAtt a { s.att a with
      groups := x.groups.filter fun r => r.first.group != group || !r.complete, busy := x.busy ++ [(group, frame)] }
    match s.joinedFor a group with
    | some c =>
      if members.getLsbD x.stn.toNat then
        let (s, src) := match x.early with
          | some src => (s, src)
          | none => s.sourceOf c
        .next ((s.setSwPhase c .started).setAtt a { s.att a with
          coll := some (startedColl c members frame src), early := none, withdrawing := none })
      else .next s
    | none => .next s

/-- REJECT: the joined command of the group ends with its reason. The leader sends it and receives none. -/
def execReject (a : BitVec 4) (group : BitVec 12) (reason : BitVec 4) (s : State) : Out :=
  .next (if (s.att a).leads then s else s.endJoined a group reason)

/-- The joined command leaves the rendezvous: it counts as not started, and a TCOLL that a save has abandoned goes. One whose
SRC could not be read completes at once with the cause (R338, R348). -/
def State.withdrawn (s : State) (a : BitVec 4) (group : BitVec 12) : State :=
  match s.joinedFor a group with
  | none => s
  | some c =>
    let x := s.att a
    let s := s.setAtt a { x with early := none, withdrawing := none }
    match x.early with
    | some (_, some cause) => s.setAtt a { s.att a with coll := some (endedColl c 0 (some cause)) }
    | _ =>
      if c.tile && c.owner == 0 && s.tile.seq.running != some .collective then s.dropSw c else s.setSwPhase c .queued

/-- What is left of a rendezvous that a station leaves. One that was complete waits for JOINs again; where another one of its group
waits already, its lowest station takes the place (log 36). -/
def Attachment.without (x : Attachment) (r : Rendezvous) (station : BitVec 4) : Attachment :=
  let j := setBit r.joined station.toNat false
  let g := r.first.group
  let x := { x with groups := x.groups.filter fun y => y != r }
  match x.openGroup g with
  | some o =>
    match (if r.first = o.first then stationsOf o.joined else []) with
    | [] => x.putGroup g (some { o with joined := o.joined ||| j })
    | t :: l =>
      let x := x.putGroup g (if l.isEmpty then none else some { o with joined := setBit o.joined t.toNat false })
      { x with groups := x.groups ++ [{ r with joined := setBit j t.toNat true }] }
  | none => x.putGroup g (if j = 0 then none else some { r with joined := j, complete := false })

/-- A rendezvous that waits beside what is left of another one of its group with other fields is rejected with it (R338). -/
def State.rejectMixed (s : State) (a : BitVec 4) (r : Rendezvous) : State :=
  match (s.att a).openGroup r.first.group with
  | some o => if r.complete && o.first != r.first then s.rejectAll a o o.joined 5 else s
  | none => s

/-- At the leader, a station leaves a rendezvous whose START has not been sent, and is answered. -/
def State.leaveGroup (s : State) (a : BitVec 4) (group : BitVec 12) (station : BitVec 4) : State :=
  let x := s.att a
  match x.leads, x.groups.find? fun r => r.first.group == group && r.joined.getLsbD station.toNat with
  | true, some r =>
    let s := s.setAtt a (x.without r station)
    let s := if station = x.stn then s.withdrawn a group else s.postFlit a 0x14 station
    s.rejectMixed a r
  | _, _ => s

/-- This station withdraws its joined command: at the leader at once, else by a WITHDRAW to the leader. -/
def State.withdraw (s : State) (a : BitVec 4) (group : BitVec 12) : State :=
  let x := s.att a
  if x.leads then s.leaveGroup a group x.stn
  else if (s.joinedFor a group).isSome ∧ x.withdrawing.isNone then
    let s := s.postFlit a 0x13 x.lead
    s.setAtt a { s.att a with withdrawing := some group }
  else s

/-- WITHDRAW: at the leader, any station's; this station's goes to the leader. -/
def execWithdraw (a : BitVec 4) (group : BitVec 12) (station : BitVec 4) (s : State) : Out :=
  let x := s.att a
  .next (if station = x.stn then s.withdraw a group else if x.leads then s.leaveGroup a group station else s)

/-- WITHDRAWN answers this station's WITHDRAW. -/
def execWithdrawn (a : BitVec 4) (group : BitVec 12) (s : State) : Out :=
  if (s.att a).withdrawing ≠ some group then .next s
  else
    let s := s.withdrawn a group
    .next (s.setAtt a { s.att a with withdrawing := none })

/-- JTMO in CYCLE ticks; 0 reads as 1 µs. -/
def Attachment.joinTicks (x : Attachment) : Nat := 2400 * max 1 x.jtmo.toNat

/-- A rendezvous has waited for JTMO without its START. -/
def Attachment.timedOut (x : Attachment) (now : Word) (r : Rendezvous) : Bool := decide (x.joinTicks ≤ (now - r.since).toNat)

/-- JOIN_TIMEOUT: JTMO after the first JOIN the leader rejects the rendezvous with reason 6, whose START it has not sent. -/
def execJoinTimeout (a : BitVec 4) (group : BitVec 12) (s : State) : Out :=
  let x := s.att a
  match x.leads, x.groups.find? fun r => r.first.group == group && x.timedOut s.cycle r with
  | true, some r => .next (s.rejectAll a r r.joined 6)
  | _, _ => .next s

/-! ### What this station sends (R340, R342 to R344) -/

/-- A little-endian number in bytes. -/
def bytesAt (l : List Byte) (off n : Nat) : Nat := joinNat 8 (((l.drop off).take n).map BitVec.toNat)

/-- The exact elements of a block of SRC. -/
def Collective.block (c : Collective) (b : Nat) : List Ext :=
  let f := c.fields.source
  let r := bytesAt c.src (b * f.recordBytes) f.recordBytes
  (List.range 32).map fun i =>
    if c.fields.count.toNat ≤ 32 * b + i then .fin false 0 0
    else decodeBlockElem f (r / 2 ^ (32 * f.bits) % 256) (r / 2 ^ (32 * f.bits + 8) % 256) (r / 2 ^ (f.bits * i) % 2 ^ f.bits)

/-- The exponent of a block (R344). -/
def blockExponent (l : List Ext) : Nat :=
  match finites l with
  | none => 255
  | some fs =>
    let a := amax fs
    if a.mag = 0 then 0 else (max 0 (min 254 (floorLog a.mag a.exp + 127))).toNat

/-- The agreed exponent of a block. -/
def Collective.agreed (c : Collective) (b : Nat) : Nat := ((assocGet b c.exps).getD 0).toNat

/-- The aligned element that is sent (R344). -/
def alignedElem (p e : Nat) (x : Ext) : Int :=
  match x with
  | .fin n m ex =>
    if e = 255 then 0
    else
      let k := (roundMag .rne n m (ex + (p + 125 - e : Int)) false 0).1
      max (-2 ^ (p - 1)) (min (2 ^ (p - 1) - 1) (if n then -(k : Int) else k))
  | _ => 0

/-- The sign bit of signed keys (R343). -/
def Collective.keySign (c : Collective) : Nat :=
  if !c.exponent && c.fields.isMax && c.fields.source != .raw then 2 ^ (c.planes - 1) else 0

/-- The code that this station sends for a unit; padding is 0. -/
def Collective.unit (c : Collective) (u : Nat) : Nat :=
  let f := c.fields
  if f.units c.exponent ≤ u then 0
  else if c.exponent then blockExponent (c.block u)
  else if f.isBlock then
    intCode c.planes (alignedElem c.planes (c.agreed (u / 32)) ((c.block (u / 32)).getD (u % 32) (.fin false 0 0)))
  else
    let w := f.source.bits / 8
    bytesAt c.src (u * w) w ^^^ c.keySign

/-- The planes of a unit in plane order: own light and what is read, none for an invalid reading. `other` is what the others light,
`reads` what the detector reads where it errs. In a max agreement a station that has stopped contending lights nothing. -/
def unitPlanes (maxed : Bool) (code : Nat) : List Nat → Bool → List Nat → Option (List (Option Nat)) → List (Bool × Option Nat)
  | [], _, _, _ => []
  | k :: ks, contending, other, reads =>
    let own := contending && code / 2 ^ k % 2 == 1
    let c : Option Nat := match reads with
      | some r => r.headD none
      | none => some (other.headD 0 + (if own then 1 else 0))
    (own, c) :: unitPlanes maxed code ks (contending && !(maxed && decide (1 ≤ c.getD 0) && code / 2 ^ k % 2 == 0)) other.tail
      (reads.map List.tail)

/-- Planes in plane order. -/
def Collective.order (c : Collective) : List Nat :=
  if c.agrees then (List.range c.planes).reverse else List.range c.planes

/-- A group as this station lights and reads it: its units' planes, and the three guards. -/
structure GroupRead where
  units  : List (List (Bool × Option Nat))
  guards : List (Option Nat)
  deriving DecidableEq, Repr

/-- Light and read a group. -/
def Collective.readGroup (c : Collective) (g : Nat) (counts : List (List Nat)) (ownReads : List (List (Option Nat))) : GroupRead :=
  let reads (i : Nat) : Option (List (Option Nat)) := if ownReads.isEmpty then none else some (ownReads.getD i [])
  let units := (List.range 16).map fun i =>
    let u := 16 * g + i
    unitPlanes c.agrees (if c.dark then 0 else c.unit u) c.order (!c.dark && decide (u < c.fields.units c.exponent)) (counts.getD i [])
      (reads i)
  let t := (units.flatten.filter fun x => x.1).length % 4
  let own := if c.dark then [0, 0, 0] else [1, t % 2, t / 2]
  { units := units
    guards := (reads 16).getD ((List.zipWith (· + ·) ((counts.getD 16 [] ++ [0, 0, 0]).take 3) own).map some) }

/-- A reading outside every calibrated band: levels 0 to WLIM are calibrated (R332, R333). -/
def invalidReading (wlim : Nat) (r : Option Nat) : Bool := r.all fun n => decide (wlim < n)

/-- The counts of a unit. -/
def countsOf (l : List (Bool × Option Nat)) : List Nat := l.map fun x => x.2.getD 0

/-- This station finds the group in error (R333, R345). -/
def GroupRead.bad (r : GroupRead) (wlim writers : Nat) : Bool :=
  let data := (countsOf r.units.flatten).sum
  let guard (i : Nat) : Nat := (r.guards.getD i none).getD 0
  (r.units.flatten.any fun x => invalidReading wlim x.2) || r.guards.any (invalidReading wlim)
    || guard 0 != writers || data % 4 != (guard 1 + 2 * guard 2) % 4

/-- The value of a unit of a sum (R342). -/
def sumOf (n : Nat) (counts : List Nat) : Int :=
  ((List.range (n - 1)).map fun k => (counts.getD k 0 : Int) * 2 ^ k).sum - (counts.getD (n - 1) 0 : Int) * 2 ^ (n - 1)

/-- The agreed key of a unit: planes from the most significant down (R343). -/
def keyOf (counts : List Nat) : Nat := counts.foldl (fun a c => 2 * a + (if 1 ≤ c then 1 else 0)) 0

/-- The DST element of a unit: its bytes and value (R342 to R344). -/
def Collective.element (c : Collective) (u : Nat) (counts : List Nat) : Nat × Nat :=
  let f := c.fields
  if f.isMax then (f.source.bits / 8, keyOf counts ^^^ c.keySign)
  else
    let v := sumOf c.planes counts
    if f.isBlock then
      let e := c.agreed (u / 32)
      (4, if e = 255 then 0x7FC00000
          else (fp32.convert false .rne ((Ext.ofInt v).shift ((e : Int) - 125 - c.planes))).1)
    else (f.dest.bits / 8, intCode f.dest.bits v)

/-! ### Memory (R348) -/

/-- Write results through the homes, in order, those in a staging window being discarded (R279); those that an access check stops, or that stand behind one that a
write-blocked page holds, come back with the cause of a failure. -/
def State.writeResults (s : State) : List (Word × Nat × Nat) → State × List (Word × Nat × Nat) × Option (BitVec 8)
  | [] => (s, [], none)
  | (p, n, v) :: r =>
    match s.reach [] .store p n with
    | .mem a _ =>
      if addrSpm a && inStaging (addrOff a) then State.writeResults s r
      else if s.partialBad a n then (s, [], some (if s.isLocal a then Cause.softError else Cause.accessFault))
      else State.writeResults (s.otherWrite a n v 7 0) r
    | .blocked => (s, (p, n, v) :: r, none)
    | .bad => (s, [], some Cause.accessFault)

/-- The results of an accepted group. -/
def Collective.results (c : Collective) (g : Nat) (r : GroupRead) : List (Word × Nat × Nat) :=
  (List.range 16).filterMap fun i =>
    let u := 16 * g + i
    if c.fields.units c.exponent ≤ u then none
    else
      let (n, v) := c.element u (countsOf (r.units.getD i []))
      some (ptrAdd c.dst (BitVec.ofNat 64 (u * n)), n, v)

/-- The write-blocked translation at which results stall (R289). -/
def State.swBlocker (s : State) (owner : Nat) (left : List (Word × Nat × Nat)) : Option TEntry :=
  match left, s.ctxOf owner with
  | [], _ => none
  | (p, _, _) :: _, none => s.engineEntry .store [] (ptrVa p)
  | (p, _, _) :: _, some c => s.walkTables c.ctxid c.root (ptrVa p)

/-- Accept a group: agreed exponents, or results at DST (R347, R348). A TCOLL keeps its results for its commit, a station
that could not read its SRC writes none, and results behind a write-blocked page wait. -/
def State.acceptGroup (s : State) (c : Collective) (g : Nat) (r : GroupRead) : State × Collective :=
  if c.exponent then
    let es := (List.range 16).filterMap fun i =>
      if c.fields.units true ≤ 16 * g + i then none
      else some (16 * g + i, BitVec.ofNat 8 (keyOf (countsOf (r.units.getD i []))))
    (s, { c with exps := c.exps ++ es })
  else if c.srcFail.isSome then (s, c)
  else
    let new := c.out ++ c.results g r
    if c.tile || c.blocked.isSome then (s, { c with out := new })
    else
      let (s, left, fail) := s.writeResults new
      (s, { c with out := left, srcFail := fail, blocked := s.swBlocker 0 left })

/-! ### Acknowledgement fields (R345 to R347) -/

/-- A group is pending and every wavelength of the set is marked or retired (R346). -/
def Collective.stuck (c : Collective) (now : BitVec 48) : Bool :=
  c.begun && !(c.pending.isEmpty && wavelengths.all fun w => (c.lane w).late.isEmpty) && !wavelengths.any fun w => c.usable w (slotAt (64 * c.age now))

/-- It ends with reason 8 where it is stuck. -/
def Collective.checked (c : Collective) (now : BitVec 48) : Collective :=
  if c.ended.isNone && c.stuck now then { c with ended := some 8 } else c

/-- The phase goes on, or the next begins once every group has been accepted, or the collective has succeeded (R347). -/
def Collective.progress (c : Collective) : Collective :=
  if !c.pending.isEmpty || c.ended.isSome || wavelengths.any (fun w => !(c.lane w).batches.isEmpty) then c
  else if c.exponent then { c with exponent := false, unsent := c.fields.groups false, fails := [] }
  else { c with ended := some 0 }

/-- A failed group: it is pending behind its field, the wavelength may be marked, and is retrained; the eighth failure ends the
collective (R341, R346). -/
def Collective.failGroup (c : Collective) (w : BitVec 3) (g : Nat) : Collective :=
  let n := (assocGet g c.fails).getD 0 + 1
  let run := c.runs.get w.toFin + 1
  let lane := c.lane w
  { c with
    fails := assocPut g n c.fails, runs := c.runs.set w.toNat run w.isLt
    lanes := c.lanes.set w.toNat { lane with late := lane.late ++ [g] } w.isLt
    marked := if 3 ≤ run then setBit c.marked w.toNat true else c.marked
    ended := if 8 ≤ n then some 7 else c.ended }

/-- The wavelengths that a collective marks are marked in SWLS. -/
def Attachment.markWaves (x : Attachment) (c : Collective) (w : BitVec 3) : Attachment :=
  if c.marked.getLsbD w.toNat then x.setWave w fun v => { v with state := 1 } else x

/-- The attachment at this instant, with the batches that have begun. -/
def State.busNow (s : State) (a : BitVec 4) : Attachment :=
  let x := s.attNow a
  match x.coll with
  | none => x
  | some c =>
    let (c, n) := c.advance x.acklag.toNat (s.frame a)
    { x with coll := some (c.checked (s.frame a)), resent := satAdd32 x.resent n }.closeColl (s.frame a)

/-- ACKNOWLEDGEMENT_FIELD: the pair that comes next on the segment is read, once its frame has come (R341, R345). -/
def execAcknowledgementField (a : BitVec 4) (w : BitVec 3) (g : Nat) (lit : Bool) (counts : List (List Nat))
    (ownReads : List (List (Option Nat))) (s : State) : Out :=
  let x := s.busNow a
  let now := s.frame a
  let s := s.setAtt a x
  match x.coll.bind fun c => c.nextField.map fun f => (c, f) with
  | none => .next s
  | some (c, slot, wave, group) =>
    if c.ended.isSome || wave != w || group != g || decide (c.age now < slotTime (slot + 1) / 64) then .next s
    else
      let r := c.readGroup g counts ownReads
      let until_ := c.frame + BitVec.ofNat 48 (slotTime (slot + 1) / 64 + 1)
      if lit || r.bad x.wlim.toNat c.fields.writers.toNat then
        let c := ((c.failGroup w g).pastField w slot).checked now
        .next (s.setAtt a ({ x.markWaves c w with coll := some c }.closeColl until_))
      else
        let (s, c) := s.acceptGroup (({ c with runs := c.runs.set w.toNat 0 w.isLt }).pastField w slot) g r
        .next (s.setAtt a ({ s.att a with coll := some (c.progress.checked now) }.closeColl until_))

/-! ### The end of a collective (R349) -/

/-- Count an end with a reason in SWSTC or SWLF. -/
def Attachment.counted (x : Attachment) (ok : Bool) (group : BitVec 12) (reason : BitVec 4) : Attachment :=
  if ok then { x with done := satInc x.done }
  else { x with nfail := satInc16 x.nfail, lfGroup := group, reason := reason }

/-- Results as staged bytes; none where one cannot be stored. -/
def State.stageResults (s : State) (owner : Nat) : List (Word × Nat × Nat) → Option (List StagedByte)
  | [] => some []
  | (p, n, v) :: r =>
    match s.swReach owner .store p n, s.stageResults owner r with
    | .mem a _, some l =>
      some ((List.range n).map (fun i => { addr := a + i, mask := 0xFF, bits := BitVec.ofNat 8 (v / 2 ^ (8 * i)) }) ++ l)
    | _, _ => none

/-- The results from the first that meets a write-blocked page on. -/
def State.stalledAt (s : State) (owner : Nat) (out : List (Word × Nat × Nat)) : List (Word × Nat × Nat) :=
  out.dropWhile fun x => s.swReach owner .store x.1 x.2.1 != .blocked

/-- The pointer to the first byte of a source that cannot be read (R87, R348). -/
def State.unreadAt (s : State) (owner : Nat) (p : Word) (n : Nat) : Word :=
  let bad (i : Nat) : Bool := match s.swReach owner .load (ptrAdd p (BitVec.ofNat 64 i)) 1 with
    | .mem a _ => s.badAt a
    | _ => true
  ptrAdd p (BitVec.ofNat 64 (((List.range n).find? bad).getD 0))

/-- The TCOLL that waits is ready to commit, or has failed with no output (R169). -/
def State.endColl (s : State) (owner : Nat) (c : Collective) (d : BitVec 256) (reason : BitVec 4) : State :=
  let n := formatBytes c.fields.source c.fields.count.toNat
  let x : Staged := match c.srcFail with
    | some cause => .failed cause (s.unreadAt owner (descSrc d) n)
    | none =>
      if reason ≠ 0 then .failed Cause.sweutFail (sweutEval reason.toNat d)
      else match s.stageResults owner c.out with
        | some l => .outputs l 0 0
        | none => .failed Cause.accessFault c.dst
  if owner = 0 then
    match s.tile.seq.running with
    | some .collective => s.begun x
    | _ => s
  else
    let end_ (u : ChildUnit) : ChildUnit :=
      match u.ready, x with
      | false, .outputs l _ _ => { u with ready := true, bytes := l }
      | false, .failed cause v => { u with ready := true, fault := some (cause, v) }
      | _, _ => u
    s.updCtx owner fun y => { y with run := y.run.map fun (r : TileRun) => { r with units := r.units.map end_ } }

/-- The command of the collective that an attachment runs; none when its context has been killed. -/
def State.collCmd (s : State) (a : BitVec 4) : Option SwCmd :=
  match s.swCmd a, (s.att a).coll with
  | some c, some x => if c.phase == (if x.members = 0 then SwPhase.joined else .started) then some c else none
  | _, _ => none

/-- The collective of this package has ended and can be delivered: no result stalls, and its element has room. -/
def State.deliverable (s : State) (a : BitVec 4) (c : Collective) : Bool :=
  c.ended.isSome && ((s.collCmd a).isNone || (c.blocked.isNone && (c.tile || s.resultRoom 1)))

/-- The end of a collective is counted in SWSTC or SWLF; a station whose SRC failed before START has no reason of Table 16.2, and one
whose context has been killed counts its failures. -/
def State.countEnd (s : State) (a : BitVec 4) (c : Collective) (r : BitVec 4) (ok : Bool) : State :=
  if c.members = 0 ∧ r = 0 then s else s.setAtt a ((s.att a).counted ok c.fields.group r)

/-- The command of a collective that has ended leaves engine 1, and its completion element is pushed, once every result has been
written; a TCOLL goes on to its commit. Results that a write-blocked page stalls wait for a shootdown (R289). -/
def State.deliver (s : State) (a : BitVec 4) (c : Collective) (r : BitVec 4) : State :=
  let free (s : State) : State := s.setAtt a { s.att a with coll := none }
  match s.collCmd a with
  | none => free (if r = 0 then s else s.countEnd a c r false)
  | some cmd =>
    if c.tile then
      let stalled := if c.srcFail.isSome || r != 0 then [] else s.stalledAt cmd.owner c.out
      if stalled.isEmpty then ((free (s.countEnd a c r (decide (r = 0) && c.srcFail.isNone))).dropSw cmd).endColl cmd.owner c cmd.desc r
      else s.setAtt a { s.att a with coll := some { c with blocked := s.swBlocker cmd.owner stalled } }
    else
      let (s, left, fail) := s.writeResults c.out
      let cause := c.srcFail <|> fail
      if !left.isEmpty then
        s.setAtt a { s.att a with coll := some { c with out := left, srcFail := cause, blocked := s.swBlocker 0 left } }
      else
        let status : BitVec 8 := cause.getD (if r = 0 then 0 else Cause.sweutFail)
        ((free (s.countEnd a c r (decide (r = 0) && cause.isNone))).dropSw cmd).pushResult 1
          (resultElement (status.setWidth 7) (descTag cmd.desc))

/-- A collective of other stations that holds the segment ends at this frame. -/
def State.othersEnd (s : State) (a : BitVec 4) : State :=
  let x := s.att a
  let now := s.frame a
  let mine := x.coll.any x.holdsFirst
  match x.busy with
  | [] => s
  | b :: _ => if !mine && reached now b.2 then s.setAtt a (x.endBusy now) else s

/-- COLLECTIVE_END: the collective of this package is delivered, or one of other stations ends. -/
def execCollectiveEnd (a : BitVec 4) (s : State) : Out :=
  let s := s.setAtt a (s.busNow a)
  match (s.att a).coll with
  | some c =>
    match c.ended with
    | some r => .next (if s.deliverable a c then s.deliver a c r else s.othersEnd a)
    | none => .next (s.othersEnd a)
  | none => .next (s.othersEnd a)

/-- SEGMENT_DOWN (R346): the collective, or the command in rendezvous, ends with reason 9. -/
def State.segmentDown (s : State) (a : BitVec 4) : State :=
  let s := match s.swCmd a with
    | some c => s.endJoined a (descGroup c.desc) 9
    | none => s
  let y := s.att a
  let now := s.frame a
  s.setAtt a ({ y with
    up := false, actw := 0, changes := [], groups := [], grants := [], sending := [], sent := [], withdrawing := none
    busy := [], past := y.past ++ y.busy.map fun (b : BitVec 12 × BitVec 48) => (b.2, now)
    waves := y.waves.map fun (w : Wave) => { w with state := 3, trained := false }
    streams := y.streams.map fun (t : Stream) => { t with part := [] }
    coll := y.coll.map fun (c : Collective) => if c.ended.isSome then c else { c with ended := some 9 } }.applyLimits now)

/-- SEGMENT_DOWN. -/
def execSegmentDown (a : BitVec 4) (s : State) : Out := .next (s.segmentDown a)

/-! ### Wavelengths and training (R332, R337) -/

/-- RETIRE: from its effective frame on the wavelength is out of use and being retrained; one that would leave the active set
empty is not sent, the segment going down instead. -/
def execRetire (a : BitVec 4) (w : BitVec 3) (frame : BitVec 48) (s : State) : Out :=
  let x := s.attNow a
  let left := x.changes.foldl (fun (m : BitVec 8) c => setBit m c.1.toNat c.2.1) x.actw
  if !left.getLsbD w.toNat then .next (s.setAtt a x)
  else if setBit left w.toNat false = 0 then .next (s.segmentDown a)
  else .next (s.setAtt a ({ x with
    changes := x.changes ++ [(w, false, frame)]
    coll := x.coll.map fun (c : Collective) => { c with retired := c.retired ++ [(w, frame)] } }.settle (s.frame a)))

/-- REINSTATE: from its effective frame on the wavelength is back in packet class, and in counting class with the next
collective. -/
def execReinstate (a : BitVec 4) (change : WaveChange) (s : State) : Out :=
  let x := s.attNow a
  let w := change.wave
  if !x.up || x.actw.getLsbD w.toNat then .next (s.setAtt a x)
  else .next (s.setAtt a ({ x with changes := x.changes ++ [(w, true, change.frame)] }.settle (s.frame a)))

/-- RETRAIN_DONE: retraining has succeeded with a launch delay and the segment's limits (R332). A retired wavelength is
reinstated, every station being told; a marked one is active again, at the latest when its collective ends. -/
def execRetrainDone (a : BitVec 4) (done : Retraining) (s : State) : Out :=
  let x := s.attNow a
  let w := done.wave
  if !x.up ∨ done.wlim = 0 ∨ done.acklag.toNat < 4 then .next (s.setAtt a x)
  else
    let x := (x.setWave w fun v => { v with
      retr := satInc16 v.retr, ldly := done.delay, trained := v.state == 1
      state := if v.state = 2 ∧ x.actw.getLsbD w.toNat then 0 else v.state }).setLimits done.wlim done.acklag (s.frame a)
    if x.actw.getLsbD w.toNat || (x.changes.any fun c => c.1 == w) then .next (s.setAtt a x)
    else
      let f := s.frame a + BitVec.ofNat 48 (x.acklag.toNat + 8) + (Config.freeWord s.free).setWidth 48 % 64
      .next (s.setAtt a (({ x with changes := x.changes ++ [(w, true, f)] }).post 0x19 15 (Config.payload s.free 0x19)))

/-- LINK_TRAINING (R332): stations, the active set, the limits and the launch delays. A segment that comes up reads the
distributed slot clock, whose number the spec leaves open. -/
def execLinkTraining (a stn nstn lead : BitVec 4) (actw : BitVec 8) (wlim acklag : BitVec 4) (delays : List (BitVec 8)) (s : State) : Out :=
  if wlim = 0 ∨ acklag.toNat < 4 ∨ actw = 0 ∨ nstn = 0 ∨ stn.toNat < lead.toNat then .next s
  else
    let s := if (s.att a).up then s else s.setAtt a { s.att a with frame0 := (Config.freeWord s.free).toNat }
    let x := s.attNow a
    let waves := Vector.ofFn fun (i : Fin 8) =>
      let v := x.waves.get i
      { v with ldly := delays.getD i.val v.ldly, state := if actw.getLsbD i.val then 0 else 3, trained := false }
    let x := if x.up then x else { x with
      lastFrame := s.frame a, grants := [], streams := x.streams.map fun (_ : Stream) => { on := actw, part := [] } }
    .next (s.setAtt a ({ x with up := true, stn := stn, nstn := nstn, lead := lead, actw := actw, changes := [], waves := waves }.setLimits
      wlim acklag (s.frame a)))

/-- LAUNCH_DELAY_TRIM (R332): one step at most every 100 ms of 2,400,000 CYCLE ticks a millisecond. -/
def execLaunchDelayTrim (a : BitVec 4) (w : BitVec 3) (later : Bool) (s : State) : Out :=
  .next (s.setAtt a ((s.att a).setWave w fun v =>
    if (s.cycle - v.trimmed).toNat < 240000000 then v
    else { v with ldly := if later then v.ldly + 1 else v.ldly - 1, trimmed := s.cycle }))

/-! ### Packet class (R334 to R337, Table 16.1) -/

/-- A packet frame of a segment is read: its owner's stream goes on, and its requests are decided. -/
def State.packetFrame (s : State) (a : BitVec 4) (requests : List (Option Nat)) (slots : List (List (Option Nat))) : State :=
  let x := s.attNow a
  let now := s.frame a
  if !x.up || !x.packetFrame now || !reached now (x.lastFrame + 1) then s.setAtt a x
  else s.setAtt a (x.readFrame now s.free requests slots)

/-- FLIT: the flit that a station's stream has completed is corrected or discarded by its code, and accepted in the order of its
pair's sequence numbers; the station's statistics follow, and a bad wavelength is retired (R335 to R337). -/
def execFlit (a src : BitVec 4) (errors : List Nat) (wait : BitVec 48) (payload : List Byte) (s : State) : Out :=
  let x := s.attNow a
  let st := x.streams.get src.toFin
  if !x.up || src == x.stn || decide (st.part.length < 48) then .next (s.setAtt a x)
  else
    let raw := st.part.take 48
    let x := { x with streams := x.streams.set src.toNat { st with part := st.part.drop 48 } src.isLt }
    let fixed := fecCorrect (raw.map Prod.snd)
    let x := x.countFlit raw fixed errors
    let x := match fixed with
      | none => x.askRetry src false true
      | some l => x.receive src l
    let (x, down) := x.retireBad (s.frame a) wait payload
    .next (if down then (s.setAtt a x).segmentDown a else s.setAtt a x)

/-- RETRY_FLIT: the sender resends from the flit that it names, later flits to that station being held back (R335). -/
def execRetryFlit (a station : BitVec 4) (seq : BitVec 8) (s : State) : Out :=
  .next (s.setAtt a ((s.att a).resendFrom station seq))

/-- SWLF_CLR (Table 16.3). -/
def execSwlfClr (a : BitVec 4) (s : State) : Out := .next (s.setAtt a { s.att a with nfail := 0, lfGroup := 0, reason := 0 })

end Sys2Proof.Machine
end

