-- ==== Sys2Proof/Machine/Homes.lean ====
section
/-!
DEFINITION. What reaches the memories and the memory path from outside an instruction: other agents' accesses, remote
answers and timeouts, evictions, page walks, soft errors and scrubbing; and words with no assigned encoding (R77, R78,
R88, R180, R214, R215, R288, R296 to R299, R383).
-/

namespace Sys2Proof.Machine

/-! ### Other agents (R180, R214) -/

/-- Another agent's access may be performed: the bytes exist, are aligned, and are not in the active workspace, which the
tile rejects (check 9). -/
def State.remoteOk (s : State) (a n : Nat) : Bool :=
  offsetOk (addrOff a) && decide (a % n = 0) && !s.touchesActive false a n

/-- A write of another agent with its release level as the line's tag (R226); one to a staging window is discarded (R279). -/
def State.remoteWrite (s : State) (agent : BitVec 24) (a n v : Nat) (rlv : BitVec 3) : State :=
  if addrSpm a && inStaging (addrOff a) then s else s.otherWrite a n v rlv agent

/-- REMOTE_ACCESS: a load, a store or an atomic of another agent, performed at its home. A store of part of an
uncorrectable dword is rejected, and an atomic that would read one has no effect (R296, R298). -/
def execRemoteAccess (agent : BitVec 24) (op : RemoteOp) (addr : Word) (size : AccessSize) (s : State) : Out :=
  let a := addr.toNat % 2 ^ 54
  let n := sizeBytes size
  if !s.remoteOk a n then .next s
  else match op with
    | .load => .next ((((s.txHit (lineOf a) true).correctRead a n).homeReadBy agent a).sendResponse agent)
    | .store v rlv =>
      if s.partialBad a n then .next s
      else .next (s.remoteWrite agent a n (v.toNat % 2 ^ (8 * n)) rlv)
    | .atomic op v cmp rlv =>
      if n < 4 ∨ (s.firstBad a n).isSome then .next s
      else
        let s := ((s.txHit (lineOf a) false).correctRead a n).homeReadBy agent a
        let w := 8 * n
        match atomicNew op w (s.mem.readNat a n) (v.toNat % 2 ^ w) (cmp.toNat % 2 ^ w) with
        | some x => .next (s.remoteWrite agent a n x rlv)
        | none => .next s

/-- The host stores into its own memory (R211): a store that a WAIT or a load of that memory then sees. -/
def State.hostStore (s : State) (addr : Word) (n : Nat) (v : Word) : State :=
  let a := addr.toNat % 2 ^ 59
  if (n = 1 ∨ n = 2 ∨ n = 4 ∨ n = 8) ∧ a % n = 0 then s.otherWrite (hostBase + a) n (v.toNat % 2 ^ (8 * n)) 7 0 else s

/-! ### Answers (R88, R383) -/

/-- REMOTE_ANSWER. -/
def execRemoteAnswer (ok : Bool) (s : State) : Out :=
  .next (if s.tile.wait = .remote then s.setWait (if ok then .answered else .rejected) else s)

/-- POSTED_STORE_REJECT: the store is dropped, and its failure is held. -/
def State.dropPosted (s : State) (idx : Nat) : State :=
  match s.tile.path.posted[idx]? with
  | some p =>
    if hostBase ≤ p.addr then s
    else (s.setPath { s.tile.path with posted := s.tile.path.posted.eraseIdx idx }).rejectPosted p
  | none => s

def execPostedStoreReject (idx : Nat) (s : State) : Out := .next (s.dropPosted idx)

/-- A message that no link port acknowledges: its allowance returns and an ACCESS_FAULT is held (R191). -/
def State.dropMessage (s : State) (idx : Nat) : State :=
  match s.tile.net.sent[idx]? with
  | some p => (s.returnAllowance idx).holdFailure Cause.accessFault p
  | none => s

/-- The write-back of a line of another package is not acknowledged: its stores are rejected, and its dirty bytes go (R88, R383). -/
def State.dropDirty (s : State) (a : Nat) : State :=
  match s.findLine a with
  | none => s
  | some l =>
    if l.dirty = 0 ∨ coordPkg (addrCoord l.addr) = s.hub.boot.pkgId then s
    else
      let s := (s.rejectBytes l l.dirty).1
      s.setPath { s.tile.path with
        l1 := (s.tile.path.l1.map fun x => if x.addr = l.addr then { x with dirty := 0, stores := [] } else x).filter fun x => x.valid != 0 }

/-! ### The L1 and translations (R215, R288) -/

/-- L1_EVICTION. -/
def execL1Eviction (line : Nat) (s : State) : Out := .next (s.evictLine line)

/-- PAGE_WALK_COMPLETE: the translation is cached, of 64 the oldest going, and serves the access that waits; a walk that
fails leaves nothing cached. The access is then made again. -/
def execPageWalkComplete (s : State) : Out :=
  match s.tile.path.walk with
  | none => .next s
  | some p =>
    let s := s.walkReads s.own s.tile.res.root (ptrVa p)
    let s' := match s.walkTables s.tile.res.ctxid s.tile.res.root (ptrVa p) with
      | some t => s.setPath { s.tile.path with
          walk := none, tcache := (t :: s.tile.path.tcache).take 64, pinned := t :: s.tile.path.pinned }
      | none => s.setPath { s.tile.path with walk := none, walkFail := some p }
    .next (if s'.tile.front.ast = .asleep then s' else s'.stall .run)

/-! ### Soft errors (R296, R299) -/

/-- A stored word that can hold an error. -/
def State.errorPlaceOk (s : State) (p : ErrorPlace) : Bool :=
  match p with
  | .memory d => decide (8 * d < 2 ^ 54) && offsetOk (addrOff (8 * d))
  | .cache d => match s.findLine (8 * d) with
    | some l => l.valid &&& byteMask (8 * (d - l.addr / 8)) 8 != 0
    | none => false
  | .weight _ slot _ => decide (slot.toNat < 85)

/-- SOFT_ERROR_IN_STORED_BITS. -/
def execSoftErrorInStoredBits (p : ErrorPlace) (correctable : Bool) (s : State) : Out :=
  let e := s.hub.errors
  if !s.errorPlaceOk p || e.bad.contains p then .next s
  else if correctable then .next (if e.soft.contains p then s else s.setErrors { e with soft := p :: e.soft })
  else .next (s.setErrors { e with bad := p :: e.bad, soft := e.soft.filter fun x => x != p })

/-- SCRUB_READ: a correctable word is corrected and counted, an uncorrectable one recorded in the error log. -/
def execScrubRead (p : ErrorPlace) (s : State) : Out :=
  let e := s.hub.errors
  if e.bad.contains p then .next (s.setErrors { e with log := addOnce e.log p })
  else if e.soft.contains p then
    .next (s.setErrors { e with soft := e.soft.filter fun x => x != p, corrected := countCorrected e.corrected (memoryOf p) })
  else .next s

/-! ### Words with no assigned encoding (R77, R78, Table 3.7) -/

/-- A tile-form bundle. -/
def tileForm (w : Word) : Bool := w.toNat / 2 ^ 30 % 4 == 2

/-- The guard of a bundle's C-word or tile instruction. -/
def bundleGuard (w : Word) : Guard :=
  if tileForm w then { neg := w.extractLsb' 7 1, pred := w.extractLsb' 4 3 } else { neg := w.extractLsb' 29 1, pred := w.extractLsb' 26 3 }

/-- The guard of an A-word. -/
def aGuard (w : Word) : Guard := { neg := w.extractLsb' 31 1, pred := w.extractLsb' 28 3 }

/-- EVAL of an A-word: the word and the repeat iteration. -/
def State.evalOf (s : State) (w : Word) : Word :=
  BitVec.ofNat 64 (w.toNat % 2 ^ 32 + (if s.tile.front.rpt.ract then s.tile.front.rpt.riter.toNat else 0) * 2 ^ 32)

/-- UNASSIGNED_ENCODING: `bad` says that check 1 to 4 fails. A word that is only unassigned retires when its guard does
not hold, charged to EW0, EW3 or EW7 (Table 18.5). -/
def execUnassignedEncoding (aHalf bad : Bool) (w : Word) (s : State) : Out :=
  if aHalf then
    if bad then s.faultA Cause.illegalEncoding (s.evalOf w)
    else aWord 3 (aGuard w) s fun s => s.faultA Cause.illegalInstr (s.evalOf w)
  else if s.queueFull then .next (s.stall .resource)
  else if bad then s.trap false Cause.illegalEncoding w
  else if s.guardC (bundleGuard w) then s.trap false Cause.illegalInstr w
  else .next (s.begin (if tileForm w then 7 else 0)).retire

end Sys2Proof.Machine
end

