-- ==== Sys2Proof/Machine/FrontEnd.lean ====
section
/-!
DEFINITION. The front end: its accesses, user queues, the mapper, and the start and the end of packets (R305 to R311, R326,
R327, Tables 15.1 to 15.6).
-/

namespace Sys2Proof.Machine

/-! ### Accesses of the hub (R281, R319, R320, R382) -/

/-- An address space: CTXID and ROOT. -/
structure Space where
  ctxid : BitVec 12
  root  : BitVec 38
  deriving DecidableEq, Repr

/-- Where an access through a pointer of a packet goes. -/
def State.hubAt (s : State) (x : Space) (acc : Acc) (p : Word) (align n : Nat) : Place :=
  if hostPtr p then
    let a := p.toNat % 2 ^ 59
    if a % align ≠ 0 then .trap Cause.misaligned p
    else if s.hostOk a n then .mem (hostBase + a) none else .trap Cause.accessFault p
  else s.hubPlace x.ctxid x.root acc p align n

/-- Why bytes cannot be reached: a cause and value, or none for a write-blocked page. -/
abbrev HubFault := Option (BitVec 8 × Word)

/-- The home addresses of pieces of a range. -/
def State.hubPieces (s : State) (x : Space) (acc : Acc) (p : Word) : List (Nat × Nat) → Except HubFault (List Nat)
  | [] => .ok []
  | (off, n) :: r =>
    match s.hubAt x acc (hubAdd p off) 1 n, s.hubPieces x acc p r with
    | .mem a _, .ok l => .ok ((List.range n).map (fun i => a + i) ++ l)
    | .mem _ _, .error e => .error e
    | .trap c v, _ => .error (some (c, v))
    | .blocked, _ => .error none
    | _, _ => .error (some (Cause.accessFault, p))

/-- The home addresses of a range. -/
def State.hubRange (s : State) (x : Space) (acc : Acc) (p : Word) (n : Nat) : Except HubFault (List Nat) :=
  s.hubPieces x acc p (pagePieces p.toNat (n / 4096 + 2) 0 n)

/-- Read bytes at their homes; none for an uncorrectable error. -/
def State.hubGather (s : State) : List Nat → State × Option (List Byte)
  | [] => (s, some [])
  | a :: r =>
    match s.hubByte a with
    | (s, none) => (s, none)
    | (s, some b) =>
      match s.hubGather r with
      | (s, some l) => (s, some (b :: l))
      | (s, none) => (s, none)

/-- Read a range; the cause and value where it fails. -/
def State.hubRead (s : State) (x : Space) (p : Word) (n : Nat) : State × Except (BitVec 8 × Word) (List Byte) :=
  match s.hubRange x .load p n with
  | .ok l =>
    match s.hubGather l with
    | (s, some bs) => (s, .ok bs)
    | (s, none) => (s, .error (Cause.softError, p))
  | .error e => (s, .error (e.getD (Cause.accessFault, p)))

/-- Bytes as staged for their homes. -/
def wholeBytes (l : List Nat) (bs : List Byte) : List StagedByte :=
  List.zipWith (fun a b => { addr := a, mask := 0xFF, bits := b }) l bs

/-- Write whole bytes at their homes (R226). -/
def State.hubPut (s : State) (l : List StagedByte) : State :=
  l.foldl (fun s b => s.otherWrite b.addr 1 b.bits.toNat 7 0) (s.clearStaged l)

/-- Write a range, or none of it: done, stalled at a write-blocked page, or failed. -/
def State.hubWrite (s : State) (x : Space) (p : Word) (bs : List Byte) : State × CopyEnd :=
  match s.hubRange x .store p bs.length with
  | .ok l =>
    let w := wholeBytes l bs
    if (s.stagedBad w).isSome then (s, .failed Cause.accessFault p) else (s.hubPut w, .done)
  | .error none => (s, .stalled)
  | .error (some (c, v)) => (s, .failed c v)

/-- Dwords of bytes. -/
def dwordsOf : Nat → List Byte → List Word
  | 0, _ => []
  | n + 1, l => BitVec.ofNat 64 (bytesNat (l.take 8)) :: dwordsOf n (l.drop 8)

/-- Bytes of dwords. -/
def bytesOf (l : List Word) : List Byte := l.flatMap fun w => natBytes w.toNat 8

/-! ### Queue descriptors (R305, Table 15.1) -/

def Queue.word (x : Queue) (i : Nat) : Word := x.desc.getD i 0
/-- A field of a descriptor's dword. -/
def Queue.field (x : Queue) (i pos width : Nat) : Nat := (x.word i).toNat / 2 ^ pos % 2 ^ width
def Queue.rlogn (x : Queue) : Nat := x.field 1 0 5
def Queue.clogn (x : Queue) : Nat := x.field 1 8 5
def Queue.en (x : Queue) : Bool := (x.word 1).getLsbD 16
def Queue.priv (x : Queue) : Bool := (x.word 1).getLsbD 17
def Queue.irq (x : Queue) : Bool := (x.word 1).getLsbD 18
def Queue.prio (x : Queue) : Nat := x.field 1 48 4
def Queue.space (x : Queue) : Space := { ctxid := (x.word 3).setWidth 12, root := (x.word 3).setWidth 38 &&& ~~~(0xFFF : BitVec 38) }
def Queue.gpmax (x : Queue) : Nat := x.field 4 0 16
def Queue.gftop (x : Queue) : Nat := x.field 4 16 4
def Queue.gboost (x : Queue) : Bool := (x.word 4).getLsbD 20
def Queue.hwd (x : Queue) : BitVec 16 := (x.word 4).extractLsb' 32 16
/-- The quantum in µs. -/
def Queue.quantum (x : Queue) : Nat := if x.field 4 48 16 = 0 then 1000 else x.field 4 48 16

/-- The bits of a descriptor that hold a field. -/
def descriptorMasks : List Word :=
  [BitVec.allOnes 64, 0x000FFFFF00071F1F, BitVec.allOnes 64, 0x0000003FFFFFFFFF, 0xFFFFFFFF001FFFFF, BitVec.allOnes 64, 0, 0]

/-- Bits outside masks are zero. -/
def maskedOk (l masks : List Word) : Bool := (List.zipWith (fun (a m : Word) => a &&& ~~~m) l masks).all fun x => x == 0

/-- A ring in host memory lies in a window (R382). -/
def State.ringOk (s : State) (p : Word) (n : Nat) : Bool := !hostPtr p || s.hostOk (p.toNat % 2 ^ 59) n

/-- The descriptor keeps the limits of Table 15.1. -/
def State.descriptorOk (s : State) (x : Queue) : Bool :=
  maskedOk x.desc descriptorMasks && decide (4 ≤ x.rlogn) && decide (x.rlogn ≤ 16) && decide (4 ≤ x.clogn) && decide (x.clogn ≤ 16)
    && decide ((x.word 0).toNat % 64 = 0) && decide ((x.word 2).toNat % 32 = 0) && decide (x.gftop ≤ 9)
    && s.ringOk (x.word 0) (64 * 2 ^ x.rlogn) && s.ringOk (x.word 2) (32 * 2 ^ x.clogn)

/-- The address of a queue's descriptor. -/
def State.descriptorPtr (s : State) (q : BitVec 10) : Word := hubAdd s.hub.fe.qdtb (64 * q.toNat)

/-- QDTB names no virtual address: the front end has no address space of its own. -/
def State.readDescriptor (s : State) (q : BitVec 10) : State × Option (List Word) :=
  if !hostPtr s.hub.fe.qdtb && ptrVirtual s.hub.fe.qdtb then (s, none)
  else match s.hubRead ⟨0, 0⟩ (s.descriptorPtr q) 64 with
    | (s, .ok l) => (s, some (dwordsOf 8 l))
    | (s, .error _) => (s, none)

/-! ### Queues -/

/-- A queue that has not been announced. -/
def Queue.fresh (q : BitVec 10) : Queue :=
  { q := q, slot := none, desc := [], head := 0, ctail := 0, tail := 0, err := 0, started := [], stopping := false, last := 0 }

/-- A queue as the front end holds it. -/
def State.queue (s : State) (q : BitVec 10) : Queue :=
  (s.hub.fe.queues.find? fun x => x.q == q).getD (Queue.fresh q)

/-- Put a queue. -/
def State.putQueue (s : State) (x : Queue) : State :=
  let l := s.hub.fe.queues
  s.setFe { s.hub.fe with
    queues := if l.any fun y => y.q == x.q then l.map fun y => if y.q = x.q then x else y else l ++ [x] }

/-- Both queue-wake kid cores are down (R326). -/
def State.wakeDown (s : State) : Bool := s.hub.fe.kidDown.getLsbD 0 && s.hub.fe.kidDown.getLsbD 1

/-- Both packet kid cores are down (Table 15.11). -/
def State.packetsDown (s : State) : Bool := s.hub.fe.kidDown.getLsbD 2 && s.hub.fe.kidDown.getLsbD 3

/-- A queue goes into the wake list, unless it is there. -/
def State.enwake (s : State) (q : BitVec 10) : State := s.setFe { s.hub.fe with wake := addOnce s.hub.fe.wake q }

/-- A queue leaves it. -/
def State.unwake (s : State) (q : BitVec 10) : State := s.setFe { s.hub.fe with wake := s.hub.fe.wake.erase q }

/-- The announced tail is too far from HEAD (R306). -/
def Queue.tooFar (x : Queue) : Bool := decide (2 ^ x.rlogn < (x.tail - x.head).toNat)

/-- Keep a NOTIFY until it can be served: each queue's latest tail. -/
def State.keepNotify (s : State) (q : BitVec 10) (tail : BitVec 32) : State :=
  s.setFe { s.hub.fe with kept := (s.hub.fe.kept.filter fun x => x.1 != q) ++ [(q, tail)] }

/-- Serve a NOTIFY (R306, R308). -/
def State.serveNotify (s : State) (q : BitVec 10) (tail : BitVec 32) : State :=
  let x := s.queue q
  if tail = x.tail then s
  else
    let x := { x with tail := tail }
    if x.err ≠ 0 then s.putQueue x
    else if x.slot.isSome then s.putQueue (if x.tooFar then { x with err := 0x40 } else x)
    else match s.readDescriptor q with
      | (s, none) => s.putQueue { x with err := 0x43 }
      | (s, some d) =>
        let x := { x with desc := d }
        let x := { x with head := (x.word 5).setWidth 32, ctail := (x.word 5).extractLsb' 32 32 }
        if !s.descriptorOk x then s.putQueue { x with err := 0x43 }
        else if !x.en then s.putQueue x
        else if x.tooFar then s.putQueue { x with err := 0x40 }
        else (s.putQueue x).enwake q

/-- A NOTIFY must wait: both queue-wake kid cores are down, or the fallback scheduler runs and the queue is not mapped (R326,
R327). -/
def State.mustKeep (s : State) (q : BitVec 10) : Bool := s.wakeDown || (s.hub.fe.fbact && (s.queue q).slot.isNone)

/-- NOTIFY: in minimal mode BAR 2 ignores writes (R387); while the queue-wake kid cores are down, and for an unmapped queue
while the fallback scheduler runs, the latest tail is kept (R326, R327). A tail that is served supersedes a kept one. -/
def execNotify (q : BitVec 10) (tail : BitVec 32) (s : State) : Out :=
  if s.hub.boot.mini then .next s
  else if s.mustKeep q then .next (s.keepNotify q tail)
  else .next ((s.setFe { s.hub.fe with kept := s.hub.fe.kept.filter fun x => x.1 != q }).serveNotify q tail)

/-- Serve the kept NOTIFY writes that need not wait any longer. -/
def State.serveKept (s : State) : State :=
  let due := s.hub.fe.kept.filter fun x => !s.mustKeep x.1
  due.foldl (fun s x => s.serveNotify x.1 x.2) (s.setFe { s.hub.fe with kept := s.hub.fe.kept.filter fun x => s.mustKeep x.1 })

/-- QSTAT (Table 15.2). -/
def State.qstat (s : State) (q : BitVec 10) : Word :=
  let x := s.queue q
  BitVec.ofNat 64 (x.head.toNat + (if x.slot.isSome then 2 ^ 32 else 0) + (x.slot.getD 0).toNat * 2 ^ 33
    + (if s.hub.fe.wake.contains q then 2 ^ 38 else 0) + x.err.toNat * 2 ^ 40)

/-- A dword of the notify page of a queue as the host reads it: NOTIFY is write-only and reads as 0 (Tables 0.3, 15.2); in minimal
mode BAR 2 reads zero (R387). -/
def State.notifyRead (s : State) (q : BitVec 10) (off : Nat) : Word :=
  if s.hub.boot.mini then 0
  else match off with
  | 0x08 => s.qstat q
  | 0x10 => (s.queue q).ctail.setWidth 64
  | _ => 0

/-! ### The mapper (R308) -/

/-- The slots that no queue holds. -/
def State.freeSlots (s : State) : List (BitVec 5) :=
  ((List.range 32).map (BitVec.ofNat 5)).filter fun i => !s.hub.fe.queues.any fun x => x.slot == some i

/-- The first queue of the wake list in the order of PRIO. -/
def State.wakeHead (s : State) : Option (BitVec 10) :=
  s.hub.fe.wake.foldl (fun best q =>
    match best with
    | none => some q
    | some b => if (s.queue b).prio < (s.queue q).prio then some q else best) none

/-- QUEUE_MAP: the head of the wake list gets a free slot; a descriptor that is not good stops its queue (R305). -/
def execQueueMap (s : State) : Out :=
  if s.hub.fe.fbact || s.wakeDown then .next s
  else match s.wakeHead, s.freeSlots with
    | some q, slot :: _ =>
      let s := s.unwake q
      let x := s.queue q
      match s.readDescriptor q with
      | (s, none) => .next (s.putQueue { x with err := 0x43 })
      | (s, some d) =>
        let x := { x with desc := d }
        if !s.descriptorOk x then .next (s.putQueue { x with err := 0x43 })
        else if !x.en then .next (s.putQueue x)
        else
          let x := { x with slot := some slot, head := (x.word 5).setWidth 32, ctail := (x.word 5).extractLsb' 32 32
                            started := [], last := s.hub.fe.clock }
          .next (s.putQueue (if x.tooFar then { x with err := 0x40 } else x))
    | _, _ => .next s

/-! ### Packet headers and layouts (R309, Tables 15.3, 15.5, 15.7, 15.9) -/

def Pkt.word (k : Pkt) (i : Nat) : Word := k.words.getD i 0
/-- A field of a packet's dword. -/
def Pkt.field (k : Pkt) (i pos width : Nat) : Nat := (k.word i).toNat / 2 ^ pos % 2 ^ width
def Pkt.type (k : Pkt) : Nat := k.field 0 0 8
def Pkt.bar (k : Pkt) : Bool := (k.word 0).getLsbD 8
def Pkt.cmpl (k : Pkt) : Bool := (k.word 0).getLsbD 9
def Pkt.wantsIrq (k : Pkt) : Bool := (k.word 0).getLsbD 10
def Pkt.tag (k : Pkt) : Nat := k.field 0 32 32

/-- The bits of dwords 1 to 7 that a TYPE gives a field; none for an unassigned TYPE. -/
def typeMasks (t : Nat) : Option (List Word) :=
  let a : Word := BitVec.allOnes 64
  match t with
  | 0x01 => some [a, 0x000FFFFFFFFFFFFF, a, a, a, a, 0x00000007FFFFFFFF]
  | 0x02 => some [a, 0x1FFFF, a, a, 0x0000FFFF000FFFFF, a, a]
  | 0x03 => some [a, a, 0xFFFFFFFFFF, 0, 0, 0, 0]
  | 0x04 => some [a, a, 1, 0, 0, 0, 0]
  | 0x05 => some [a, a, 3, 0xFFFFFFFF, 0, 0, 0]
  | 0x06 => some [0x3FF, 0xFFFFFFFF, a, 1, 0, 0, 0]
  | 0x10 => some [0x1FFF, 0x007FFFFFFFFFF000, 0xFFFFFFFF, 0, 0, 0, 0]
  | 0x11 => some [0x3FF, 0xFFFFFFFF, 0, 0, 0, 0, 0]
  | 0x12 => some [0x3FF, 0xFFFFFFFF, 1, 0, 0, 0, 0]
  | 0x13 => some [0x3FF, 0, 0, 0, 0, 0, 0]
  | _ => none

/-- The STATUS of a packet that R309 stops; 0 for one that goes on. -/
def Pkt.refusedWith (k : Pkt) (priv : Bool) : BitVec 8 :=
  match typeMasks k.type with
  | none => 0x41
  | some m =>
    if 0x10 ≤ k.type ∧ !priv then 0x44
    else if !maskedOk k.words (0xFFFFFFFF000007FF :: m) then 0x40
    else 0

/-! ### Started packets -/

/-- The started packet of a queue at an index. -/
def Queue.pkt (x : Queue) (idx : BitVec 32) : Option Pkt := x.started.find? fun k => k.idx == idx

/-- Change a started packet. -/
def State.updPkt (s : State) (q : BitVec 10) (idx : BitVec 32) (f : Pkt → Pkt) : State :=
  let x := s.queue q
  s.putQueue { x with started := x.started.map fun k => if k.idx = idx then f k else k }

/-- Its operation has not ended. -/
def Pkt.open_ (k : Pkt) : Bool :=
  match k.phase with
  | .finished .. => false
  | _ => true

/-- The operation of a packet ends with STATUS, COORD, VALUE and EPC, unless it has ended. -/
def State.finishPkt (s : State) (q : BitVec 10) (idx : BitVec 32) (status : BitVec 8) (coord : BitVec 24) (value epc : Word) :
    State :=
  s.updPkt q idx fun k => if k.open_ then { k with phase := .finished status coord value epc } else k

/-- With STATUS and VALUE alone. -/
def State.finishWith (s : State) (q : BitVec 10) (idx : BitVec 32) (status : BitVec 8) (value : Word) : State :=
  s.finishPkt q idx status 0 value 0

/-- A WAIT that has not completed. -/
def Queue.waits (x : Queue) : Bool := x.started.any fun k => k.type == 5

/-- The queue may start a packet, as far as the packet itself does not tell. -/
def State.mayStart (s : State) (x : Queue) : Bool :=
  x.slot.isSome && x.err == 0 && !x.stopping && x.head != x.tail && !x.waits && (s.hub.fe.fbact || !s.packetsDown)

/-- The address of the next packet (R307). -/
def Queue.nextPtr (x : Queue) : Word := hubAdd (x.word 0) (64 * (x.head.toNat % 2 ^ x.rlogn))

/-- The next packet: its words, or why it cannot be read. -/
def State.nextPacket (s : State) (x : Queue) : State × Except (BitVec 8) (List Word) :=
  match s.hubRead x.space x.nextPtr 64 with
  | (s, .ok l) => (s, .ok (dwordsOf 8 l))
  | (s, .error e) => (s, .error e.1)

/-- The fallback scheduler serves a TYPE (R327). -/
def fallbackServes (t : Nat) : Bool := t == 1 || t == 2 || t == 4 || t == 5

/-- The queue's next packet can start now: its TYPE, or none where it cannot be read. -/
def State.startable (s : State) (x : Queue) : Option (Option Nat) :=
  if !s.mayStart x then none
  else match (s.nextPacket x).2 with
    | .error _ => some none
    | .ok w =>
      let k : Pkt := { idx := x.head, words := w, since := 0, phase := .running, ctx := 0, blocked := none, met := false }
      if (k.bar && !x.started.isEmpty) || (s.hub.fe.fbact && !fallbackServes k.type) then none else some (some k.type)

/-- The fallback scheduler's visit has come to a queue: none of the slots before it can start a packet (R327). -/
def State.visited (s : State) (x : Queue) : Bool :=
  match x.slot with
  | none => false
  | some i =>
    !s.hub.fe.fbact || s.hub.fe.queues.all fun y =>
      match y.slot with
      | none => true
      | some j =>
        decide ((i.toNat + 32 - s.hub.fe.visit % 32) % 32 ≤ (j.toNat + 32 - s.hub.fe.visit % 32) % 32) || (s.startable y).isNone

/-- A packet has started: HEAD passes it (R307, R310). -/
def State.begin_ (s : State) (x : Queue) (k : Pkt) : State :=
  let fe := s.hub.fe
  let s := s.setFe { fe with clock := fe.clock + 1, visit := ((x.slot.getD 0).toNat + 1) % 32 }
  s.putQueue { x with head := x.head + 1, started := x.started ++ [k], last := fe.clock + 1 }

/-- The front end starts the next packet of a queue when it may and the packet is of the event's TYPE. A packet that cannot be
read has started and ended, and so has one that R309 stops (R307, R309, R310). -/
def startPacket (q : BitVec 10) (type : Option Nat) (s : State) (k : State → Queue → Pkt → Out) : Out :=
  let x := s.queue q
  match s.startable x with
  | none => .next s
  | some t =>
    if !s.visited x then .next s
    else
      let (s', w) := s.nextPacket x
      let p : Pkt := { idx := x.head, words := [], since := s.cycle, phase := .running, ctx := 0, blocked := none, met := false }
      match w, t with
      | .error c, _ => .next (((s'.begin_ x p)).finishWith q p.idx c x.nextPtr)
      | .ok w, some t =>
        let p := { p with words := w }
        let wanted := match type with
          | some n => t == n
          | none => (typeMasks t).isNone
        if !wanted then .next s
        else
          let s := s'.begin_ x p
          let status := p.refusedWith x.priv
          if status ≠ 0 then .next (s.finishWith q p.idx status 0) else k s (s.queue q) p
      | .ok _, none => .next s

/-- UNASSIGNED_TYPE (R309). -/
def execUnassignedType (q : BitVec 10) (s : State) : Out := startPacket q none s fun s _ _ => .next s

/-! ### Unmapping and eviction (R305, R308, R321) -/

/-- Unmap a queue: HEAD and CTAIL are written into its descriptor. -/
def State.unmap (s : State) (x : Queue) : State :=
  let v := natBytes x.head.toNat 4 ++ natBytes x.ctail.toNat 4
  ((s.hubWrite ⟨0, 0⟩ (hubAdd (s.descriptorPtr x.q) 40) v).1).putQueue { x with slot := none, started := [] }

/-- The only started packet is a WAIT that has waited more than 1 ms of 2,400,000 CYCLE ticks. -/
def State.longWait (s : State) (x : Queue) : Option Pkt :=
  match x.started with
  | [k] => if k.type = 5 ∧ k.open_ ∧ 2400000 < (s.cycle - k.since).toNat then some k else none
  | _ => none

/-- Evictable. -/
def State.evictable (s : State) (x : Queue) : Bool :=
  x.slot.isSome && ((x.started.isEmpty && x.head == x.tail) || (s.longWait x).isSome)

/-- The queue that is evicted: the lowest PRIO, and among those the oldest last start or completion. -/
def State.victim (s : State) : Option Queue :=
  (s.hub.fe.queues.filter s.evictable).foldl (fun best x =>
    match best with
    | none => some x
    | some b => if x.prio < b.prio ∨ (x.prio = b.prio ∧ x.last < b.last) then some x else best) none

/-- QUEUE_EVICT: an abandoned WAIT counts as not started, and a queue with unstarted announced packets goes back into the
wake list. -/
def execQueueEvict (s : State) : Out :=
  if s.hub.fe.fbact || s.wakeDown || s.hub.fe.wake.isEmpty || !s.freeSlots.isEmpty then .next s
  else match s.victim with
    | none => .next s
    | some x =>
      let x := match s.longWait x with
        | some k => { x with head := k.idx }
        | none => x
      let s := s.unmap x
      .next (if x.head = x.tail then s else s.enwake x.q)

/-! ### QSTOP (Table 15.5) and completion (R311) -/

/-- A QSTOP of a queue that has not ended. -/
def Pkt.stops (k : Pkt) (q : BitVec 10) : Bool := k.type == 0x13 && k.field 1 0 10 == q.toNat && k.open_

/-- Finish the QSTOP packets that name a queue. -/
def State.endStops (s : State) (q : BitVec 10) : State :=
  s.setFe { s.hub.fe with queues := s.hub.fe.queues.map fun x =>
    { x with started := x.started.map fun k => if k.stops q then { k with phase := .finished 0 0 0 0 } else k } }

/-- What a stopping queue has come to; a QSTOP is privileged and waits while the fallback scheduler runs (R327). Its own QSTOP ends when only that is left, and with nothing left it is unmapped and its
error cleared. -/
def State.settleStop (s : State) (q : BitVec 10) : State :=
  let x := s.queue q
  if !x.stopping || s.hub.fe.fbact then s
  else if x.started.isEmpty then
    let s := if x.slot.isSome then s.unmap x else s
    (s.putQueue { s.queue q with err := 0, stopping := false }).endStops q
  else if x.started.all fun k => k.stops q then s.endStops q
  else s

/-- QSTOP. -/
def execQstop (q : BitVec 10) (s : State) : Out :=
  startPacket q (some 0x13) s fun s _ k =>
    let t : BitVec 10 := (k.word 1).setWidth 10
    let y := s.queue t
    let s := s.unwake t
    if y.slot.isNone then .next ((s.putQueue { y with err := 0 }).endStops t)
    else .next ((s.putQueue { y with stopping := true }).settleStop t)

/-- How a started packet has ended: STATUS, COORD, VALUE and EPC; one that created a context ends with it, once a save in
progress has ended (R317). -/
def State.outcome (s : State) (k : Pkt) : Option (BitVec 8 × BitVec 24 × Word × Word) :=
  match k.phase with
  | .finished status coord value epc => some (status, coord, value, epc)
  | _ =>
    match s.ctxOf k.ctx with
    | some c =>
      match c.ended with
      | some (status, value, epc, coord) => if c.saving then none else some (status, coord, value, epc)
      | none => none
    | none => none

/-- The completion record of a packet (Table 15.4), with FLG and NLOG 0. -/
def Pkt.record (k : Pkt) (status : BitVec 8) (coord : BitVec 24) (value epc : Word) : List Word :=
  [BitVec.ofNat 64 (k.tag + status.toNat * 2 ^ 32 + k.type * 2 ^ 40), BitVec.ofNat 64 (k.idx.toNat + coord.toNat * 2 ^ 32), value, epc]

/-- Add FLG and NLOG of a TILE packet's context. -/
def withRun (r : Option TileRun) (l : List Word) : List Word :=
  match r with
  | none => l
  | some r => [l.getD 0 0 + BitVec.ofNat 64 (min r.nlog 32767 * 2 ^ 49), l.getD 1 0 + (r.flags.setWidth 64 <<< 56), l.getD 2 0, l.getD 3 0]

/-- The fault log of a TILE packet, as far as LOGCAP goes (R263, R319). -/
def State.writeLog (s : State) (x : Space) (r : Option TileRun) : State :=
  match r with
  | none => s
  | some r => ((r.log.take r.logCap).mapIdx fun i y => (i, y.words)).foldl
      (fun s y => (s.hubWrite x (hubAdd r.logPtr (32 * y.1)) (bytesOf y.2)).1) s

/-- MSI-X vectors of the function (R379). -/
def msixVectors : Nat := 2048

/-- Write a record and then count it (R311); false while its page is write-blocked. A record that cannot be stored is lost. A VEC that
the function does not have sends no message (R379; log 58). -/
def State.postRecord (s : State) (q : BitVec 10) (r : List Word) (irq : Bool) : State × Bool :=
  let x := s.queue q
  match s.hubWrite x.space (hubAdd (x.word 2) (32 * (x.ctail.toNat % 2 ^ x.clogn))) (bytesOf r) with
  | (s, .stalled) => (s, false)
  | (s, _) =>
    let s := s.putQueue { x with ctail := x.ctail + 1 }
    let vec := (x.word 1).extractLsb' 32 16
    (if irq && x.irq && decide (vec.toNat < msixVectors) then s.setFe { s.hub.fe with msix := s.hub.fe.msix ++ [vec] } else s, true)

/-- The watchdogs of a queue's contexts restart (R328). -/
def State.watchQueue (s : State) (q : BitVec 10) : State :=
  s.setFe { s.hub.fe with ctxs := s.hub.fe.ctxs.map fun (c : Ctx) => if c.queue = q then { c with watched := s.cycle } else c }

/-- This tile's dirty bytes and posted stores reach their homes, with no change of its release level. -/
def State.flushHome (s : State) : State :=
  let rlv := s.tile.path.rlv
  let s := s.release 4
  s.setPath { s.tile.path with rlv := rlv }

/-- A packet leaves its queue. -/
def State.dropPkt (s : State) (q : BitVec 10) (idx : BitVec 32) : State :=
  let fe := s.hub.fe
  let s := s.setFe { fe with clock := fe.clock + 1 }
  let x := s.queue q
  s.putQueue { x with started := x.started.filter fun k => k.idx != idx, last := fe.clock + 1 }

/-- A packet that has ended completes: this tile's stores of its context reach their homes (R310), then its record is written, if
it asks for one or has failed, and CTAIL (R311); the watchdogs of the queue's contexts restart (R328), and a stopping queue may
then be unmapped. -/
def State.completePkt (s : State) (q : BitVec 10) (idx : BitVec 32) : State :=
  match (s.queue q).pkt idx with
  | none => s
  | some k =>
    match s.outcome k with
    | none => s
    | some (status, coord, value, epc) =>
      let c := s.ctxOf k.ctx
      let run := c.bind Ctx.run
      let s := if c.any fun c => c.tiles.contains s.own then s.flushHome else s
      let s := s.writeLog (s.queue q).space run
      let (s, ok) := if k.cmpl || status != 0 then
          s.postRecord q (withRun run (k.record status coord value epc)) (k.cmpl && k.wantsIrq)
        else (s, true)
      if !ok then s
      else
        let s := (s.dropPkt q idx).watchQueue q
        s.hub.fe.queues.foldl (fun s x => s.settleStop x.q) s

/-! ### Kid cores and the hub watchdog (R326, R327) -/

/-- KID_HEARTBEAT_CHECK: the cores found silent are down until they have been restarted. -/
def execKidHeartbeatCheck (silent : BitVec 6) (s : State) : Out :=
  if s.hub.fe.fbact then .next s
  else .next (s.setFe { s.hub.fe with kidDown := s.hub.fe.kidDown ||| silent })

/-- KID_CORE_RESTARTED. -/
def execKidCoreRestarted (core : BitVec 3) (s : State) : Out :=
  .next (s.setFe { s.hub.fe with kidDown := setBit s.hub.fe.kidDown core.toNat false }).serveKept

/-- HUB_WATCHDOG_EXPIRE: the fallback scheduler takes over; before BOOTOK it is a start failure of reason 0x08 (Table 21.7). -/
def execHubWatchdogExpire (s : State) : Out :=
  if s.hub.boot.image.isSome && !s.hub.boot.bootok then .next (s.failStart 0x08)
  else .next (s.setFe { s.hub.fe with fbact := true, visit := 0 })

end Sys2Proof.Machine
end

