-- ==== Sys2Proof/Machine/Contexts.lean ====
section
/-!
DEFINITION. Contexts at the front end: their ends, the rotation, watchdogs, parking, dispensing tasks (R36, R202, R249, R316 to
R318, R322, R323, R328, Tables 15.5, 15.8).
-/

namespace Sys2Proof.Machine

/-! ### The end of a context (R316, R317) -/

/-- Every attachment. -/
def attachments : List (BitVec 4) := (List.range 16).map (BitVec.ofNat 4)

/-- The Sweut commands of an owner leave: one in rendezvous is withdrawn, and a station whose collective has started lights
nothing more (R317, R338, R346). -/
def State.leaveBus (s : State) (owner : Nat) : State :=
  let leave (s : State) (a : BitVec 4) : State :=
    match s.swCmd a with
    | none => s
    | some c =>
      if c.owner ≠ owner then s
      else match c.phase with
        | .joined =>
          let s := s.withdraw a (descGroup c.desc)
          s.setAtt a { s.att a with early := none }
        | .started => s.setAtt a { s.att a with coll := (s.att a).coll.map fun (x : Collective) => { x with
            dark := true, srcFail := some (x.srcFail.getD Cause.accessFault), out := [] } }
        | .queued => s
  (attachments.foldl leave s).mapSw fun l => l.filter fun c => c.owner != owner

/-- The lease of a context ends as by SPRX. -/
def State.endLeases (s : State) (n : Nat) : State :=
  stripNumbers.foldl (fun s i => if (s.strip i).st = 1 ∧ (s.strip i).holder = n then s.endLease i else s) s

/-- The tile goes on with the next context assigned to it, as by a TRET from a discarded one; without one it stays halted
(log 22). -/
def State.takeNext (s : State) : State :=
  match (s.assigned s.own).find? fun c => c.parked.isNone with
  | some d =>
    let s := s.setCsr { s.tile.csr with ewp := d.wp, status := s.tile.csr.status ||| 1 }
    (s.setFront { s.tile.front with ast := .resource, xst := .run }).setWait .load
  | none => s

/-- A part of a TILE packet of a context that runs on this tile is abandoned with no output. -/
def State.dropChild (s : State) (n : Nat) : State :=
  let s := s.setSeq { s.tile.seq with blocked := none }
  match s.tile.seq.running with
  | some (.child m _) =>
    if m ≠ n then s
    else
      let s := if s.childBorrows then s.returnMatrix else s
      s.setSeq { s.tile.seq with running := none }
  | _ => s

/-- What this tile keeps for a context that is not resident goes: a held record, its place in its list, held failures, and what
waits in the network for it (R317; log 45). -/
def State.forget (s : State) (c : Ctx) : State :=
  let b := c.buffer s.own
  let s := s.setRes { s.tile.res with
    held := s.tile.res.held.filter fun x => x.1 != c.id, lists := s.tile.res.lists.filter fun x => x.1 != c.id }
  let s := s.setPath { s.tile.path with away := s.tile.path.away.filter fun x => b == 0 || x.1 != b.toNat }
  s.setNet { s.tile.net with waiting := s.tile.net.waiting.filter fun x => b == 0 || x.cxb != b }

/-- This tile abandons a context: a resident one with all its tile-local state, any other from what the tile holds for it. A
TRET that has saved it goes on to its load. Its stores reach their homes, and its failures go with it (R88, R310). A tile without a
context sleeps (R355). -/
def State.vacate (s : State) (c : Ctx) : State :=
  let s := s.forget c
  if s.tile.res.ctx ≠ c.id ∨ c.run.isSome then s
  else if s.tile.wait = .load then s.setRes { s.tile.res with ctx := 0 }
  else
    let s := (s.leaveBus 0).leaveGang.flushAll.discardLocal
    let s := s.setNet { s.tile.net with
      spillTo := none, waiting := s.tile.net.waiting.filter fun x => x.cxb != 0 && x.cxb != s.tile.res.cxb }
    let s := s.setRes { s.tile.res with
      ctx := 0, cxb := 0, ctxid := 0, root := 0, cut := none, listPos := 0, rejected := none, report := none, startAt := none }
    let s := s.setFront { Tile.reset.front with started := s.tile.front.started, ast := .halted, xst := .halted }
    let s := (s.setPath { s.tile.path with pinned := [], walk := none, walkFail := none }).enterPower .hold
    let s := s.setPower { s.tile.power with resident := 0 }
    (s.setWait .idle).takeNext

/-- End a context with a status, unless it has ended. -/
def State.endCtx (s : State) (n : Nat) (status : BitVec 8) (value epc : Word) (coord : BitVec 24) : State :=
  match s.ctxOf n with
  | none => s
  | some c =>
    if c.ended.isSome then s
    else
      let s := (s.failCtx n status value epc coord).endLeases n
      let s := if c.run.isSome then (s.leaveBus n).dropChild n else s
      s.vacate c

/-- The buffers of a context. -/
def Ctx.buffers (c : Ctx) : List Word := (c.tiles.map c.buffer).filter fun b => b != 0

/-- Kill a context (R317): its context buffers are never loaded again (R242). A kill that arrives while the context is being
saved waits for the end of the save. -/
def State.killCtx (s : State) (n : Nat) (status : BitVec 8) (value epc : Word) (coord : BitVec 24) : State :=
  match s.ctxOf n with
  | none => s
  | some c =>
    if c.ended.isSome then s
    else if c.saving then s.updCtx n fun c => { c with doomed := some (c.doomed.getD (status, value, epc, coord)) }
    else
      let s := s.setRes { s.tile.res with killed := c.buffers.foldl addOnce s.tile.res.killed }
      s.endCtx n status value epc coord

/-- Kills that have waited for the end of a save take effect (R249, R317). -/
def State.settleDoom (s : State) : State :=
  s.hub.fe.ctxs.foldl (fun s c =>
    match c.doomed with
    | some (status, value, epc, coord) =>
      if c.saving then s
      else (s.updCtx c.id fun c => { c with doomed := none }).killCtx c.id status value epc coord
    | none => s) s

/-- COMPUTE_BARRIER_COMPLETE (R197, R198, R316): the records of this tile run; tiles that disagree end their context with
STATUS 0x49. -/
def execComputeBarrierComplete (ctx : Nat) (s : State) : Out :=
  match s.ctxOf ctx with
  | none => .next s
  | some c =>
    if c.ended.isSome then .next s
    else if c.disagrees then .next (s.killCtx ctx 0x49 0 0 0)
    else match s.tile.wait with
      | .sstep .joined p n =>
        if !c.allJoined || s.tile.res.ctx != ctx then .next s
        else
          let a := match s.resolve true .load p 16 16 with
            | .mem a _ => a
            | _ => s.ownAddr (ptrOff p)
          .next ((s.exchange s.mem a p (n.toNat % 2 ^ 16) 0 []).setWait (.sstep .ran p n))
      | _ => .next s

/-- The save timer has reached 2 ms (R242). -/
def State.saveOver (s : State) : Bool := s.saving && decide (2 * msTicks ≤ (s.cycle - s.tile.res.saveAt).toNat)

/-- SAVE_TIMEOUT (R249): the save is abandoned and its context killed; the TRET goes on to its load. -/
def execSaveTimeout (s : State) : Out :=
  if !s.saveOver then .next s
  else
    let cxb := s.tile.res.cxb
    let n := s.tile.res.ctx
    let s := s.leaveBus 0
    let s := if cxb = 0 then s else s.putWords (cxbAddr cxb) [0xFF01]
    let s := s.updCtx n fun c => { c with saving := false, doomed := none }
    .next ((s.flushAll.discardLocal.setWait .load).killCtx n Cause.saveTimeout cxb 0 s.own)

/-- The context that a packet names by its QUEUE and LIDX. -/
def State.ctxNamed (s : State) (k : Pkt) : Option Ctx :=
  s.hub.fe.ctxs.find? fun c => c.ended.isNone && c.queue.toNat == k.field 1 0 10 && c.lidx.toNat == k.field 2 0 32

/-- A CHECKPOINT of a context is in progress (R300). -/
def State.checkpointed (s : State) (n : Nat) : Bool :=
  s.hub.fe.queues.any fun x => x.started.any fun k => k.type == 6 && k.open_ && (s.ctxNamed k).any fun c => c.id == n

/-- The resident dynamic context is to be saved for a CHECKPOINT, whichever context comes after it (R300; log 56). -/
def State.mustSave (s : State) : Bool :=
  (s.ctxOf s.tile.res.ctx).any fun c => !c.det && c.parked.isSome && s.checkpointed c.id

/-- TRET (R37). Its own A-word and those passed before it issue first (log 17). A save that is not complete when its timer reaches
2 ms is abandoned (R249). -/
def execTret (gd : Guard) (s : State) : Out :=
  match s.tile.wait with
  | .save => if s.saveOver then execSaveTimeout s else if s.saveReady then .next s.endSave else .next (s.stall .resource)
  | .load => .next (s.stall .resource)
  | _ =>
    cWordIf 0 gd s s.sup fun s =>
      let s := s.passOwn
      if !s.caughtUp then .next (s.stall .resource)
      else
        let ws := s.tile.csr.ewp
        if s.wsCxb ws = s.tile.res.cxb ∧ ¬s.mustSave then .next (s.returned ws) else .next s.startSave

/-- Every task queue that the context's tiles name is empty. -/
def State.queuesEmpty (s : State) (c : Ctx) : Bool :=
  c.queues.all fun x => let q := readTaskQueue s.mem x.2; q.head == q.tail

/-- The condition of R316, which the handler tests at ALL_ASLEEP: every tile has halted, or every tile is idle and every task queue
empty. -/
def State.ctxIdle (s : State) (c : Ctx) : Bool :=
  let done := if c.det then c.tiles.all fun t => c.halted.contains t
    else c.heldRecs.isEmpty && s.queuesEmpty c && s.nothingInFlight c && c.tiles.all fun t => c.idle.contains t
  c.ended.isNone && c.run.isNone && c.running && done && !c.saving

/-- The context completes: of a dynamic one, the all-asleep detector finds every tile asleep in that condition (R248, R316). -/
def State.ctxDone (s : State) (c : Ctx) : Bool := s.ctxIdle c && (c.det || s.allAsleep c)

/-- CONTEXT_COMPLETE (R316). -/
def execContextComplete (ctx : Nat) (s : State) : Out :=
  match s.ctxOf ctx with
  | none => .next s
  | some c => if s.ctxDone c then .next (s.endCtx ctx 0 0 0 0) else .next s

/-- HWD milliseconds have passed since the context's hang watchdog was restarted; a parked context's is stopped (R328). -/
def Ctx.hung (c : Ctx) (now : Word) : Bool :=
  c.ended.isNone && c.doomed.isNone && c.hwd != 0 && c.parked.isNone && decide (c.hwd.toNat * msTicks ≤ (now - c.watched).toNat)

/-- HANG_WATCHDOG_EXPIRE (R328, R397): held off during a debug halt; during a save it acts on the saved context (R249). -/
def execHangWatchdogExpire (ctx : Nat) (s : State) : Out :=
  match s.ctxOf ctx with
  | none => .next s
  | some c => if !c.hung s.cycle || s.hub.snap.frozen then .next s else .next (s.killCtx ctx 0x48 0 0 0)

/-- The context that the front end takes as resident on a tile: of another tile, the first assigned to it (log 2). -/
def State.residentOn (s : State) (t : BitVec 24) : Nat :=
  if t = s.own then s.tile.res.ctx else ((s.assigned t).head?.map Ctx.id).getD 0

/-- TILE_LEVEL_FAULT_REPORT (R36, R242, R311, R317): of this tile, the report that it has made, with the progress word of the half
that faulted; that of another tile is a free value (log 6). -/
def execTileLevelFaultReport (coord : BitVec 24) (cause : BitVec 8) (value : Word) (s : State) : Out :=
  let n := s.residentOn coord
  if coord ≠ s.own then .next (s.killCtx n cause value (Config.freeWord s.free) coord)
  else match s.tile.res.report with
    | some (c, v, epc) =>
      if c = cause ∧ v = value then .next ((s.setRes { s.tile.res with report := none }).killCtx n cause value epc coord)
      else .next s
    | none => .next s

/-! ### The rotation (R318) -/

/-- The quantum of the resident context, QNT µs of 2,400 CYCLE ticks, has passed. -/
def State.quantumOver (s : State) : Bool :=
  match s.ctxOf s.tile.res.ctx with
  | some c => decide ((s.queue c.queue).quantum * 2400 ≤ (s.cycle - s.tile.res.quantum).toNat)
  | none => true

/-- QUANTUM_END: ESCR names the next context and PREEMPT is sent; a tile that holds no context takes one up, and the handler that
holds a parked one goes on with it (log 48). -/
def execQuantumEnd (s : State) : Out :=
  if s.hub.fe.fbact || s.switching then .next s
  else if s.tile.res.ctx = 0 ∧ s.tile.wait = .idle ∧ s.tile.front.ast = .halted then .next s.takeNext
  else if !s.quantumOver then .next s
  else match s.nextCtx with
    | none => .next s
    | some c =>
      let parked := (s.ctxOf s.tile.res.ctx).any fun d => d.parked.isSome
      let s := (s.setCsr { s.tile.csr with escr := c.wp }).setRes { s.tile.res with quantum := s.cycle }
      if parked && s.sup then .next (s.setCsr { s.tile.csr with ewp := c.wp })
      else .next (s.setPend { s.tile.pend with preempt := firstOf s.tile.pend.preempt 0 })

/-- The event record of a parked context (Table 15.8). -/
def State.eventRecord (s : State) (c : Ctx) (value epc : Word) (coord : BitVec 24) : List Word :=
  match (s.queue c.queue).pkt c.lidx with
  | none => []
  | some k =>
    let r := k.record Cause.pageFault coord value epc
    [r.getD 0 0 ||| ((1 : Word) <<< 48), r.getD 1 0, value, epc]

/-- Post the PAGE_FAULT events that can be posted; they wait while the fallback scheduler runs (R327). -/
def State.postEvents (s : State) : List (Nat × Word × Word × BitVec 24) → State
  | [] => s
  | (n, value, epc, coord) :: r =>
    match s.ctxOf n with
    | none => State.postEvents s r
    | some c =>
      let words := s.eventRecord c value epc coord
      let (s, ok) := if words.isEmpty then (s, true) else s.postRecord c.queue words false
      let s := State.postEvents s r
      if ok then s else s.setFe { s.hub.fe with events := (n, value, epc, coord) :: s.hub.fe.events }

/-- Post them all. -/
def State.flushEvents (s : State) : State :=
  if s.hub.fe.fbact then s else (s.setFe { s.hub.fe with events := [] }).postEvents s.hub.fe.events

/-- The resident handler parks a context on a page fault (Table 15.8). -/
def State.handlerPark (s : State) (n : Nat) (coord : BitVec 24) (value epc : Word) : State :=
  match s.ctxOf n with
  | none => s
  | some c =>
    if c.ended.isSome || c.parked.isSome then s
    else
      let s := s.updCtx n fun c => { c with parked := some (value, epc, coord) }
      (s.setFe { s.hub.fe with events := s.hub.fe.events ++ [(n, value, epc, coord)] }).flushEvents

/-- A parked context rejoins the rotation; its hang watchdog starts afresh (R318, R328; log 46). -/
def State.unpark (s : State) (n : Nat) : State := s.updCtx n fun c => { c with parked := none, watched := s.cycle }

/-- Every stopping queue is looked at again. -/
def State.settleStops (s : State) : State := s.hub.fe.queues.foldl (fun s x => s.settleStop x.q) s

/-- BUCK_REBOOT_DONE (R327): FBACT clears, and what has waited for the buck core is served. -/
def execBuckRebootDone (s : State) : Out := .next (s.setFe { s.hub.fe with fbact := false }).serveKept.flushEvents.settleStops

/-- KILL (R317, Table 15.5). -/
def execKill (q : BitVec 10) (s : State) : Out :=
  startPacket q (some 0x11) s fun s _ k =>
    match s.ctxNamed k with
    | none => .next (s.finishWith q k.idx 0x40 0)
    | some c => .next ((s.killCtx c.id 0x46 0 0 0).finishWith q k.idx 0 0)

/-- PFR (Table 15.5): the parked context rejoins the rotation, or is killed with the fault it was parked on. -/
def execPfr (q : BitVec 10) (s : State) : Out :=
  startPacket q (some 0x12) s fun s _ k =>
    match s.ctxNamed k with
    | none => .next (s.finishWith q k.idx 0x40 0)
    | some c =>
      match c.parked with
      | none => .next (s.finishWith q k.idx 0x40 0)
      | some (value, epc, coord) =>
        let s := if k.field 3 0 1 = 1 then s.killCtx c.id Cause.pageFault value epc coord
          else s.unpark c.id
        .next (s.finishWith q k.idx 0 0)

/-! ### Tasks (R202, R322, R323) -/

/-- Start a task from a record at a pointer: its words are the code pointer, the frame pointer, the join-counter address and
the parameter (R202). -/
def State.startTask (s : State) (ptr : Word) (w : List Word) : State :=
  let s := (((s.setG 1 (w.getD 1 0)).setG 2 (w.getD 3 0)).setG 3 (w.getD 2 0)).setG 4 ptr
  let f := s.tile.front
  let s := s.setFront { f with
    apc := w.getD 0 0, latch := none, ahead := [], skip := false, ast := .run
    loop := { lcnt := 0, llen := 0, lact := false, lbeg := 0 }, rpt := { f.rpt with ract := false, riter := 0, rpos := 0 } }
  let s := (s.setStatusBit 2 false).setWait .idle
  s.updCtx s.tile.res.ctx fun c =>
    { c with idle := c.idle.erase s.own, heldRecs := c.heldRecs.erase s.own, asleep := c.asleep.erase s.own }

/-- The dispenser withholds records from a strained strip for 2 ms, and then gives it one each 100 µs (R323; log 47). -/
def Strip.withholds (x : Strip) (now : Word) : Bool :=
  match x.withheld with
  | none => true
  | some t => decide ((now - t).toNat < 2 * msTicks) || decide ((now - x.given).toNat < 240000)

/-- A record for a tile is withheld. -/
def State.withheld (s : State) (c : Ctx) (t : BitVec 24) : Bool := s.strained c t && (s.strip (s.stripNo t)).withholds s.cycle

/-- What the dispenser remembers of a strip when it comes to one of its tiles: since when it withholds, and when it last gave a
record. -/
def State.noteDispenser (s : State) (c : Ctx) (t : BitVec 24) : State :=
  let x := s.strip (s.stripNo t)
  let strained := s.strained c t
  s.setStrip (s.stripNo t) { x with
    withheld := heldSince s.cycle x.withheld strained
    given := if strained && !x.withholds s.cycle then s.cycle else x.given }

/-- TASK_DISPENSE: HEAD advances, and the record goes to an idle tile of the context; the executing tile holds it until the
context is resident. -/
def execTaskDispense (ctx : Nat) (t : BitVec 24) (s : State) : Out :=
  match s.ctxOf ctx with
  | none => .next s
  | some c =>
    match c.queues.find? fun x => x.1 == t with
    | none => .next s
    | some (_, desc) =>
      let s := s.dieRead desc 64
      let q := readTaskQueue s.mem desc
      if c.ended.isSome || c.det || c.parked.isSome || !c.idle.contains t || c.heldRecs.contains t || q.head == q.tail
          || s.badAt (desc + 16) then .next s
      else if s.withheld c t then .next (s.noteDispenser c t)
      else match s.taskSlot q q.head with
        | none => .next s
        | some a =>
          let s := ((s.noteDispenser c t).dieRead a 32).watch ctx
          let ptr := ptrAdd q.base (BitVec.ofNat 64 (32 * (q.head.toNat % 2 ^ q.logn)))
          let words := s.mem.readWords a 4
          let s := s.otherWrite (desc + 16) 4 (q.head + 1).toNat 7 0
          if t = s.own then
            let s := s.setRes { s.tile.res with held := s.tile.res.held ++ [(ctx, ptr, words)] }
            .next (s.updCtx ctx fun c => { c with heldRecs := addOnce c.heldRecs t })
          else .next (s.updCtx ctx fun c => { c with idle := c.idle.erase t, asleep := c.asleep.erase t })

end Sys2Proof.Machine
end

