-- ==== Sys2Proof/Machine/Packets.lean ====
section
/-!
DEFINITION. The packets COPY, SIGNAL, WAIT, CHECKPOINT and SHOOT, and the completion of packets (R290, R300, R301, R310, R311,
R320, R321, Tables 13.9, 15.5, 15.9).
-/

namespace Sys2Proof.Machine

/-! ### Write-blocked pages (R289) -/

/-- The write-blocked translation that a store of a range meets first. -/
def State.blockerOf (s : State) (x : Space) (p : Word) (n : Nat) : Option TEntry :=
  (pagePieces p.toNat (n / 4096 + 2) 0 n).findSome? fun y =>
    let p := hubAdd p y.1
    if hostPtr p || !ptrVirtual p then none
    else (s.walkTables x.ctxid x.root (ptrVa p)).filter fun t => t.leaf.getLsbD 5

/-- A store through a write-blocked page stalls its packet until a shootdown that covers the page has completed. -/
def State.stallPkt (s : State) (q : BitVec 10) (k : Pkt) (p : Word) (n : Nat) : State :=
  let b := s.blockerOf (s.queue q).space p n
  s.updPkt q k.idx fun k => { k with blocked := b }

/-! ### The memory of a context (R300, R301, Table 13.9) -/

/-- Device pages that a table maps: the package ID and DPA of each as one number, and its length. -/
def State.mappedPages (s : State) : Nat → Nat → List (Nat × Nat)
  | 0, _ => []
  | level + 1, table =>
    (List.range (if level = 4 then 128 else 512)).flatMap fun i =>
      let e := s.mem.readWord (table + 8 * i)
      if !e.getLsbD 0 then []
      else if e.getLsbD 1 then
        match leafSize (level + 1) (e.toNat / 2 ^ 7 % 4) with
        | some size =>
          if !leafOk e size || e.getLsbD 6 then []
          else [((e.extractLsb' 50 12).toNat * 2 ^ 38 + e.toNat % 2 ^ 38 / 2 ^ 12 * 2 ^ 12, pageBytes size)]
        | none => []
      else if level = 0 || !tableOk e then []
      else match dpaAddr s.hub.boot.pkgId (e.toNat % 2 ^ 38 / 2 ^ 12 * 2 ^ 12) with
        | some next => s.mappedPages level next
        | none => []

/-- Home addresses and lengths of a frame, a vault at a time. -/
def framePieces (x : Nat × Nat) : List (Nat × Nat) :=
  (List.range ((x.2 + 2 ^ 26 - 1) / 2 ^ 26)).filterMap fun j =>
    (dpaAddr (BitVec.ofNat 12 (x.1 / 2 ^ 38)) (x.1 % 2 ^ 38 + j * 2 ^ 26)).map fun a => (a, min x.2 (2 ^ 26))

/-- Insert a tile in the order of die, Y and X, or a page in the order of its address. -/
def insertBy {α : Type} (key : α → Nat) (x : α) : List α → List α
  | [] => [x]
  | y :: l => if key x ≤ key y then x :: y :: l else y :: insertBy key x l

/-- Sort by a key. -/
def sortBy {α : Type} (key : α → Nat) (l : List α) : List α := l.foldl (fun s x => insertBy key x s) []

/-- The device frames that a context maps and that do not lie whole in its own tiles' vaults, each once, in ascending order of
package and DPA (log 44). -/
def State.ctxFrames (s : State) (c : Ctx) : List (Nat × Nat) :=
  match dpaAddr s.hub.boot.pkgId c.root.toNat with
  | none => []
  | some table =>
    let all := ((s.mappedPages 5 table).filter fun x =>
      (framePieces x).any fun y => !c.tiles.contains (addrCoord y.1)).eraseDups
    sortBy Prod.fst (all.filter fun x => !all.any fun y => y != x && decide (y.1 ≤ x.1) && decide (x.1 + x.2 ≤ y.1 + y.2))

/-- The SPMs, vaults and mapped frames of a context hold an address. -/
def State.holdsByte (s : State) (c : Ctx) (a : Nat) : Bool :=
  decide (a < hostBase) && (c.tiles.contains (addrCoord a)
    || (s.ctxFrames c).any fun x => (framePieces x).any fun y => decide (y.1 ≤ a) && decide (a < y.1 + y.2))

/-! ### COPY -/

/-- A CHECKPOINT is in progress of a context whose memory holds one of some bytes (R300). -/
def State.checkpointing (s : State) (bytes : List Nat) : Bool :=
  s.hub.fe.queues.any fun x => x.started.any fun k =>
    k.type == 6 && k.open_ && (s.ctxNamed k).any fun c => bytes.any (s.holdsByte c)

/-- Copy bytes between homes, in order. Where the ranges overlap, a byte is copied as it stood before the packet or as the
packet has written it (R187, log 6). -/
def State.copyHomes (s : State) (old : Memory) : List (Nat × Nat) → Nat → State × Option Nat
  | [], _ => (s, none)
  | (src, dst) :: r, i =>
    match s.hubByte src with
    | (s, none) => (s, some i)
    | (s, some now) =>
      let b := if Config.overlapChoice s.free i then old.read src else now
      (s.otherWrite dst 1 b.toNat 7 0).copyHomes old r (i + 1)

/-- The bytes of a COPY: none while a page is write-blocked or a checkpoint holds the packet; else STATUS and VALUE. -/
def State.runCopy (s : State) (x : Space) (k : Pkt) : State × Option (BitVec 8 × Word) :=
  let dst := k.word 1
  let src := k.word 2
  let n := k.field 3 0 40
  match s.hubRange x .load src n, s.hubRange x .store dst n with
    | .error e, _ => let (c, v) := e.getD (Cause.accessFault, src); (s, some (c, v))
    | .ok _, .error none => (s, none)
    | .ok _, .error (some (c, v)) => (s, some (c, v))
    | .ok srcs, .ok dsts =>
      let w := wholeBytes dsts (List.replicate n 0)
      if s.checkpointing dsts then (s, none)
      else if (s.stagedBad w).isSome then (s, some (Cause.accessFault, dst))
      else match s.copyHomes s.mem (srcs.zip dsts) 0 with
        | (s, none) => (s.clearStaged w, some (0, 0))
        | (s, some i) => (s.clearStaged (w.take (i / 8 * 8)), some (Cause.softError, hubAdd src i))

/-- Run a COPY that has started, unless a write-blocked page stalls it. -/
def State.tryCopy (s : State) (q : BitVec 10) (k : Pkt) : State :=
  if k.blocked.isSome then s
  else match s.runCopy (s.queue q).space k with
    | (s, some (c, v)) => s.finishWith q k.idx c v
    | (s, none) => s.stallPkt q k (k.word 1) (k.field 3 0 40)

/-- COPY. -/
def execCopy (q : BitVec 10) (s : State) : Out := startPacket q (some 3) s fun s _ k => .next (s.tryCopy q k)

/-! ### SIGNAL -/

/-- SIGNAL: an ADDR that is not 8-byte aligned ends it at once. -/
def execSignal (q : BitVec 10) (s : State) : Out :=
  startPacket q (some 4) s fun s _ k =>
    if (k.word 1).toNat % 8 ≠ 0 then .next (s.finishWith q k.idx Cause.misaligned (k.word 1)) else .next s

/-- SIGNAL_PERFORM: the SIGNAL stores or adds once every earlier packet of its queue has completed. -/
def execSignalPerform (q : BitVec 10) (s : State) : Out :=
  let x := s.queue q
  match x.started with
  | [] => .next s
  | k :: _ =>
    if k.type ≠ 4 ∨ ¬k.open_ ∨ k.blocked.isSome then .next s
    else match s.hubAt x.space .atomic (k.word 1) 8 8 with
      | .mem a _ =>
        if k.field 3 0 1 = 0 then .next ((s.otherWrite a 8 (k.word 2).toNat 7 0).finishWith q k.idx 0 0)
        else match s.hubGather ((List.range 8).map fun i => a + i) with
          | (s, none) => .next (s.finishWith q k.idx Cause.softError (k.word 1))
          | (s, some old) =>
            .next ((s.otherWrite a 8 ((bytesNat old + (k.word 2).toNat) % 2 ^ 64) 7 0).finishWith q k.idx 0 0)
      | .trap c v => .next (s.finishWith q k.idx c v)
      | .blocked => .next (s.stallPkt q k (k.word 1) 8)
      | _ => .next (s.finishWith q k.idx Cause.accessFault (k.word 1))

/-! ### WAIT -/

/-- WAIT: an ADDR that is not 8-byte aligned ends it at once. -/
def execWait (q : BitVec 10) (s : State) : Out :=
  startPacket q (some 5) s fun s _ k =>
    if (k.word 1).toNat % 8 ≠ 0 then .next (s.finishWith q k.idx Cause.misaligned (k.word 1)) else .next s

/-- The WAIT of a queue that waits. -/
def Queue.waiting (x : Queue) : Option Pkt := x.started.find? fun k => k.type == 5 && k.open_

/-- COND of a WAIT. -/
def waitHolds (cond : Nat) (a b : Nat) : Bool :=
  match cond with
  | 0 => a == b
  | 1 => a != b
  | 2 => decide (b ≤ a)
  | _ => decide (a < b)

/-- The condition of a WAIT holds now, at a device home. -/
def State.waitMet (s : State) (x : Space) (k : Pkt) : Bool :=
  !hostPtr (k.word 1) && (match s.hubAt x .load (k.word 1) 8 8 with
    | .mem a _ => decide (a < hostBase) && (s.firstBad a 8).isNone && waitHolds (k.field 3 0 2) (s.mem.readNat a 8) (k.word 2).toNat
    | _ => false)

/-- It has held with one of the values that posted stores have given its line since it was last evaluated. -/
def State.waitPassed (s : State) (x : Space) (k : Pkt) : Bool :=
  !hostPtr (k.word 1) && (match s.hubAt x .load (k.word 1) 8 8 with
    | .mem a _ => decide (a < hostBase) && s.hub.fe.past.any fun y =>
      y.1 == lineOf a && waitHolds (k.field 3 0 2) (y.2.toNat / 2 ^ (8 * (a - lineOf a)) % 2 ^ 64) (k.word 2).toNat
    | _ => false)

/-- The read of a WAIT at a device home: its walk and its line, at package scope (R227, R288, R320). -/
def State.waitRead (s : State) (x : Space) (k : Pkt) : State :=
  let p := k.word 1
  if hostPtr p then s
  else match s.hubAt x .load p 8 8 with
    | .mem a _ =>
      let s := if ptrVirtual p then s.hubWalk x.root (ptrVa p) else s
      if a < hostBase then (s.correctRead a 8).homeReadAt (hubScope s.hub.boot.pkgId) a else s
    | _ => s

/-- Every WAIT evaluates its condition anew after each store to its line (R320): one that has held is met for good. -/
def State.settleWaits (s : State) : State :=
  if s.hub.fe.queues.all fun x => x.waiting.isNone then (if s.hub.fe.past.isEmpty then s else s.setFe { s.hub.fe with past := [] })
  else
    let s := s.hub.fe.queues.foldl (fun s x => match x.waiting with
      | some k => s.waitRead x.space k
      | none => s) s
    s.setFe { s.hub.fe with past := [], queues := s.hub.fe.queues.map fun (x : Queue) => { x with
      started := x.started.map fun (k : Pkt) =>
        if k.type == 5 && k.open_ && (s.waitMet x.space k || s.waitPassed x.space k) then { k with met := true } else k } }

/-- WAIT_SATISFIED: the WAIT completes when its condition holds or has held, and fails when its dword cannot be read. -/
def execWaitSatisfied (q : BitVec 10) (s : State) : Out :=
  let x := s.queue q
  match x.waiting with
  | none => .next s
  | some k =>
    if k.met then .next (s.finishWith q k.idx 0 0)
    else match s.hubRead x.space (k.word 1) 8 with
    | (s, .error (c, v)) => .next (s.finishWith q k.idx c v)
    | (s, .ok l) =>
      if waitHolds (k.field 3 0 2) (bytesNat l) (k.word 2).toNat then .next (s.finishWith q k.idx 0 0) else .next s

/-- WAIT_TIMEOUT: TMO µs of 2,400 CYCLE ticks have passed since the WAIT started. -/
def execWaitTimeout (q : BitVec 10) (s : State) : Out :=
  match (s.queue q).waiting with
  | none => .next s
  | some k =>
    let tmo := k.field 4 0 32
    if tmo = 0 ∨ (s.cycle - k.since).toNat < tmo * 2400 then .next s else .next (s.finishWith q k.idx 0x4A 0)

/-! ### SHOOT (R290, Table 15.5) -/

/-- SHOOT: the shootdown begins; one at a time. -/
def execShoot (q : BitVec 10) (s : State) : Out :=
  if s.hub.fe.shoot.isSome then .next s
  else startPacket q (some 0x10) s fun s _ k =>
    let x : Shootdown :=
      { ctxid := (k.word 1).setWidth 12, all := (k.word 1).getLsbD 12, base := k.word 2, count := (k.word 3).setWidth 32
        acks := 0, queue := q, idx := k.idx }
    .next (s.setFe { s.hub.fe with shoot := some x })

/-- A page of a context overlaps the range of a shootdown. -/
def Shootdown.covers (x : Shootdown) (t : TEntry) : Bool :=
  t.ctxid == x.ctxid && (x.all || meets t.base.toNat (pageBytes t.size) x.base.toNat (4096 * x.count.toNat))

/-- A virtual pointer lies in the range. -/
def Shootdown.names (x : Shootdown) (ctxid : BitVec 12) (p : Word) : Bool :=
  ctxid == x.ctxid && (x.all || meets (ptrVa p) 1 x.base.toNat (4096 * x.count.toNat))

/-- The translations that a queued command holds. -/
def Cmd.translations (c : Cmd) : List TEntry :=
  match c with
  | .ldq _ _ _ _ h => h
  | .stq _ _ _ _ h => h
  | .copy _ _ _ _ h => h
  | .movx .. => []

/-- The next store of a command meets a write-blocked page (R289). -/
def State.cmdStalled (s : State) (c : Cmd) : Bool :=
  match c with
  | .stq _ next _ _ held => s.reach held .store next 1 == .blocked
  | .copy dst _ ctrl i held =>
    !ctrlStrm ctrl && decide (i < ctrlLen ctrl) && s.reach held .store (ptrAdd dst (BitVec.ofNat 64 i)) 1 == .blocked
  | _ => false

/-- Two commands move in order: those of one out port, and the copies of one channel. -/
def Cmd.inLine (a b : Cmd) : Bool :=
  match a, b with
  | .stq p .., .stq q .. => p == q
  | .copy .., .copy .. => a.channel == b.channel
  | _, _ => false

/-- The command at an index is stalled at a write-blocked page, or stands behind one that is. -/
def State.heldUp (s : State) (idx : Nat) (c : Cmd) : Bool :=
  (s.tile.eng.fifo0.take (idx + 1)).any fun d => d.inLine c && s.cmdStalled d

/-- A queued command uses a removed translation. One stalled at a write-blocked page, or behind such a one, is not waited for. -/
def State.cmdsBusy (s : State) (x : Shootdown) : Bool :=
  s.tile.eng.fifo0.zipIdx.any fun c => c.1.translations.any x.covers && !s.heldUp c.2 c.1

/-- A tile instruction of the address space runs on this tile. One that waits for its collective makes no access, and one stalled at
a write-blocked page is not waited for; a part that another tile runs makes all its accesses in one step. -/
def State.insnBusy (s : State) (x : Shootdown) : Bool :=
  match s.tile.seq.running with
  | some (.child n _) => ((s.ctxOf n).map Ctx.ctxid) == some x.ctxid
  | some .collective => false
  | some _ => s.tile.res.ctxid == x.ctxid
  | none => false

/-- An open transaction has used a removed translation: its held stores go to the frame that it found (R180, R290). -/
def State.txBusy (s : State) (x : Shootdown) : Bool :=
  match s.tile.path.tx with
  | some t => t.used.any x.covers
  | none => false

/-- An access of this tile that uses a removed translation has not completed (step 3 of R290). -/
def State.shootBusy (s : State) (x : Shootdown) : Bool := s.cmdsBusy x || s.insnBusy x || s.txBusy x || s.tile.wait == .remote

/-- A command translates again what a shootdown covers. -/
def Cmd.forget (x : Shootdown) (c : Cmd) : Cmd :=
  let keep (h : List TEntry) : List TEntry := h.filter fun t => !x.covers t
  match c with
  | .ldq p n st l h => .ldq p n st l (keep h)
  | .stq p n st l h => .stq p n st l (keep h)
  | .copy d sr ct i h => .copy d sr ct i (keep h)
  | .movx p v => .movx p v

/-- Steps 1 to 4 of R290 on this tile: the L1 writes back and drops all its lines, those of the targets among them (log 1). -/
def State.shootTile (s : State) (x : Shootdown) : State :=
  let s := s.flushPosted fun p => ptrVirtual p.ptr && s.tile.res.ctxid == x.ctxid
  let keep (p : Option Word) : Option Word :=
    match p with
    | some p => if x.names s.tile.res.ctxid p then none else some p
    | none => none
  let s := s.setPath { s.tile.path with
    tcache := s.tile.path.tcache.filter fun t => !x.covers t
    pinned := s.tile.path.pinned.filter fun t => !x.covers t
    walk := keep s.tile.path.walk, walkFail := keep s.tile.path.walkFail }
  let s := s.setEng { s.tile.eng with fifo0 := s.tile.eng.fifo0.map (Cmd.forget x) }
  s.tile.path.l1.foldl (fun s l => s.evictLine l.addr) s

/-- What stalls no longer at a page that a shootdown covers. -/
def Shootdown.freed (x : Shootdown) (b : Option TEntry) : Option TEntry := if b.any x.covers then none else b

/-- Packets, parts of TILE packets and results of collectives that a write-blocked page has stalled translate again once a shootdown
that covers it has completed (R289). -/
def State.freeStalls (s : State) (x : Shootdown) : State :=
  let s := s.setHub { s.hub with sweut := s.hub.sweut.map fun (a : Attachment) => { a with
    coll := a.coll.map fun (c : Collective) => { c with blocked := x.freed c.blocked } } }
  s.setFe { s.hub.fe with
    ctxs := s.hub.fe.ctxs.map fun (c : Ctx) => { c with run := c.run.map fun (r : TileRun) => { r with
      units := r.units.map fun (u : ChildUnit) => { u with blocked := x.freed u.blocked } } }
    queues := s.hub.fe.queues.map fun (y : Queue) => { y with
      started := y.started.map fun (k : Pkt) => { k with blocked := x.freed k.blocked } } }

/-- SHOOTDOWN_DIE_ACK: a die acknowledges when the accesses of its tiles have completed; with all four dies the shootdown
completes. It is sequenced by the buck core, and waits while the fallback scheduler runs (R327). -/
def execShootdownDieAck (die : BitVec 2) (s : State) : Out :=
  match s.hub.fe.shoot with
  | none => .next s
  | some x =>
    let here := s.tile.csr.pcoord.extractLsb' 10 2 == die
    if s.hub.fe.fbact || (here && s.shootBusy x) then .next s
    else
      let s := if here then s.shootTile x else s
      let x := { x with acks := setBit x.acks die.toNat true }
      if x.acks = 0xF then .next (((s.setFe { s.hub.fe with shoot := none }).freeStalls x).finishWith x.queue x.idx 0 0)
      else .next (s.setFe { s.hub.fe with shoot := some x })

/-! ### CHECKPOINT (R300, R301) -/

/-- One bit step of CRC-32C, least significant bit first. -/
def crcStep : Nat → BitVec 32 → BitVec 32
  | 0, c => c
  | n + 1, c => crcStep n (if c.getLsbD 0 then (c >>> 1) ^^^ 0x82F63B78 else c >>> 1)

/-- CRC-32C of bytes (log 23). -/
def crc32c (l : List Byte) : BitVec 32 :=
  ~~~(l.foldl (fun c b => crcStep 8 (c ^^^ b.setWidth 32)) (BitVec.allOnes 32))

/-- A segment to be streamed: its kind, what it names, and the pieces of memory that it holds. -/
structure Segment where
  kind   : Nat
  names  : Nat
  pieces : List (Nat × Nat)
  deriving DecidableEq, Repr

/-- One segment: its header (Table 13.9) and its bytes. -/
def Segment.bytes (g : Segment) (m : Memory) (ctxid : BitVec 12) (step : Nat) : List Byte :=
  let bytes := g.pieces.flatMap fun p => m.readBytes p.1 p.2
  let where_ : Nat := if g.kind = 3 then g.names / 2 ^ 38 * 2 ^ 50 + g.names % 2 ^ 38 else g.names
  bytesOf [BitVec.ofNat 64 (g.kind + 2 ^ 8 + ctxid.toNat * 2 ^ 16), BitVec.ofNat 64 where_, BitVec.ofNat 64 (g.pieces.map Prod.snd).sum,
           BitVec.ofNat 64 ((crc32c bytes).toNat + step % 2 ^ 32 * 2 ^ 32)] ++ bytes

/-- What is streamed (R301). -/
def State.checkpointParts (s : State) (c : Ctx) : List Segment :=
  ((sortBy BitVec.toNat c.tiles).flatMap fun t =>
      [{ kind := 1, names := coordBase t, pieces := [(coordBase t, 0x78000)] },
       { kind := 2, names := coordBase t + 2 ^ 26, pieces := [(coordBase t + 2 ^ 26, 2 ^ 26)] }])
    ++ (s.ctxFrames c).map fun x => { kind := 3, names := x.1, pieces := framePieces x }

/-- The stream reads its bytes at their homes, at package scope (R227, R296). -/
def State.streamReads (s : State) (pieces : List (Nat × Nat)) : State :=
  let s := pieces.foldl (fun s p => s.correctRead p.1 p.2) s
  (s.hub.tags.filter fun t => pieces.any fun p => Machine.meets t.line 64 p.1 p.2).foldl
    (fun s t => s.homeReadAt (hubScope s.hub.boot.pkgId) t.line) s

/-- STEP of a deterministic context at the cut. -/
def State.stepOf (s : State) (c : Ctx) : Nat :=
  if !c.det then 0
  else if s.holds c.id then s.tile.ctx.step.toNat
  else match c.tiles with
    | t :: _ => (s.mem.readWord (cxbAddr (c.buffer t) + 0x40)).toNat
    | [] => 0

/-- The context stands still: every tile of a dynamic one has saved it, every tile of a deterministic one has taken the PREEMPT of
its cut (R246). -/
def State.quiesced (s : State) (c : Ctx) : Bool :=
  !c.saving && (if c.det then c.tiles.all c.stopped.contains && (!s.holds c.id || (s.sup && s.seqIdle && s.enginesIdle))
    else c.tiles.all fun t => if t = s.own then !s.holds c.id else c.stopped.contains t)

/-- The checkpoint of a context has ended: a cut is over, and the context rejoins the rotation where the packet says so (R300). -/
def State.endCheckpoint (s : State) (c : Ctx) (resume : Bool) : State :=
  let s := s.updCtx c.id fun c => { c with cut := none, stopped := [] }
  if resume then s.unpark c.id else s

/-- Stream the image of a quiesced context: STATUS and VALUE, or none while it must wait. -/
def State.runCheckpoint (s : State) (x : Space) (k : Pkt) (c : Ctx) : State × Option (BitVec 8 × Word) :=
  let s := if c.tiles.contains s.own then s.flushHome else s
  let parts := s.checkpointParts c
  let pieces := parts.flatMap Segment.pieces
  let s := s.streamReads pieces
  match pieces.findSome? fun p => s.firstBad p.1 p.2 with
  | some a => (s, some (Cause.softError, meshPtr a))
  | none =>
    match s.hubWrite x (k.word 3) (parts.flatMap fun p => p.bytes s.mem c.ctxid (s.stepOf c)) with
    | (s, .stalled) => (s, none)
    | (s, .failed cause v) => (s, some (cause, v))
    | (s, .done) => (s.endCheckpoint c (k.field 4 0 1 == 1), some (0, 0))

/-- CHECKPOINT: the context leaves the rotation, and a dynamic one is pre-empted; a deterministic one is stopped by a cut
(R246). -/
def execCheckpoint (q : BitVec 10) (s : State) : Out :=
  startPacket q (some 6) s fun s _ k =>
    match s.ctxNamed k with
    | none => .next (s.finishWith q k.idx 0x40 0)
    | some c =>
      let s := s.updCtx c.id fun c => { c with parked := some (c.parked.getD (0, 0, 0)) }
      if c.det || !s.holds c.id then .next s
      else
        let s := s.setCsr { s.tile.csr with escr := ((s.nextCtx.map Ctx.wp).getD c.wp) }
        .next (s.setPend { s.tile.pend with preempt := firstOf s.tile.pend.preempt 0 })

/-- Run a CHECKPOINT that has started; it waits while the fallback scheduler runs (R327). -/
def State.tryCheckpoint (s : State) (q : BitVec 10) (k : Pkt) : State :=
  if s.hub.fe.fbact || k.blocked.isSome then s
  else match s.ctxNamed k with
    | none => s.finishWith q k.idx 0x40 0
    | some c =>
      if !s.quiesced c then s
      else match s.runCheckpoint (s.queue q).space k c with
        | (s, some (cause, v)) => s.finishWith q k.idx cause v
        | (s, none) => s.stallPkt q k (k.word 3) ((s.checkpointParts c).map fun p => 32 + (p.pieces.map Prod.snd).sum).sum

/-! ### Timeouts (R88, R383) -/

/-- The bytes of a COPY before the first that lies in another package are copied; that one is not answered, or not acknowledged
(R188, R383). -/
def State.timeoutCopy (s : State) (q : BitVec 10) (k : Pkt) : State :=
  let x := (s.queue q).space
  let away (a : Nat) : Bool := decide (a < hostBase) && coordPkg (addrCoord a) != s.hub.boot.pkgId
  match s.hubRange x .load (k.word 2) (k.field 3 0 40), s.hubRange x .store (k.word 1) (k.field 3 0 40) with
  | .ok srcs, .ok dsts =>
    match (srcs.zip dsts).findIdx? fun y => away y.1 || away y.2 with
    | none => s
    | some i =>
      let p := if (srcs[i]?).any away then k.word 2 else k.word 1
      let (s, r) := s.copyHomes s.mem ((srcs.zip dsts).take i) 0
      match r with
      | some j => s.finishWith q k.idx Cause.softError (hubAdd (k.word 2) j)
      | none => s.finishWith q k.idx Cause.accessFault (hubAdd p i)
  | _, _ => s

/-- REMOTE_TIMEOUT: what was not answered within RTMO.MS fails. -/
def execRemoteTimeout (what : RemoteKind) (s : State) : Out :=
  match what with
  | .access => execRemoteAnswer false s
  | .posted idx => .next (s.dropPosted idx)
  | .ldqRow port => .next (s.failLdqRow port)
  | .stqRow port => .next (s.stqRow port false)
  | .copy idx => .next (s.failCopy idx)
  | .message idx => .next (s.dropMessage idx)
  | .line a => .next (s.dropDirty a)
  | .packet q idx =>
    match (s.queue q).pkt idx with
    | some k => if k.type = 3 ∧ k.open_ then .next (s.timeoutCopy q k) else .next s
    | none => .next s

/-! ### Completion (R311) -/

/-- PACKET_COMPLETE: the operation of the packet ends, if it can, and the packet completes. Records are written by the packet
kid cores. -/
def execPacketComplete (q : BitVec 10) (idx : BitVec 32) (s : State) : Out :=
  if s.packetsDown then .next s
  else match (s.queue q).pkt idx with
    | none => .next s
    | some k =>
      let s := if !k.open_ then s
        else if k.type = 3 then s.tryCopy q k
        else if k.type = 6 then s.tryCheckpoint q k
        else s
      .next (s.completePkt q idx)

end Sys2Proof.Machine
end

