-- ==== Sys2Proof/Machine/Regions.lean ====
section
/-!
DEFINITION. Region control blocks, and LAUNCH: its checks, its admission, and the creation of contexts (R40, R266 to R268, R312
to R315, Tables 11.6, 15.7).
-/

namespace Sys2Proof.Machine

/-! ### Region control blocks (R266, R267, Table 11.6) -/

/-- Logical tile (0, 0) of die 0 of this package. -/
def State.firstTile (s : State) : BitVec 24 := s.hub.boot.pkgId.setWidth 24 <<< 12

/-- What a pointer of a packet names, FMT and BLG apart. -/
def State.ptrKey (s : State) (p : Word) : Option Nat :=
  if hostPtr p then some (hostBase + p.toNat % 2 ^ 59)
  else if ptrVirtual p then some (p.toNat % 2 ^ 56)
  else if ptrRel p then (resolveCoord s.firstTile (ptrCoord p)).map fun c => coordBase c + p.toNat % 2 ^ 30
  else some (p.toNat % 2 ^ 54)

/-- The bits of an element's dwords that hold a field. -/
def rcbMasks : List Word :=
  [BitVec.allOnes 64, 0x0000000FFFFF0F07, 0xFFFFFFFFF1FFFFFF, 0x00000000FFFF011F, 0x1FF, 0, 0, 0, 0, 0, 0, 0, 0, 0, 0, 0]

/-- The element's own fields, with its parent's place. -/
def rcbRaw (parent : Nat) (w : List Word) : Rcb :=
  let f (i pos width : Nat) : Nat := (w.getD i 0).toNat / 2 ^ pos % 2 ^ width
  { level := BitVec.ofNat 3 (f 1 0 3), die0 := BitVec.ofNat 2 (f 1 8 2), die1 := BitVec.ofNat 2 (f 1 10 2)
    x0 := BitVec.ofNat 5 (f 1 16 5), y0 := BitVec.ofNat 5 (f 1 21 5), x1 := BitVec.ofNat 5 (f 1 26 5), y1 := BitVec.ofNat 5 (f 1 31 5)
    parent := parent, pbudget := BitVec.ofNat 16 (f 2 0 16), fmin := BitVec.ofNat 4 (f 2 16 4), fmax := BitVec.ofNat 4 (f 2 20 4)
    boost := f 2 24 1 == 1, prio := BitVec.ofNat 4 (f 2 28 4), fdom := BitVec.ofNat 32 (f 2 32 32)
    policy := BitVec.ofNat 2 (f 3 0 2), retry := BitVec.ofNat 3 (f 3 2 3), strict := f 3 8 1 == 1
    stagger := BitVec.ofNat 16 (f 3 16 16) }

/-- INH of an element. -/
def rcbInherits (w : List Word) (bit : Nat) : Bool := (w.getD 4 0).getLsbD bit

/-- Fields whose INH bit is set take the parent's effective value. -/
def Rcb.inherit (r p : Rcb) (w : List Word) : Rcb :=
  let pick {α : Type} (bit : Nat) (a b : α) : α := if rcbInherits w bit then b else a
  { r with
    pbudget := pick 0 r.pbudget p.pbudget, fmin := pick 1 r.fmin p.fmin, fmax := pick 2 r.fmax p.fmax
    boost := pick 3 r.boost p.boost, prio := pick 4 r.prio p.prio, fdom := pick 5 r.fdom p.fdom
    policy := pick 6 r.policy p.policy, retry := pick 6 r.retry p.retry, stagger := pick 7 r.stagger p.stagger
    strict := pick 8 r.strict p.strict }

/-- An element of its own keeps R267. -/
def Rcb.fieldsOk (r : Rcb) (w : List Word) : Bool :=
  maskedOk w rcbMasks && decide (2 ≤ r.level.toNat) && decide (r.level.toNat ≤ 5)
    && decide (r.die0.toNat ≤ r.die1.toNat) && decide (r.x0.toNat ≤ r.x1.toNat) && decide (r.y0.toNat ≤ r.y1.toNat)
    && decide (r.y1.toNat ≤ 30) && decide (r.fmin.toNat ≤ 9) && decide (r.fmax.toNat ≤ r.fmin.toNat)

/-- An element lies within its parent. -/
def Rcb.within (r p : Rcb) : Bool :=
  decide (r.level.toNat < p.level.toNat) && decide (p.die0.toNat ≤ r.die0.toNat) && decide (r.die1.toNat ≤ p.die1.toNat)
    && decide (p.x0.toNat ≤ r.x0.toNat) && decide (r.x1.toNat ≤ p.x1.toNat) && decide (p.y0.toNat ≤ r.y0.toNat)
    && decide (r.y1.toNat ≤ p.y1.toNat)

/-- Read an array from its element `i`, at most `fuel` elements more: the effective elements, or none for an array that is not
valid or cannot be read. -/
def State.readRcbs (s : State) (x : Space) (p : Word) : Nat → Nat → List Rcb → State × Option (List Rcb)
  | 0, _, _ => (s, none)
  | fuel + 1, i, done =>
    let a := hubAdd p (128 * i)
    match s.hubRead x a 8 with
    | (s, .error _) => (s, none)
    | (s, .ok l) =>
      let parent : Word := BitVec.ofNat 64 (bytesNat l)
      if i ≠ 0 ∧ parent = 0 then (s, some done)
      else if 256 ≤ i then (s, none)
      else match s.hubRead x a 128 with
        | (s, .error _) => (s, none)
        | (s, .ok l) =>
          let w := dwordsOf 16 l
          if i = 0 then
            let r := rcbRaw 0 w
            if r.fieldsOk w && r.level == 5 && parent == 0 && w.getD 4 0 == 0 then s.readRcbs x p fuel 1 [r] else (s, none)
          else
            match (List.range i).find? fun j => s.ptrKey (hubAdd p (128 * j)) == s.ptrKey parent && (s.ptrKey parent).isSome with
            | none => (s, none)
            | some j =>
              let r := rcbRaw j w
              match done[j]? with
              | some q => if r.fieldsOk w && r.within q then s.readRcbs x p fuel (i + 1) (done ++ [r.inherit q w]) else (s, none)
              | none => (s, none)

/-- The array that a packet names (R266): 128-byte aligned. -/
def State.rcbArray (s : State) (x : Space) (p : Word) : State × Option (List Rcb) :=
  if p.toNat % 128 ≠ 0 then (s, none) else s.readRcbs x p 257 0 []

/-- The logical tiles of an element's rectangle, by die, Y and X. -/
def State.rectangle (s : State) (r : Rcb) : List (BitVec 24) :=
  let span (a b : Nat) : List Nat := (List.range (b + 1 - a)).map fun i => a + i
  (span r.die0.toNat r.die1.toNat).flatMap fun d => (span r.y0.toNat r.y1.toNat).flatMap fun y =>
    (span r.x0.toNat r.x1.toNat).map fun x => s.firstTile + BitVec.ofNat 24 (d * 2 ^ 10 + y * 32 + x)

/-! ### LAUNCH (R312, R313, Table 15.7) -/

def Pkt.codeLen (k : Pkt) : Nat := 64 * k.field 2 0 13
def Pkt.codeDst (k : Pkt) : Nat := 64 * k.field 2 13 13
def Pkt.dataLen (k : Pkt) : Nat := 64 * k.field 2 26 13
def Pkt.dataDst (k : Pkt) : Nat := 64 * k.field 2 39 13
/-- SPM offset of the workspace. -/
def Pkt.wsOff (k : Pkt) : Nat := 64 * k.field 5 0 13
/-- SPM offset that STEPT names. -/
def Pkt.stepOff (k : Pkt) : Nat := 16 * k.field 5 13 15
def Pkt.isDet (k : Pkt) : Bool := (k.word 5).getLsbD 28
/-- Tile-local offset of the context buffer. -/
def Pkt.cxOff (k : Pkt) : Nat := 2 ^ 26 + 4096 * k.field 5 29 14
def Pkt.hasCx (k : Pkt) : Bool := (k.word 5).getLsbD 43
def Pkt.pmax (k : Pkt) : Nat := k.field 7 0 16
def Pkt.fmin (k : Pkt) : Nat := k.field 7 16 4
def Pkt.boosts (k : Pkt) : Bool := (k.word 7).getLsbD 20

/-- The images and the workspace: offset and length. -/
def Pkt.ranges (k : Pkt) : List (Nat × Nat) :=
  [(k.codeDst, k.codeLen), (k.dataDst, k.dataLen), (k.wsOff, wsBytes)].filter fun r => r.2 != 0

/-- The context buffer. -/
def Pkt.buffer (k : Pkt) : List (Nat × Nat) := if k.hasCx then [(k.cxOff, 0x20000)] else []

/-- No two ranges of a list overlap. -/
def apart : List (Nat × Nat) → Bool
  | [] => true
  | r :: l => l.all (fun x => !Machine.meets r.1 r.2 x.1 x.2) && apart l

/-- Check 1 of R313, but for its per-tile part. -/
def Pkt.placesOk (k : Pkt) : Bool :=
  decide (64 ≤ k.codeLen) && decide (k.codeLen ≤ 64 * 7680) && decide (k.dataLen ≤ 64 * 7680)
    && k.ranges.all (fun r => decide (r.1 + r.2 ≤ 0x77000)) && apart k.ranges
    && decide (k.dataDst ≤ k.stepOff) && decide (k.stepOff + (if k.isDet then 16 else 8) ≤ k.dataDst + k.dataLen)
    && k.buffer.all fun r => decide (r.1 + r.2 ≤ 2 ^ 27)

/-- The per-tile part of check 1. -/
def State.tilesFree (s : State) (k : Pkt) (tiles : List (BitVec 24)) : Bool :=
  tiles.all fun t => (s.assigned t).all fun c => c.ranges.all fun r => (k.ranges ++ k.buffer).all fun x => !Machine.meets r.1 r.2 x.1 x.2

/-- The STATUS with which R313 stops a LAUNCH; 0 for one that goes on. -/
def State.launchStatus (s : State) (x : Queue) (k : Pkt) (rcbs : Option (List Rcb)) : BitVec 8 :=
  let root := (rcbs.getD []).head?
  let free := match root with
    | some r => s.tilesFree k (s.rectangle r)
    | none => true
  let bad : Bool := match root with
    | none => true
    | some r => decide (k.pmax < r.pbudget.toNat) || decide (r.fmax.toNat < x.gftop) || decide (r.fmin.toNat < k.fmin) || (r.boost && !k.boosts)
  if !k.placesOk || !free then 0x40
  else if decide (9 < k.fmin) || decide (x.gpmax < k.pmax) || decide (k.fmin < x.gftop) || (k.boosts && !x.gboost) then 0x42
  else if bad then 0x43
  else 0

/-- LAUNCH: the checks of R313; a packet that passes them waits for admission. -/
def execLaunch (q : BitVec 10) (s : State) : Out :=
  startPacket q (some 1) s fun s x k =>
    let (s, rcbs) := s.rcbArray x.space (k.word 6)
    let status := s.launchStatus x k rcbs
    if status ≠ 0 then .next (s.finishWith q k.idx status 0)
    else
      let s := s.updPkt q k.idx fun k => { k with phase := .waiting }
      .next (s.setFe { s.hub.fe with launches := s.hub.fe.launches ++ [(q, k.idx, rcbs.getD [])] })

/-! ### Admission (R313) -/

/-- The waiting LAUNCH that stands first: highest PRIO, then start. -/
def State.firstLaunch (s : State) : Option (BitVec 10 × BitVec 32 × List Rcb) :=
  s.hub.fe.launches.foldl (fun best l =>
    match best with
    | none => some l
    | some b => if (s.queue b.1).prio < (s.queue l.1).prio then some l else best) none

/-- Power of the running contexts. -/
def State.contextPower (s : State) : Nat := ((s.hub.fe.ctxs.filter fun c => c.ended.isNone).map fun c => c.pmax.toNat).sum

/-- A LAUNCH can be admitted. -/
def State.admissible (s : State) (k : Pkt) (tiles : List (BitVec 24)) : Bool :=
  tiles.all (fun t =>
    let l := s.assigned t
    decide (l.length < 4) && l.all (fun c => c.cxen) && (k.hasCx || l.isEmpty))
    && decide (s.contextPower + k.pmax ≤ s.hub.power.pcap.toNat * 16)

/-! ### Creation (R40, R314, R315) -/

/-- PGRANT of an effective RCB (Table 1.13). -/
def Rcb.pgrant (r : Rcb) : Word :=
  BitVec.ofNat 64 (r.pbudget.toNat + r.fmin.toNat * 2 ^ 16 + r.fmax.toNat * 2 ^ 20 + (if r.boost then 2 ^ 24 else 0))

/-- The context-scope CSRs of a context on a tile (R40). -/
def createdCsrs (k : Pkt) (rcbs : List Rcb) (t : BitVec 24) : CtxCsrs :=
  let r := effectiveRcb rcbs 2 t
  { CtxCsrs.reset with
    pgrant := (r.map Rcb.pgrant).getD 0, stagger := (r.map fun r => r.stagger.setWidth 64).getD 0
    shtb := k.word 4, shtn := BitVec.ofNat 64 (k.field 5 44 20), rgtb := BitVec.ofNat 64 (32 * k.field 7 21 14) }

/-- STATUS of a created context: IE, and DET with CPH or DWT. -/
def createdStatus (det : Bool) : Word := if det then 0x62 else 0x06

/-- Write bytes at a home. -/
def State.layBytes (s : State) (a : Nat) (l : List Byte) : State := s.otherWrite a l.length (bytesNat l) 7 0

/-- CXB of a context on a tile. -/
def Pkt.cxbOn (k : Pkt) (t : BitVec 24) : Word := if k.hasCx then BitVec.ofNat 64 (coordBase t + k.cxOff) else 0

/-- A workspace of zeros with its CXB (R40). -/
def State.clearWorkspace (s : State) (t : BitVec 24) (off : Nat) (cxb : Word) : State :=
  let b := coordBase t + off
  (s.layBytes b (List.replicate wsBytes 0)).putWords (b + 0x538) [cxb]

/-- Record `i` of superstep `n` of a step table (R268): its address and its words. -/
def State.listRecord (s : State) (t : BitVec 24) (table n i : Nat) : Word × List Word :=
  let p := ptrAdd (s.mem.readWord (coordBase t + table + 16 * n)) (BitVec.ofNat 64 (32 * i))
  (p, s.mem.readWords (coordBase t + ptrOff p) 4)

/-- Records of superstep `n`. -/
def State.listCount (s : State) (t : BitVec 24) (table n : Nat) : Nat := s.mem.readNat (coordBase t + table + 16 * n + 8) 4

/-- The executing tile without a resident context: the context is created live, and the spill part of its buffer, which no register
holds, is zeroed (R40). A deterministic one waits for its first barrier, a dynamic one for the dispenser. The registers that the
tile holds are not first written to the workspace that WP named (log 53). -/
def State.createHere (s : State) (c : Ctx) (k : Pkt) (rcbs : List Rcb) : State :=
  let s := s.discardLocal.setCsr { s.tile.csr with status := createdStatus c.det, wp := c.wp }
  let s := (s.loadRegs (wsOffset c.wp)).setCtx (createdCsrs k rcbs s.own)
  let s := s.setRes { s.tile.res with
    ctx := c.id, cxb := c.cxb, ctxid := c.ctxid, root := c.root, cut := none, listPos := 0, listAddr := c.stept, rejected := none
    report := none, leaderNext := none, gangReady := false, peers := [], quantum := s.cycle
    startAt := if c.det then some (BitVec.allOnes 64) else none }
  let s := s.setFront { Tile.reset.front with started := true }
  let s := (s.setNet { s.tile.net with arrived := false, spillTo := none }).setPath { s.tile.path with
    rlv := 7, pinned := [], walk := none, walkFail := none }
  let s := if c.cxb = 0 then s else ((s.evictBuffer (cxbAddr c.cxb)).otherWrite (cxbAddr c.cxb + 0x1C000) 0x4000 0 7 0)
  let s := (s.setWait (if c.det then .release else .idle)).waitHere .wait
  if s.tile.power.state = .hold then s.enterPower .hold else s

/-- A tile with a resident context: the state is written into the new context's workspace and buffer there (R315). -/
def State.createAway (s : State) (c : Ctx) (k : Pkt) (rcbs : List Rcb) (t : BitVec 24) : State :=
  let b := coordBase t + wsOffset c.wp
  let (p, w) := s.listRecord t c.stept.toNat 0 0
  let s := s.putWords (b + 0x530) [createdStatus c.det]
  let s := if c.det then
      (s.putWords (b + 0x508) [w.getD 0 0, w.getD 0 0]).putWords (b + 8) [w.getD 1 0, w.getD 3 0, w.getD 2 0, p]
    else s
  if c.cxb = 0 then s
  else
    let cx := cxbAddr (k.cxbOn t)
    let s := ((s.evictBuffer cx).otherWrite cx 0x20000 0 7 0).clearBad cx 0x20000
    (s.putWords cx [1]).putWords (cx + 0x40) (createdCsrs k rcbs t).words

/-- A tile holds a context other than the new one. -/
def State.occupied (s : State) (c : Ctx) (t : BitVec 24) : Bool :=
  if t = s.own then !(s.tile.res.ctx == 0 && s.tile.wait == .idle) else (s.assigned t).any fun d => d.id != c.id

/-- The home address of the task-queue descriptor that a tile's pointer dword names (R322, R323). -/
def State.queueHome (s : State) (c : Ctx) (t : BitVec 24) : Option (BitVec 24 × Nat) :=
  let p := s.mem.readWord (coordBase t + c.stept.toNat)
  let a : Option Nat :=
    if !ptrFormOk p then none
    else if ptrVirtual p then (s.walkTables c.ctxid c.root (ptrVa p)).map fun e => e.target (ptrVa p)
    else (if ptrRel p then resolveCoord t (ptrCoord p) else some (ptrCoord p)).bind fun d =>
      if s.meshOk d (ptrOff p) 64 then some (coordBase d + ptrOff p) else none
  match a with
  | some a => if a % 64 = 0 ∧ a < hostBase then some (t, a) else none
  | none => none

/-- Create an admitted context on every tile (R314). -/
def State.create (s : State) (q : BitVec 10) (k : Pkt) (rcbs : List Rcb) (tiles : List (BitVec 24)) : State :=
  let x := s.queue q
  let n := s.hub.fe.nextCtx
  let c : Ctx :=
    { id := n, queue := q, lidx := k.idx, ctxid := x.space.ctxid, root := x.space.root, tiles := tiles, det := k.isDet
      moved := [], cxen := k.hasCx, cxb := k.cxbOn s.own, wp := BitVec.ofNat 64 k.wsOff, stept := BitVec.ofNat 64 k.stepOff
      ranges := k.ranges ++ k.buffer, pmax := BitVec.ofNat 16 k.pmax, prio := BitVec.ofNat 4 x.prio, rcbs := rcbs, hwd := x.hwd
      running := true, parked := none, saving := false, halted := [], joined := [], idle := if k.isDet then [] else tiles
      asleep := [], heldRecs := [], queues := [], inFlight := 0, landed := [], release := none
      cut := none, stopped := [], before := [], watched := s.cycle, doomed := none, run := none, ended := none }
  let s := s.updPkt q k.idx fun k => { k with phase := .running, ctx := n }
  let s := s.setFe { s.hub.fe with nextCtx := n + 1, ctxs := s.hub.fe.ctxs ++ [c] }
  match s.hubRead x.space (k.word 1) k.codeLen with
  | (s, .error (cause, v)) => s.killCtx n cause v 0 0
  | (s, .ok code) =>
    match (if k.dataLen = 0 then (s, .ok []) else s.hubRead x.space (k.word 3) k.dataLen) with
    | (s, .error (cause, v)) => s.killCtx n cause v 0 0
    | (s, .ok data) =>
      let s := tiles.foldl (fun s t => (s.layBytes (coordBase t + k.codeDst) code).layBytes (coordBase t + k.dataDst) data) s
      let s := tiles.foldl (fun s t => s.clearWorkspace t k.wsOff (k.cxbOn t)) s
      let s := if k.isDet then s else s.updCtx n fun c => { c with queues := tiles.filterMap (s.queueHome c) }
      let s := s.setRes { s.tile.res with killed := s.tile.res.killed.filter fun p => !c.buffers.contains p }
      let s := (tiles.filter (s.occupied c)).foldl (fun s t => s.createAway c k rcbs t) s
      if tiles.contains s.own && !s.occupied c s.own then s.createHere c k rcbs else s

/-- LAUNCH_ADMIT: the LAUNCH that stands first, once it can be admitted. -/
def execLaunchAdmit (s : State) : Out :=
  match s.firstLaunch with
  | none => .next s
  | some (q, idx, rcbs) =>
    match (s.queue q).pkt idx, rcbs.head? with
    | some k, some r =>
      let tiles := s.rectangle r
      if !s.admissible k tiles then .next s
      else
        let s := s.setFe { s.hub.fe with launches := s.hub.fe.launches.erase (q, idx, rcbs) }
        .next (s.create q k rcbs tiles)
    | _, _ => .next (s.setFe { s.hub.fe with launches := s.hub.fe.launches.erase (q, idx, rcbs) })

end Sys2Proof.Machine
end

