-- ==== Sys2Proof/Machine/Levels.lean ====
section
/-!
DEFINITION. Tile instructions at levels 5 to 3: TILE packets, the cut of an instruction into the parts of tiles, the commits of
parts, and faults between levels (R254 to R265, R319, Tables 11.1 to 11.5).
-/

namespace Sys2Proof.Machine

/-! ### Blocks (R258, R259) -/

/-- Pieces of `n` indices from `lo`, `size` at a time. -/
def piecesOf (size : Nat) (x : Nat × Nat) : List (Nat × Nat) :=
  (List.range ((x.2 + size - 1) / size)).map fun i => (x.1 + i * size, min size (x.2 - i * size))

/-- The output blocks of a region of D in row-major order: dimension 3, dimension 2, block row, block column. -/
def blocksOf (mg ng : Nat) (r : List (Nat × Nat)) : List (List (Nat × Nat)) :=
  let dim (k : Nat) : Nat × Nat := r.getD k (0, 1)
  (piecesOf 1 (dim 3)).flatMap fun d3 => (piecesOf 1 (dim 2)).flatMap fun d2 =>
    (piecesOf mg (dim 1)).flatMap fun d1 => (piecesOf ng (dim 0)).map fun d0 => [d0, d1, d2, d3]

/-- NG of a grant for an instruction: a multiple of 32 where D has a block format, or where dimension 0 of another operand of a block
format is cut with D's, and all of dimension 0 for TTOPK (R256, Table 11.3). -/
def columnsOf (e : TileEnv) (os : List Operand) (ng : Nat) : Nat :=
  let cut := if e.top = 2 ∨ e.top = 3 then (opAt os 0).toList else os
  if e.top = 7 then 2 ^ 32 else if cut.any fun o => o.f.isBlock then (ng + 31) / 32 * 32 else ng

/-- The whole extent of D. -/
def wholeOf (d : Operand) : List (Nat × Nat) := (List.range 4).map fun k => (0, d.r.ext k)

/-- Without repeats, in ascending order. -/
def ascending (l : List Nat) : List Nat := sortBy id l.eraseDups

/-- The strips of a set of tiles, by number: die, then physical y, then the left half before the right one. -/
def State.stripsOf (s : State) (l : List (BitVec 24)) : List Nat := ascending (l.map fun t => (s.stripNo t).toNat)

/-- The tiles of a strip of a context, by logical X. -/
def State.tilesOf (s : State) (c : Ctx) (strip : Nat) : List (BitVec 24) :=
  sortBy (fun t => t.toNat % 32) (c.tiles.filter fun t => (s.stripNo t).toNat == strip)

/-- The dies of a context. -/
def Ctx.dies (c : Ctx) : List Nat := ascending (c.tiles.map fun t => (coordDie t).toNat)

/-- Member `i` modulo the length. -/
def turn {α : Type} (l : List α) (i : Nat) : Option α := l[i % l.length]?

/-- A part of an instruction before it has been computed: its path, block, regions of I_4, I_3 and I_2, strip and tile. -/
structure Leaf where
  path   : List Nat
  block  : Nat
  regions : List (List (Nat × Nat))
  strip  : Nat
  tile   : BitVec 24
  deriving DecidableEq, Repr

/-- The limits' own grants of a die and a strip: TSHAPE is not forwarded (R255, R256, Table 11.2). -/
def State.stripLeaves (s : State) (c : Ctx) (u q q4 : Nat) (ng : Nat → Nat) (strip : Nat) (r4 r : List (Nat × Nat)) : List Leaf :=
  let tiles := s.tilesOf c strip
  (blocksOf 256 (ng 256) r).zipIdx.filterMap fun x =>
    (turn tiles x.2).map fun t => { path := [u, q4, x.2], block := q, regions := [r4, r, x.1], strip := strip, tile := t }

/-- The parts into which a die and its strips cut a block. -/
def State.dieLeaves (s : State) (c : Ctx) (u q : Nat) (ng : Nat → Nat) (die : Nat) (r : List (Nat × Nat)) : List Leaf :=
  let strips := s.stripsOf (c.tiles.filter fun t => (coordDie t).toNat == die)
  (blocksOf 2048 (ng 2048) r).zipIdx.flatMap fun x =>
    match turn strips x.2 with
    | some st => s.stripLeaves c u q x.2 ng st r x.1
    | none => []

/-- The parts of an instruction in the order of their paths: block q, K part p is unit q·P + p (R258, R261). -/
def State.leaves (s : State) (c : Ctx) (mg ng : Nat) (ngs : Nat → Nat) (parts : Nat) (d : Operand) : List Leaf :=
  (blocksOf mg ng (wholeOf d)).zipIdx.flatMap fun x =>
    (List.range parts).flatMap fun p =>
      let u := x.2 * parts + p
      match turn c.dies u with
      | some die => s.dieLeaves c u x.2 ngs die x.1
      | none => []

/-- The first tile in child order. -/
def State.firstChild (s : State) (c : Ctx) : BitVec 24 :=
  (((s.stripsOf c.tiles).head?.map fun st => s.tilesOf c st).getD []).headD s.firstTile

/-! ### The setting at level 5 -/

/-- Change the stream of a context. -/
def State.updRun (s : State) (n : Nat) (f : TileRun → TileRun) : State :=
  s.updCtx n fun c => { c with run := c.run.map f }

/-- The setting in which the hub runs an instruction of the stream (R319). -/
def State.packageEnv (s : State) (c : Ctx) (r : TileRun) (insn : Word) : TileEnv :=
  let strict := r.strict || ((effectiveRcb c.rcbs 5 s.firstTile).map fun x => x.strict).getD false
  { insn := insn, frame := r.frame, shtb := r.shtb, shtn := r.shtn.toNat, seedk := r.seedk, seeds := r.seeds, srfix := r.srfix
    rm := r.fcsr.toNat % 8, ftz := r.fcsr.getLsbD 24, kg := if strict then none else some (grantK r.grant), runner := .hub
    dry := false, shapes := r.shapes, part := none, kpart := none, ctxid := c.ctxid, root := c.root }

/-- MG and NG of a grant. -/
def grantM (g : Word) : Nat := g.toNat / 2 ^ 48
/-- NG of a grant. -/
def grantN (g : Word) : Nat := g.toNat / 2 ^ 32 % 2 ^ 16

/-- How many parts the package cuts K into. -/
def kpartsOf (e : TileEnv) (os : List Operand) : Nat :=
  if e.top = 2 ∨ e.top = 3 then ((gemmOf e os).map fun x => (x.cut e).1).getD 1 else 1

/-- K rows of part `p` of an instruction (R261, R274); 0 for one that has none. -/
def partRows (e : TileEnv) (os : List Operand) (p : Nat) : Nat :=
  if e.top ≠ 2 ∧ e.top ≠ 3 then 0
  else ((gemmOf e os).map fun x =>
    let (n, q) := x.cut e
    if n = 1 then x.krows else min q (x.krows - p * q)).getD 0

/-- A part that has not run. -/
def Leaf.unit (l : Leaf) (e : TileEnv) (os : List Operand) (parts : Nat) : ChildUnit :=
  { path := l.path, block := l.block, tile := l.tile, strip := l.strip, bytes := [], flags := 0, ready := true, fault := none
    regions := l.regions, handles := [], krows := partRows e os (l.path.headD 0 % parts)
    wide := decide (8 < ((l.regions.getLastD []).headD (0, 0)).2), state := 0, blocked := none }

/-- The setting of a part: its tile, its region of D, and of K where K is cut. -/
def State.partEnv (s : State) (c : Ctx) (r : TileRun) (u : ChildUnit) : TileEnv :=
  { s.packageEnv c r (r.insns.headD 0) with
    runner := .part u.tile, part := some (u.regions.getLastD [])
    kpart := if r.kparts = 0 then none else some (u.path.headD 0 % r.kparts) }

/-- The start checks of the package on an instruction that writes tensors, over the whole of it: its records, then every
operand and output byte but for what a read would find (R255, R262, log 24). -/
def State.startChecks (s : State) (e : TileEnv) : State × Except TileStop (List Operand) :=
  match operands e e.used s with
  | (s, .error x) => (s, .error x)
  | (s, .ok os) =>
    match runTensor { e with dry := true } (s.setErrors { s.hub.errors with bad := [] }) with
    | (_, .error x) => (s, .error x)
    | (_, .ok _) => (s, .ok os)

/-- The operands and the parts of an instruction that writes tensors (R258). -/
def State.cutInsn (s : State) (c : Ctx) (r : TileRun) (e : TileEnv) :
    State × Except TileStop (List Operand × Nat × List ChildUnit) :=
  match s.startChecks e with
  | (s, .error x) => (s, .error x)
  | (s, .ok os) =>
    match opAt os 0 with
    | none => (s, .ok (os, 1, []))
    | some d =>
      let parts := kpartsOf e os
      let ls := s.leaves c (grantM r.grant) (columnsOf e os (grantN r.grant)) (columnsOf e os) parts d
      (s, .ok (os, parts, ls.map fun l => l.unit e os parts))

/-! ### Derived records (R259, Table 11.1) -/

/-- A pointer with REL resolved: relative to logical tile (0, 0) of die 0 (R259, R319). -/
def State.absolute (s : State) (p : Word) : Word :=
  if ptrVirtual p || !ptrRel p then p
  else match resolveCoord (s.hub.boot.pkgId.setWidth 24 <<< 12) (ptrCoord p) with
    | some c => (p &&& ~~~(BitVec.ofNat 64 ((2 ^ 25 - 1) * 2 ^ 30))) ||| (c.setWidth 64 <<< 30)
    | none => p

/-- The derived record of an operand for a part of it, with a generation. -/
def State.derived (s : State) (o : Operand) (part : List (Nat × Nat)) (gen : BitVec 12) : BitVec 512 :=
  let lo := part.map fun x => x.1
  let exts := joinNat 32 (part.map fun x => x.2)
  BitVec.ofNat 512 (o.r.bits % 2 ^ 64 + exts * 2 ^ 64 + o.r.field 192 128 * 2 ^ 192
    + (s.absolute (o.span lo).1).toNat * 2 ^ 320 + o.gindex lo * 2 ^ 384 + gen.toNat * 2 ^ 448)

/-- The operands in slot order A, B, C, D; a C that has D's handle has D's slot (Table 12.1; log 43). -/
def slotOrder (os : List Operand) : List Operand :=
  ([1, 2, 3].filterMap (opAt os)).filter (fun o => o.pos != 3 || (opAt os 0).all fun d => d.h != o.h) ++ (opAt os 0).toList

/-- The logical tiles of a strip by X, whether or not they belong to a context. -/
def State.stripTiles (s : State) (strip : Nat) : List (BitVec 24) :=
  let base := s.firstTile + BitVec.ofNat 24 (strip / 64 * 2 ^ 10)
  ((List.range 992).map fun i => base + BitVec.ofNat 24 i).filter fun t => (s.stripNo t).toNat == strip

/-- Write a slot of a level's shape table, whose generation advances at each reuse from 1 (log 43): its handle. A strip's table
stands in the staging windows of its tiles (R254, R279). -/
def State.stageSlot (s : State) (level unit slot : Nat) (rec_ : BitVec 12 → BitVec 512) : State × BitVec 32 :=
  let same (x : StageSlot) : Bool := x.level == level && x.unit == unit && x.slot == slot
  let gen : BitVec 12 := ((s.hub.staging.find? same).map fun x => x.gen + 1).getD 1
  let place : Option Nat :=
    if level = 3 then ((s.stripTiles unit)[slot / 512]?).map fun t => coordBase t + 0x78000 + 64 * (slot % 512) else none
  let x : StageSlot := { level := level, unit := unit, slot := slot, gen := gen, record := rec_ gen, place := place }
  let s := s.setHub { s.hub with staging := s.hub.staging.filter (fun y => !same y) ++ [x] }
  let s := match place with
    | some a => s.putWords a ((List.range 8).map fun i => x.record.extractLsb' (64 * i) 64)
    | none => s
  (s, BitVec.ofNat 32 (slot * 2 ^ 12) ||| gen.setWidth 32)

/-- The operands of the running instruction. -/
def TileRun.operands (r : TileRun) : List Operand :=
  r.shapes.map fun x =>
    let sh : Shape := { bits := x.2.toNat }
    { pos := x.1, h := r.frame.get (BitVec.ofNat 4 ((r.insns.headD 0).toNat / 2 ^ (20 - 4 * x.1))).toFin, r := sh
      f := (formatOf (BitVec.ofNat 5 sh.code)).getD .raw, curve := none }

/-- A level above `len` writes the records of a part whose path has `len` numbers: the slots of its block number. The handle of
D names the part. -/
def State.stagePart (s : State) (e : TileEnv) (r : TileRun) (u : ChildUnit) (len : Nat) : State × BitVec 32 :=
  let os := r.operands
  let l := slotOrder os
  let unit := if len = 1 then 0 else if len = 2 then u.strip / 64 else u.strip
  let first := l.length * (u.path.getD (len - 1) 0)
  let ks := kRange e os (if r.kparts = 0 then 0 else u.path.headD 0 % r.kparts)
  l.zipIdx.foldl (fun x o =>
    x.1.stageSlot (6 - len) unit (first + o.2) (x.1.derived o.1 (o.1.cutTo e ks (u.regions.getD (len - 1) [])))) (s, 0)

/-! ### Faults between levels (R263 to R265, Tables 11.4, 11.5) -/

/-- A fault: its cause and value, the level where it arose, the path of I_L there, the part in hand, its strip and tile, the
derived output handles of I_4, I_3 and I_2, and KDONE of the level where it arose. -/
structure LevelFault where
  cause : BitVec 8
  value : Word
  level : Nat
  path  : List Nat
  leaf  : List Nat
  strip : Nat
  tile  : BitVec 24
  handles : List (BitVec 32)
  kdone : Nat
  deriving DecidableEq, Repr

/-- The path of I_L: block numbers from level 4 down. -/
def LevelFault.pathAt (f : LevelFault) (level : Nat) : List Nat := f.path.take (5 - level)

/-- The coordinate of the unit at a level (Table 11.4). -/
def State.unitCoord (s : State) (f : LevelFault) (level : Nat) : BitVec 24 :=
  match level with
  | 2 => f.tile
  | 3 => (s.stripTiles f.strip).headD f.tile
  | 4 => s.firstTile + BitVec.ofNat 24 (f.strip / 64 * 2 ^ 10)
  | _ => s.firstTile

/-- A part belongs to I_L. -/
def ChildUnit.under (u : ChildUnit) (p : List Nat) : Bool := u.path.take p.length == p

/-- A part has committed. -/
def ChildUnit.committed (u : ChildUnit) : Bool := u.state == 1 || (u.state == 3 && u.fault.isNone)

/-- The parts of the K parts of the same block at the same places. -/
def TileRun.siblings (r : TileRun) (u : ChildUnit) : List ChildUnit :=
  r.units.filter fun v => v.block == u.block && v.path.drop 1 == u.path.drop 1

/-- K rows that I_L had completed for every one of its output elements (R274): at a level above the fault, as many as the part
that failed where all others have committed, with the rows of the other K parts at the package's; else none. -/
def TileRun.kdone (r : TileRun) (f : LevelFault) (level : Nat) : Nat :=
  if level = f.level then f.kdone
  else if (r.units.filter fun u => u.under (f.pathAt level) && !u.under f.path).any fun u => !u.committed then 0
  else if level = 5 then
    f.kdone + (((r.units.find? fun u => u.under f.path).map fun u =>
      (((r.siblings u).filter fun v => v.path != u.path).map fun v => v.krows).sum).getD 0)
  else f.kdone

/-- CHILD of a record: the derived handle of I_L's output, 0 at level 5. A TCOLL, which is never cut, has none: the value there is
left open (R255, R259; log 6). -/
def State.childField (s : State) (f : LevelFault) (level : Nat) : BitVec 32 :=
  if level = 5 then 0 else (f.handles[4 - level]?).getD ((Config.freeWord s.free).setWidth 32)

/-- The record of a fault (Table 11.4). -/
def State.faultRecord (s : State) (r : TileRun) (f : LevelFault) (level code tries : Nat) : FaultRecord :=
  { words :=
    [ BitVec.ofNat 64 (f.cause.toNat + f.level * 2 ^ 8 + level * 2 ^ 12 + code * 2 ^ 16 + tries * 2 ^ 20
        + (s.unitCoord f level).toNat * 2 ^ 24),
      f.value,
      BitVec.ofNat 64 ((s.childField f level).toNat + r.kdone f level % 2 ^ 32 * 2 ^ 32),
      BitVec.ofNat 64 ((f.pathAt level).getLastD 0 % 2 ^ 32 + r.kparts * 2 ^ 32) ] }

/-- Tries made of I_L. -/
def TileRun.triesOf (r : TileRun) (p : List Nat) : Nat :=
  ((r.tries.find? fun x => x.1 == p).map fun x => x.2).getD 0

/-- The parts under a path that have not committed are dropped; a start that failed leaves an instruction without parts. -/
def TileRun.dropUnder (r : TileRun) (p : List Nat) : TileRun :=
  if r.units.isEmpty then { r with insns := r.insns.tail, dropped := true, tries := [], kparts := 0, shapes := [] }
  else
    let drop (u : ChildUnit) : ChildUnit :=
      if u.under p && (u.state == 0 || (u.state == 3 && u.fault.isSome)) then { u with state := 2 } else u
    { r with units := r.units.map drop }

/-- I_L is reissued to the same unit, with the same handle of its output; the units below write their records anew, and what they
issue are new instructions, of which no try has been made. A reissued TCOLL starts anew. -/
def TileRun.retry (r : TileRun) (p : List Nat) : TileRun :=
  let r := { r with tries := (p, r.triesOf p + 1) :: r.tries.filter fun x => x.1.take p.length != p }
  let again (u : ChildUnit) : ChildUnit :=
    if u.under p then { u with state := 0, fault := none, blocked := none, handles := u.handles.take p.length } else u
  if p.isEmpty || (r.insns.headD 0).toNat / 2 ^ 24 % 64 = 13 then { r with units := [] }
  else { r with units := r.units.map again }

/-- The part that this tile's sequencer runs is abandoned with I_L, and so is a start of one that stalls. -/
def State.reapChild (s : State) (n : Nat) (p : List Nat) : State :=
  let s := s.setSeq { s.tile.seq with blocked := none }
  match s.tile.seq.running with
  | some (.child m q) => if m = n ∧ q.take p.length = p then s.dropChild n else s
  | _ => s

/-- Kill a context of a TILE packet and every context of its fault domain (R265). -/
def State.killDomain (s : State) (n : Nat) (cause : BitVec 8) (value : Word) (coord : BitVec 24) : State :=
  match s.ctxOf n with
  | none => s
  | some c =>
    let dom (c : Ctx) : BitVec 32 := (c.rcbs.head?.map fun r => r.fdom).getD 0
    let s := s.killCtx n cause value 0 coord
    if dom c = 0 then s
    else (s.hub.fe.ctxs.filter fun d => d.id != n && dom d == dom c).foldl (fun s d => s.killCtx d.id 0x46 0 0 0) s

/-- The walk of R265 from level L upward. Ignore drops the part in hand; above the level where the fault arose, it has ended already.
The other work of I_L goes on (R264). -/
def State.walkFault (s : State) (n : Nat) (f : LevelFault) : Nat → Nat → State
  | 0, _ => s
  | fuel + 1, level =>
    match s.ctxOf n with
    | none => s
    | some c =>
      match c.run with
      | none => s
      | some r =>
        let p := f.pathAt level
        let x := effectiveRcb c.rcbs level (s.unitCoord f level)
        let policy := (x.map fun x => x.policy.toNat).getD 3
        let tries := r.triesOf p
        let spent := decide (policy = 1) && decide ((x.map fun x => x.retry.toNat).getD 0 ≤ tries)
        let act := if spent then 3 else policy
        let code := if act = 3 ∧ level = 5 then 5 else if spent then 4 else policy
        let rec_ := s.faultRecord r f level code tries
        let s := s.updRun n fun r => { r with log := r.log ++ [rec_], nlog := r.nlog + 1 }
        let ends (p : List Nat) (s : State) : State := (s.updRun n fun r => r.dropUnder p).reapChild n p
        match act with
        | 0 => if level = f.level then ends f.leaf s else s
        | 1 => (s.updRun n fun r => r.retry p).reapChild n p
        | 3 =>
          if level = 5 then s.killDomain n f.cause f.value (s.unitCoord f 5)
          else (ends p s).walkFault n f fuel (level + 1)
        | _ => ends p s

/-- Handle a fault. A TCOLL that waits is withdrawn. -/
def State.levelFault (s : State) (n : Nat) (f : LevelFault) : State := (s.leaveBus n).walkFault n f 4 f.level

/-! ### The stream of a TILE packet (R254, R255) -/

/-- What becomes of the head instruction at its start: it has completed, its parts run, it waits, or it fails. -/
inductive HeadStart where
  | done (s : State)
  | parts (s : State) (os : List Operand) (kparts : Nat) (units : List ChildUnit)
  | waits (s : State)
  | fails (s : State) (cause : BitVec 8) (value : Word)
  deriving DecidableEq, Repr

/-- The one part of a TCOLL. -/
def State.collUnit (s : State) (c : Ctx) : ChildUnit :=
  let t := s.firstChild c
  { path := [0, 0, 0], block := 0, tile := t, strip := (s.stripNo t).toNat, bytes := [], flags := 0, ready := false
    fault := none, regions := [], handles := [], krows := 0, wide := false, state := 0, blocked := none }

/-- A TCOLL joins engine 1 of the first tile in child order, which runs it (R255); this tile's takes it once its FIFO has room
and its context is not being switched. -/
def State.startTileColl (s : State) (c : Ctx) (d : BitVec 256) : Option State :=
  if s.firstChild c ≠ s.own then
    some (s.setFe { s.hub.fe with colls := s.hub.fe.colls ++ [s.newSw d true c.id] }).countSw
  else if s.switching || decide (8 ≤ s.tile.eng.fifo1.length) then none
  else some (s.pushSw d true c.id)

/-- Start the head instruction (R255). The form bits [31:30] of a dword of a TILE packet, which hold only tile instructions, are
not looked at (log 41). -/
def State.startHead (s : State) (c : Ctx) (r : TileRun) (insn : Word) : HeadStart :=
  let e := s.packageEnv c r insn
  if insn.toNat / 2 ^ 4 % 16 ≠ 0 then .fails s Cause.illegalEncoding insn
  else match decodeT (insn.toNat % 2 ^ 32) (insn.toNat / 2 ^ 32) with
    | .encoding => .fails s Cause.illegalEncoding insn
    | .unassigned => .fails s Cause.illegalInstr insn
    | .ok (.tsyncDrop ..) => .fails s Cause.illegalInstr insn
    | .ok _ =>
      match e.top with
      | 0 => .done (s.updRun c.id fun r => { r with grant := grantOf packageLimits e.param })
      | 1 =>
        match runBind e s with
        | (s, .ok h) =>
          let hd : BitVec 4 := BitVec.ofNat 4 (insn.toNat / 2 ^ 20)
          .done (s.updRun c.id fun r => { r with frame := r.frame.set hd.toNat h hd.isLt })
        | (s, .error (.fault cause v)) => .fails s cause v
        | (s, .error (.blocked _)) => .waits s
      | 12 => if e.param = 0 then .done s else .fails s Cause.shapeMismatch (shapeEval 8 0 0)
      | 13 =>
        match runColl e s with
        | (s, .ok d) =>
          match s.startTileColl c d with
          | some s => .parts s [] 0 [s.collUnit c]
          | none => .waits s
        | (s, .error (.fault cause v)) => .fails s cause v
        | (s, .error (.blocked _)) => .waits s
      | _ =>
        match s.cutInsn c r e with
        | (s, .ok (os, p, us)) => .parts s os (if p = 1 then 0 else p) us
        | (s, .error (.fault cause v)) => .fails s cause v
        | (s, .error (.blocked _)) => .waits s

/-- The head instruction leaves the stream. -/
def TileRun.advance (r : TileRun) : TileRun :=
  { r with insns := r.insns.tail, units := [], kparts := 0, shapes := [], tries := [], dropped := r.dropped || r.units.any fun u => u.state == 2 }

/-- An instruction of the stream has committed: the context's hang watchdog restarts (R328). -/
def State.nextInsn (s : State) (n : Nat) : State := (s.updRun n TileRun.advance).watch n

/-- A part has not ended at its parent. -/
def ChildUnit.runs (u : ChildUnit) : Bool := u.state == 0 || u.state == 3

/-- A fault of the package's start checks. -/
def startFault (cause : BitVec 8) (value : Word) : LevelFault :=
  { cause := cause, value := value, level := 5, path := [], leaf := [], strip := 0, tile := 0, handles := [], kdone := 0 }

/-- Parts of another context's instruction run: the units take one stream (R254). -/
def State.levelsBusy (s : State) (n : Nat) : Bool :=
  s.hub.fe.ctxs.any fun c => c.id != n && c.ended.isNone && c.run.any fun r => r.units.any ChildUnit.runs

/-- Another context has an instruction to start. -/
def State.levelsWanted (s : State) (n : Nat) : Bool :=
  s.hub.fe.ctxs.any fun c => c.id != n && c.ended.isNone && c.run.any fun r => r.units.isEmpty && !r.insns.isEmpty

/-- Run the stream until parts run, a start waits, another context's instruction may come first, or the stream ends. -/
def State.runNext (s : State) (n : Nat) : Nat → State
  | 0 => s
  | fuel + 1 =>
    match s.ctxOf n with
    | none => s
    | some c =>
      match c.run with
      | none => s
      | some r =>
        if c.ended.isSome then s
        else match r.insns with
          | [] => s.endCtx n (if r.dropped then 0x15 else 0) 0 0 0
          | insn :: _ =>
            if r.units.any fun u => u.runs then s
            else if !r.units.isEmpty then
              let s := s.nextInsn n
              if s.levelsWanted n then s else s.runNext n fuel
            else if s.levelsBusy n then s
            else match s.startHead c r insn with
              | .done s => (s.nextInsn n).runNext n fuel
              | .parts s _ _ [] => (s.nextInsn n).runNext n fuel
              | .parts s os p us => s.updRun n fun r => { r with
                  kparts := p, units := us, shapes := os.map fun o => (o.pos, BitVec.ofNat 512 o.r.bits) }
              | .waits s => s
              | .fails s cause v => (s.levelFault n (startFault cause v)).runNext n fuel

/-- The level that holds the parts under a path writes the records of those whose paths have `len` numbers. -/
def State.stageCut (s : State) (n len : Nat) (p : List Nat) : State :=
  match s.ctxOf n with
  | none => s
  | some c =>
    match c.run with
    | none => s
    | some r =>
      let e := s.packageEnv c r (r.insns.headD 0)
      let mine := if r.shapes.isEmpty then [] else r.units.filter fun u => u.under p && u.handles.length + 1 == len
      ((mine.map fun u => u.path.take len).eraseDups).foldl (fun s q =>
        match mine.find? fun u => u.under q with
        | none => s
        | some u =>
          let (s, h) := s.stagePart e r u len
          let named (v : ChildUnit) : ChildUnit := if v.under q then { v with handles := v.handles ++ [h] } else v
          s.updRun n fun r => { r with units := r.units.map named }) s

/-- Units that start an instruction cut it and write its derived records: the front end, each die for the first part that it
runs, and each strip for its own (R254, R259). -/
def State.stageUnits (s : State) (n : Nat) : State :=
  let firsts (s : State) (unit : ChildUnit → Nat) : List ChildUnit :=
    let l := (((s.ctxOf n).bind Ctx.run).map fun r => r.units.filter ChildUnit.runs).getD []
    ((l.map unit).eraseDups).filterMap fun k => l.find? fun u => unit u == k
  let s := s.stageCut n 1 []
  let s := (firsts s fun u => u.strip / 64).foldl (fun s u => s.stageCut n 2 (u.path.take 1)) s
  (firsts s fun u => u.strip).foldl (fun s u => s.stageCut n 3 (u.path.take 2)) s

/-- Enough for every instruction, its tries and its end. -/
def State.goOn (s : State) (n : Nat) : State :=
  match (s.ctxOf n).bind Ctx.run with
  | none => s
  | some r => (s.runNext n (10 * r.insns.length + 1)).stageUnits n

/-! ### TILE (R319) -/

/-- The images of a parameter block keep their reserved bits, and RM is 0 to 4. -/
def blockOk (w : List Word) : Bool :=
  ([12, 13, 14, 15].all fun i => w.getD i 0 == 0) && (w.getD 8 0 &&& ~~~(0x013F3F07 : Word)) == 0
    && decide ((w.getD 8 0).toNat % 8 ≤ 4) && decide ((w.getD 10 0).toNat < 2 ^ 32) && decide ((w.getD 11 0).toNat < 2 ^ 25)

/-- The RCB checks of a TILE packet. -/
def tileRcbOk (x : Queue) (rcbs : List Rcb) : Bool :=
  match rcbs.head? with
  | none => false
  | some r => decide (r.pbudget.toNat ≤ x.gpmax) && decide (x.gftop ≤ r.fmax.toNat) && (!r.boost || x.gboost)

/-- h0 to h15 of a parameter block. -/
def frameOf (w : List Word) : Vector (BitVec 32) 16 :=
  Vector.ofFn fun i => (w.getD (i.val / 2) 0).extractLsb' (32 * (i.val % 2)) 32

/-- The context of a TILE packet. -/
def State.tileCtx (s : State) (x : Queue) (k : Pkt) (rcbs : List Rcb) (w insns : List Word) : Ctx :=
  let run : TileRun :=
    { insns := insns, units := [], kparts := 0, shapes := [], frame := frameOf w, fcsr := w.getD 8 0, seedk := w.getD 9 0
      seeds := w.getD 10 0, srfix := w.getD 11 0, strict := k.field 2 16 1 == 1, shtb := k.word 4
      shtn := BitVec.ofNat 64 (k.field 5 0 20), grant := grantOf packageLimits 0, flags := 0, dropped := false, log := []
      logPtr := k.word 7, logCap := k.field 5 32 16, nlog := 0, tries := [] }
  { id := s.hub.fe.nextCtx, queue := x.q, lidx := k.idx, ctxid := x.space.ctxid, root := x.space.root
    tiles := (rcbs.head?.map s.rectangle).getD [], moved := [], det := false, cxen := false, cxb := 0, wp := 0, stept := 0, ranges := []
    pmax := 0, prio := BitVec.ofNat 4 x.prio, rcbs := rcbs, hwd := x.hwd, running := true, parked := none, saving := false
    halted := [], joined := [], idle := [], asleep := [], heldRecs := [], queues := [], inFlight := 0, landed := [], before := []
    release := none, cut := none, stopped := [], watched := s.cycle, doomed := none, run := some run, ended := none }

/-- TILE: its checks, then its stream from the first instruction. -/
def execTile (q : BitVec 10) (s : State) : Out :=
  startPacket q (some 2) s fun s x k =>
    let stop (s : State) (status : BitVec 8) (v : Word) : Out := .next (s.finishWith q k.idx status v)
    let count := k.field 2 0 16
    if count = 0 ∨ (k.word 1).toNat % 8 ≠ 0 ∨ (k.word 3).toNat % 64 ≠ 0 ∨ (k.word 7).toNat % 32 ≠ 0 then stop s 0x40 0
    else
      let (s, rcbs) := s.rcbArray x.space (k.word 6)
      if !tileRcbOk x (rcbs.getD []) then stop s 0x43 0
      else match s.hubRead x.space (k.word 3) 128 with
        | (s, .error (c, v)) => stop s c v
        | (s, .ok block) =>
          let w := dwordsOf 16 block
          if !blockOk w then stop s 0x40 0
          else match s.hubRead x.space (k.word 1) (8 * count) with
            | (s, .error (c, v)) => stop s c v
            | (s, .ok code) =>
              let c := s.tileCtx x k (rcbs.getD []) w (dwordsOf count code)
              let s := s.updPkt q k.idx fun k => { k with ctx := c.id }
              let s := s.setFe { s.hub.fe with nextCtx := c.id + 1, ctxs := s.hub.fe.ctxs ++ [c] }
              .next (s.goOn c.id)

/-! ### Commits and faults of parts -/

/-- A part that runs is ready to run on its unit: no earlier part that still runs is on the same die in another unit, on
the same strip in another block of the die, or on the same tile (R254, R258). -/
def currentUnit (l : List ChildUnit) (wanted : ChildUnit → Bool) : Option ChildUnit :=
  let runs := l.filter ChildUnit.runs
  (runs.zipIdx.find? fun x => wanted x.1 && (runs.take x.2).all fun y =>
      (y.strip / 64 != x.1.strip / 64 || y.path.take 1 == x.1.path.take 1)
        && (y.strip != x.1.strip || y.path.take 2 == x.1.path.take 2) && y.tile != x.1.tile).map fun x => x.1

/-- Write staged bytes at their homes, other bits of a byte being kept. -/
def State.hubCommit (s : State) (l : List StagedByte) : State :=
  l.foldl (fun s b =>
    let old := if b.mask = 0xFF then 0 else s.mem.read b.addr
    s.otherWrite b.addr 1 ((old &&& ~~~b.mask) ||| (b.bits &&& b.mask)).toNat 7 0) (s.clearStaged l)

/-- Enabled flags of a stream (R33). -/
def TileRun.enabled (r : TileRun) (fl : Flags) : Bool := fl &&& r.fcsr.extractLsb' 16 6 != 0

/-- Another state of a part. -/
def TileRun.mark (r : TileRun) (path : List Nat) (st : BitVec 2) : TileRun :=
  { r with units := r.units.map fun (u : ChildUnit) => if u.path = path then { u with state := st } else u }

/-- With K cut, the commit of a part lets the joins of its block be written once every part of the block has finished, where no K
part was dropped (R261). -/
def TileRun.joined (r : TileRun) (u : ChildUnit) : List ChildUnit :=
  let block := r.units.filter fun v => v.block == u.block
  if block.any ChildUnit.runs then []
  else block.filter fun v => v.path.headD 0 % r.kparts == 0 && (r.siblings v).all fun w => w.state == 1

/-- The fault of a part at a level. -/
def ChildUnit.fails (u : ChildUnit) (level : Nat) (cause : BitVec 8) (value : Word) (kdone : Nat) : LevelFault :=
  { cause := cause, value := value, level := level, path := u.path.take (5 - level), leaf := u.path, strip := u.strip, tile := u.tile
    handles := u.handles, kdone := kdone }

/-- The slot that EVAL of one names. -/
def weightSlot (value : Word) : Nat := value.toNat / 2 ^ 8 % 2 ^ 7

/-- A SOFT_ERROR of the weight buffer: a column of a slot of bank A, which alone a TMMA or TMM loads (R147, R274). -/
def weightFault (cause : BitVec 8) (value : Word) : Bool :=
  cause == Cause.softError && value == weightEval 0 (BitVec.ofNat 7 (weightSlot value)) (value.toNat % 8)

/-- The numbers of K rows that a part can have completed at a fault of its tile (R263, R274): an enabled flag comes after all of
them, a check before any; the weights of row r lie in slot r mod 85, and before its last group of eight columns the part has
completed no row for all its elements. -/
def ChildUnit.kdones (u : ChildUnit) (cause : BitVec 8) (value : Word) : List Nat :=
  if cause = Cause.fpEnabled then [u.krows]
  else if weightFault cause value then
    let rows := (List.range u.krows).filter fun r => r % 85 == weightSlot value
    (if u.wide && !rows.isEmpty then [0] else []) ++ rows
  else [0]

/-- Such a number. -/
def ChildUnit.kdoneOk (u : ChildUnit) (cause : BitVec 8) (value : Word) (kdone : Nat) : Bool :=
  (u.kdones cause value).contains kdone

/-- The one that holds at a fault of this tile's own part, which does not say where in its work it stood (log 55). -/
def State.kdoneAt (s : State) (u : ChildUnit) (cause : BitVec 8) (value : Word) : Nat :=
  (turn (u.kdones cause value) (Config.choice s.free)).getD 0

/-- The join of a block at the cutting level, from what its parts have read (R261). -/
def State.joinOf (s : State) (c : Ctx) (r : TileRun) (u : ChildUnit) : ChildUnit :=
  let e := { s.partEnv c r u with runner := .hub, dry := true, kpart := none }
  match (runTensor e (s.setErrors { s.hub.errors with bad := [] })).2 with
  | .ok x => { u with bytes := x.1, flags := x.2 }
  | .error _ => u

/-- A part commits: its bytes are written as a group, its flags are gathered, and an enabled flag is a fault of the level at
which the bits were formed. -/
def State.commitUnit (s : State) (c : Ctx) (r : TileRun) (u : ChildUnit) : State :=
  let n := c.id
  let r := r.mark u.path 1
  let outs := if r.kparts = 0 then [u] else (r.joined u).map (s.joinOf c r)
  let flags := outs.foldl (fun a v => a ||| v.flags) 0
  let s := s.hubCommit (outs.flatMap fun v => v.bytes)
  let s := s.updRun n fun _ => { r with flags := r.flags ||| flags }
  if !r.enabled flags then s
  else
    let rows := ((r.siblings u).map fun v => v.krows).sum
    s.levelFault n (u.fails (if r.kparts = 0 then 2 else 5) Cause.fpEnabled (flags.setWidth 64) rows)

/-- A TCOLL is the head instruction. -/
def TileRun.collective (r : TileRun) : Bool := decide ((r.insns.headD 0).toNat / 2 ^ 24 % 64 = 13)

/-- A part can end: of this tile, when its sequencer has committed it or has failed; of another, when its turn comes and no
write-blocked page stalls it. -/
def TileRun.hasRun (r : TileRun) (own : BitVec 24) (u : ChildUnit) : Bool :=
  u.ready && u.blocked.isNone && (u.tile != own || r.collective || u.state == 3 || u.fault.isSome)

/-- The strip's table still holds the part's records in the generation that its handle names; else the handle is stale (R27,
R259). -/
def State.childStale (s : State) (u : ChildUnit) : Option (BitVec 8 × Word) :=
  match u.handles[2]? with
  | none => none
  | some h =>
    let slot := h.toNat / 2 ^ 12
    if s.hub.staging.any fun x => x.level == 3 && x.unit == u.strip && x.slot == slot && x.gen.toNat == h.toNat % 2 ^ 12 then none
    else some (Cause.handleStale, h.setWidth 64)

/-- What a tile computes for its part: its handles are checked, and its inputs read. -/
def State.runPart (s : State) (e : TileEnv) (u : ChildUnit) : State × Except TileStop (List StagedByte × Flags) :=
  match s.childStale u with
  | some f => (s, .error (.fault f.1 f.2))
  | none => runTensor e s

/-- Replace a part of a stream. -/
def State.putUnit (s : State) (n : Nat) (u : ChildUnit) : State :=
  s.updRun n fun r => { r with units := r.units.map fun (v : ChildUnit) => if v.path = u.path then u else v }

/-- A part fails at its tile. -/
def State.unitFails (s : State) (n : Nat) (u : ChildUnit) (cause : BitVec 8) (value : Word) : State :=
  (s.levelFault n (u.fails 2 cause value (s.kdoneAt u cause value))).goOn n

/-- A part ends: what this tile's sequencer has run commits, or its fault is reported; another tile's runs now (R152, R254). -/
def State.endUnit (s : State) (c : Ctx) (r : TileRun) (u : ChildUnit) : State :=
  match u.fault with
  | some (cause, v) => s.unitFails c.id u cause v
  | none =>
    if u.state = 3 || r.collective then (s.commitUnit c r u).goOn c.id
    else match s.runPart (s.partEnv c r u) u with
      | (s, .error (.blocked t)) => s.putUnit c.id { u with blocked := some t }
      | (s, .error (.fault cause v)) => s.unitFails c.id u cause v
      | (s, .ok (bytes, flags)) => (s.commitUnit c r { u with bytes := bytes, flags := flags }).goOn c.id

/-- CHILD_COMPLETE: the tile's part commits and completes up the levels, and the stream goes on when it was the last. At a
level above, a start that waited is tried again. -/
def execChildComplete (ctx level : Nat) (coord : BitVec 24) (s : State) : Out :=
  match s.ctxOf ctx with
  | none => .next s
  | some c =>
    match c.run with
    | none => .next s
    | some r =>
      if level ≠ 2 then .next (s.goOn ctx)
      else match currentUnit r.units fun u => u.tile == coord with
        | none => .next (s.goOn ctx)
        | some u => if !r.hasRun s.own u then .next s else .next (s.endUnit c r u)

/-- CHILD_FAULT_REPORT: the unit at `coord` of level 2, 3 or 4 has faulted while it ran its current instruction; at level 5 the
package has. A report whose KDONE no such fault leaves comes from no unit. `child` stands where the spec leaves CHILD open. -/
def execChildFaultReport (ctx level : Nat) (coord : BitVec 24) (cause : BitVec 8) (value : Word) (child kdone : BitVec 32)
    (s : State) : Out :=
  match (s.ctxOf ctx).bind Ctx.run with
  | none => .next s
  | some r =>
    let here (u : ChildUnit) : Bool :=
      match level with
      | 2 => u.tile == coord
      | 3 => u.strip == (s.stripNo coord).toNat
      | 4 => u.strip / 64 == (coordDie coord).toNat
      | _ => true
    if level < 2 ∨ 5 < level then .next s
    else match currentUnit r.units here with
      | none => .next s
      | some u =>
        if level = 2 ∧ !u.kdoneOk cause value kdone.toNat then .next s
        else
          let u := if u.handles.isEmpty then { u with handles := List.replicate 3 child } else u
          .next ((s.levelFault ctx (u.fails level cause value kdone.toNat)).goOn ctx)

end Sys2Proof.Machine
end

