-- ==== Sys2Proof/Machine/Sequencer.lean ====
section
/-!
DEFINITION. The tile sequencer: starting and committing what it runs, the resident context's instructions and the parts of TILE
packets (R152, R154, R155, R158, R259, R274).
-/

namespace Sys2Proof.Machine

/-! ### Parts of TILE packets (R152) -/

/-- A context's part at this tile that its sequencer may start. -/
def State.childOf (s : State) (c : Ctx) : Option (Nat × ChildUnit) :=
  match c.run with
  | none => none
  | some r =>
    match currentUnit r.units fun u => u.tile == s.own with
    | some u => if c.ended.isNone && u.state == 0 && u.ready && u.fault.isNone && !r.collective then some (c.id, u) else none
    | none => none

/-- The part that starts next: it comes after the instructions of the resident context, and not while the sequencer is stopped or
runs one, nor, when it borrows the matrix unit, before the A-words passed until now (R152, R158). -/
def State.nextChild (s : State) : Option (Nat × ChildUnit) :=
  let own := s.tile.seq.queue.any fun x => match x with
    | .insn _ => true
    | .marker _ => false
  if own || s.tile.seq.stopped || s.tile.seq.running.isSome then none
  else match s.hub.fe.ctxs.findSome? s.childOf with
    | none => none
    | some (n, u) =>
      if ((s.ctxOf n).bind Ctx.run).any (fun r => borrowingTop (r.insns.headD 0)) && !s.caughtUp then none else some (n, u)

/-- Start a part: it is computed as the tile's own instructions are, and its failure is reported. What it forms of a K part stays
with the join (R261). -/
def State.startChild (s : State) (n : Nat) (u : ChildUnit) : State :=
  match s.ctxOf n with
  | none => s
  | some c =>
    match c.run with
    | none => s
    | some r =>
      let insn := r.insns.headD 0
      let e := s.partEnv c r u
      match s.runPart e u with
      | (s, .error (.blocked t)) => s.stallSeq t
      | (s, .error (.fault c v)) => s.putUnit n { u with fault := some (c, v), state := 3 }
      | (s, .ok (bytes, flags)) =>
        let s := s.putUnit n { u with bytes := bytes, flags := flags }
        let s := if borrowingTop insn then s.borrow else s
        s.begun (.child n u.path)

/-- A part ends at this tile: its bytes are written as a group, unless an MMA found a bad weight; its report is on the way. -/
def State.childCommit (s : State) (n : Nat) (path : List Nat) : State :=
  match (s.ctxOf n).bind Ctx.run with
  | none => s
  | some r =>
    match r.units.find? fun u => u.path == path with
    | none => s
    | some u =>
      match s.weightUpset u.krows with
      | some (slot, j) => s.putUnit n { u with fault := some (Cause.softError, weightEval 0 slot j.val), state := 3 }
      | none =>
        let s := if r.kparts = 0 then (s.commitBytes u.bytes).flushHome else s
        s.putUnit n { u with bytes := [], state := 3 }

/-! ### The engine -/

/-- TILE_INSN_START (R154): the head instruction starts when nothing runs and the sequencer is not stopped; without one, a part
of a TILE packet. Nothing starts while a context switch runs (R157), or while the sequencer stalls at a write-blocked page. -/
def execTileInsnStart (s : State) : Out :=
  if s.switching || s.seqStalls then .next s
  else match s.nextChild with
    | some (n, u) => .next (s.startChild n u)
    | none =>
      match s.tile.seq.stopped, s.tile.seq.running, s.tile.seq.queue with
      | false, none, .insn i :: _ =>
        let e := s.tileEnv i
        if e.top = 13 then .next (s.startColl e)
        else match s.stage e with
          | (s', some x) => .next (((if i.borrows then s'.borrow else s')).begun x)
          | (s', none) => .next s'
      | _, _, _ => .next s

/-- TILE_INSN_COMMIT (R155): the running instruction commits, or its fault is held; the borrowed matrix unit comes back in
either case (R158). -/
def execTileInsnCommit (s : State) : Out :=
  if s.switching then .next s
  else
    let back (s : State) : State := if s.runningBorrows then s.returnMatrix else s
    match s.tile.seq.running, s.tile.seq.queue with
    | some (.outputs bs fl rows), .insn _ :: _ =>
      match s.weightUpset rows with
      | some (slot, j) => .next ((back s).insnFails Cause.softError (weightEval 0 slot j.val))
      | none => .next ((back (s.commitBytes bs)).insnDone fl)
    | some (.handle r v), .insn _ :: _ =>
      .next ((s.setRegs { s.tile.regs with h := s.tile.regs.h.set r.toNat v r.isLt }).insnDone 0)
    | some (.grant g), .insn _ :: _ =>
      .next ((s.setMatrix { s.tile.matrix with cfg := cfgPut s.tile.matrix.cfg 128 64 g.toNat }).insnDone 0)
    | some (.failed c v), .insn _ :: _ => .next ((back s).insnFails c v)
    | some (.child n path), _ => .next ((back (s.childCommit n path)).setSeq { s.tile.seq with running := none })
    | _, _ => .next s

end Sys2Proof.Machine
end

