-- ==== Sys2Proof/Machine/Registers.lean ====
section
/-!
DEFINITION. Control registers of BAR 0: reads, writes without behaviour of their own, and the access counter registers that have it
(R5, R295, R350, R364, R380, R381, R390, R393, R396, Tables 13.7, 16.3, 18.3, 18.4, 21.1 to 21.5).
-/

namespace Sys2Proof.Machine

/-! ### Access counters (R295, Table 13.7) -/

/-- The access counter unit of a die. -/
def State.acu (s : State) (d : BitVec 2) : AccUnit := s.hub.acu.get d.toFin

/-- ACCTL_CLR: every counter and every pending notification. -/
def execAcctlClr (d : BitVec 2) (s : State) : Out := .next (s.setAcu d { s.acu d with entries := [], order := [] })

/-- ACRST_WRITE: the named page's counter and its pending notification, at one instant. -/
def execAcrstWrite (d : BitVec 2) (value : Word) (s : State) : Out :=
  let ctxid : BitVec 12 := value.setWidth 12
  let base : Word := value &&& 0x007FFFFFFFFFF000
  let u := s.acu d
  .next (s.setAcu d { u with
    entries := u.entries.filter fun e => !e.is ctxid base
    order := u.order.filter fun x => x != (ctxid, base) })

/-- Post pending notifications, in the order in which they became pending, while the queue has room. -/
def State.postPending (s : State) (d : BitVec 2) : Nat → State
  | 0 => s
  | n + 1 =>
    let u := s.acu d
    match u.order with
    | [] => s
    | (ctxid, base) :: rest =>
      if !u.room then s
      else
        let u' := { u with order := rest, entries := u.entries.map fun (x : AccEntry) => if x.is ctxid base then { x with pending := false } else x }
        let s := s.setAcu d u'
        match u.entries.find? fun x => x.is ctxid base with
        | some e => (s.postNotice d e).postPending d n
        | none => s.postPending d n

/-- Post every pending notification for which there is room. -/
def State.postAll (s : State) (d : BitVec 2) : State := s.postPending d (s.acu d).order.length

/-- ANQH_WRITE. -/
def execAnqhWrite (d : BitVec 2) (head : BitVec 32) (s : State) : Out :=
  .next ((s.setAcu d { s.acu d with head := head }).postAll d)

/-! ### Blocks of BAR 0 (R380, Table 21.2) -/

/-- The hub status block (Table 21.3). -/
def State.writeStatusBlock (s : State) (off : Nat) (v : Word) : State :=
  match off with
  | 0x18 => s.setBoot { s.hub.boot with rtmo := v.setWidth 16 }
  | 0x28 => s.setFe { s.hub.fe with qdtb := v }
  | 0x30 => s.setSnap { s.hub.snap with halt := v.getLsbD 26, pinEn := v.getLsbD 25, trapEn := v.extractLsb' 1 23 }
  | _ => s

/-- The package power registers (Table 18.3). -/
def State.writePowerBlock (s : State) (off : Nat) (v : Word) : State :=
  match off with
  | 0x08 => s.setPw { s.hub.power with prej := clampCap (v.setWidth 12) }
  | 0x10 => s.setPw { s.hub.power with gceil := clampCap (v.setWidth 12) }
  | _ => s

/-- The host outbound windows (R381, Table 21.4): while LOCK is 0. -/
def State.writeWindow (s : State) (off : Nat) (v : Word) : State :=
  let b := s.hub.boot
  if b.lock ∨ 0x100 ≤ off then s
  else
    let n : BitVec 4 := BitVec.ofNat 4 (off / 16)
    if off % 16 = 0 then s.setBoot { b with howb := b.howb.set n.toNat (v &&& 0xFFFFFFFFFFFFF001) n.isLt }
    else s.setBoot { b with howl := b.howl.set n.toNat (v &&& 0xFFFFFFFFFFFFF000) n.isLt }

/-- The Sweut control block (Table 16.3). -/
def State.writeSweutBlock (s : State) (off : Nat) (v : Word) : State :=
  let a : BitVec 4 := BitVec.ofNat 4 (off / 0x100)
  match off % 0x100 with
  | 0x00 => s.setAtt a { s.att a with jtmo := v.extractLsb' 32 16 }
  | 0x18 => s.setAtt a { s.att a with berth := v.setWidth 32 }
  | _ => s

/-- The routing table (Table 21.5). -/
def State.writeRoute (s : State) (p : Nat) (v : Word) : State :=
  s.setBoot { s.hub.boot with route := assocPut p (v.setWidth 16 &&& 0xF03F) s.hub.boot.route }

/-- The access counters of a die (Table 13.7). Pending notifications are posted when ANQB has been rewritten. -/
def State.writeCounterBlock (s : State) (d : BitVec 2) (off : Nat) (v : Word) : State :=
  let u := s.acu d
  match off with
  | 0x00 => s.setAcu d { u with en := v.getLsbD 0 }
  | 0x08 => s.setAcu d { u with thr := v.setWidth 32 }
  | 0x10 => (s.setAcu d { u with anqb := v }).postAll d
  | 0x18 =>
    let n := v.toNat % 16
    if 4 ≤ n ∧ n ≤ 12 then s.setAcu d { u with logn := BitVec.ofNat 4 n } else s
  | _ => s

/-- The strip registers of a die (Table 18.4): 64 strips, two to each of the 32 physical rows (R364), 0x40 apart. -/
def State.writeStripBlock (s : State) (d : BitVec 2) (off : Nat) (v : Word) : State :=
  let i := off / 0x40
  if off % 0x40 ≠ 8 ∨ 64 ≤ i then s
  else
    let n : BitVec 8 := BitVec.ofNat 8 (d.toNat * 64 + i)
    let x := s.strip n
    let code : BitVec 4 := v.extractLsb' 16 4
    s.setStrip n { x with tthr := v.setWidth 16, tcode := if code.toNat ≤ 9 then code else x.tcode }

/-- A dword of BAR 0, written by the host or by firmware. The PCI Express function takes the writes in minimal mode too, when the
recovery window is present (R387; log 59). The host outbound windows are the host's to write (R381). -/
def State.writeRegister (s : State) (host : Bool) (off : Nat) (v : Word) : State :=
  if 0x800000 ≤ off then
    if s.hub.boot.mini then s.setBoot { s.hub.boot with recov := s.hub.boot.recov.writeWord (off - 0x800000) v } else s
  else if off < 0x1000 then s.writeStatusBlock off v
  else if off < 0x2000 then s.writePowerBlock (off - 0x1000) v
  else if off < 0x3000 then (if host then s.writeWindow (off - 0x2000) v else s)
  else if off < 0x10000 then s
  else if off < 0x11000 then s.writeSweutBlock (off - 0x10000) v
  else if off < 0x20000 then s
  else if off < 0x28000 then s.writeRoute ((off - 0x20000) / 8) v
  else if off < 0x100000 ∨ 0x500000 ≤ off then s
  else
    let d : BitVec 2 := BitVec.ofNat 2 (off / 0x100000 - 1)
    let o := off % 0x100000
    if o < 0x1000 then s.writeCounterBlock d o v else if o < 0x2000 then s.writeStripBlock d (o - 0x1000) v else s

/-- REGISTER_WRITE: an aligned dword of BAR 0, by the host or by firmware. Registers whose write has an operation of its own, read-only fields, reserved
bits and offsets without a register keep their values. -/
def execRegisterWrite (offset : BitVec 24) (write : BarWrite) (s : State) : Out :=
  .next (if offset.toNat % 8 = 0 then s.writeRegister write.host offset.toNat write.value else s)

/-! ### Reads (R5, R380): a WO field, a reserved bit and an offset without a register read as zero -/

/-- The hub status block (Table 21.3). -/
def State.readStatusBlock (s : State) (off : Nat) : Word :=
  let k := s.hub.snap
  match off with
  | 0x00 => s.hub.boot.bootstat
  | 0x08 => if s.hub.fe.fbact then 1 else 0
  | 0x10 => s.hub.boot.pkgidWord
  | 0x18 => BitVec.ofNat 64 (max 1 s.hub.boot.rtmo.toNat)
  | 0x28 => s.hub.fe.qdtb
  | 0x30 => BitVec.ofNat 64 ((if k.halt then 2 ^ 26 else 0) + (if k.pinEn then 2 ^ 25 else 0) + (if k.trig then 2 ^ 24 else 0)
      + 2 * k.trapEn.toNat)
  | 0x40 => k.cyc
  | _ => 0

/-- The package power registers (Table 18.3). -/
def State.readPowerBlock (s : State) (off : Nat) : Word :=
  let p := s.hub.power
  match off with
  | 0x00 => p.pcap.setWidth 64
  | 0x08 => p.prej.setWidth 64
  | 0x10 => BitVec.ofNat 64 (p.nclamp.toNat * 2 ^ 48 + (if p.clamp then 2 ^ 16 else 0) + p.gceil.toNat)
  | 0x18 => BitVec.ofNat 64 ((if p.refz then 2 ^ 48 else 0) + p.melt.toNat * 2 ^ 32 + p.quj / 1000000)
  | 0x20 => p.ppwr.setWidth 64
  | _ => 0

/-- The host outbound windows (Table 21.4). -/
def State.readWindow (s : State) (off : Nat) : Word :=
  let b := s.hub.boot
  if off = 0x100 then (if b.lock then 1 else 0)
  else if 0x100 ≤ off then 0
  else
    let n : BitVec 4 := BitVec.ofNat 4 (off / 16)
    if off % 16 = 0 then b.howb.get n.toFin else b.howl.get n.toFin

/-- The Sweut control block (Table 16.3). -/
def State.readSweutBlock (s : State) (off : Nat) : Word :=
  let x := s.busNow (BitVec.ofNat 4 (off / 0x100))
  let o := off % 0x100
  let wave (base : Nat) : Wave := x.waves.get (BitVec.ofNat 3 ((o - base) / 8)).toFin
  if o = 0x00 then
    BitVec.ofNat 64 (max 1 x.jtmo.toNat * 2 ^ 32 + (if x.up then 2 ^ 24 else 0) + x.actw.toNat * 2 ^ 16 + x.acklag.toNat * 2 ^ 12
      + x.wlim.toNat * 2 ^ 8 + x.nstn.toNat * 2 ^ 4 + x.stn.toNat)
  else if o = 0x08 then
    match x.busy with
    | [] => 0
    | (g, f) :: _ => if reached (s.frame (BitVec.ofNat 4 (off / 0x100))) f then BitVec.ofNat 64 (2 ^ 16 + g.toNat * 2 ^ 4) else 0
  else if o = 0x10 then BitVec.ofNat 64 (x.nfail.toNat * 2 ^ 16 + x.lfGroup.toNat * 2 ^ 4 + x.reason.toNat)
  else if o = 0x18 then x.berth.setWidth 64
  else if 0x20 ≤ o ∧ o < 0x60 then
    let v := wave 0x20
    BitVec.ofNat 64 (v.bere.toNat * 2 ^ 32 + v.corr.toNat)
  else if 0x60 ≤ o ∧ o < 0xA0 then
    let v := wave 0x60
    BitVec.ofNat 64 (v.retr.toNat * 2 ^ 16 + v.ldly.toNat * 2 ^ 8 + v.state.toNat)
  else if o = 0xA0 then BitVec.ofNat 64 (x.done.toNat * 2 ^ 32 + x.resent.toNat)
  else 0

/-- The routing table (Table 21.5). -/
def State.readRoute (s : State) (p : Nat) : Word := ((assocGet p s.hub.boot.route).getD 0).setWidth 64

/-- The access counters of a die (Table 13.7). -/
def State.readCounterBlock (s : State) (d : BitVec 2) (off : Nat) : Word :=
  let u := s.acu d
  match off with
  | 0x00 => BitVec.ofNat 64 (u.drops.toNat * 2 ^ 32 + (if u.en then 1 else 0))
  | 0x08 => u.thr.setWidth 64
  | 0x10 => u.anqb
  | 0x18 => u.logn.setWidth 64
  | 0x20 => u.tail.setWidth 64
  | 0x28 => u.head.setWidth 64
  | _ => 0

/-- The strip registers of a die (Table 18.4). -/
def State.readStripBlock (s : State) (d : BitVec 2) (off : Nat) : Word :=
  let x := s.strip (BitVec.ofNat 8 (d.toNat * 64 + off / 0x40))
  match off % 0x40 with
  | 0x00 => BitVec.ofNat 64 (x.tcnt.toNat * 2 ^ 32 + (if x.thr then 2 ^ 16 else 0) + x.temp.toNat)
  | 0x08 => BitVec.ofNat 64 (x.tcode.toNat * 2 ^ 16 + x.tthr.toNat)
  | 0x10 => BitVec.ofNat 64 ((if x.capl then 2 ^ 24 else 0) + x.code.toNat * 2 ^ 20 + x.vlvl.toNat * 2 ^ 16 + x.pwr.toNat)
  | 0x18 => BitVec.ofNat 64 (x.id.toNat * 2 ^ 48 + s.remaining x % 2 ^ 32 * 2 ^ 16 + x.extra.toNat * 2 ^ 8 + x.st.toNat)
  | _ => 0

/-- The control block of a die: access counters, strips, the discovery map and the tile snapshot sets. -/
def State.readDieBlock (s : State) (d : BitVec 2) (off : Nat) : Word :=
  if off < 0x1000 then s.readCounterBlock d off
  else if off < 0x2000 then s.readStripBlock d (off - 0x1000)
  else if 0x27C0 ≤ off ∧ off < 0x2800 then 0
  else if off < 0x2C00 then (s.hub.disc.get d.toFin).lmap.readWord (off - 0x2000)
  else if 0x10000 ≤ off ∧ off < 0x20000 then
    ((assocGet (d.toNat * 1024 + (off - 0x10000) / 64) s.hub.snap.sets).getD []).getD (off / 8 % 8) 0
  else 0

/-- The attestation mailbox: the latest report (R393); in minimal mode its last dword is the check that rejected the last recovery
image (R387; log 12). -/
def State.readMailbox (s : State) (off : Nat) : Word :=
  let b := s.hub.boot
  if b.mini = true ∧ off = 0xCFF8 then b.diag.setWidth 64 else BitVec.ofNat 64 (bytesNat ((b.report.drop off).take 8))

/-- An aligned dword of BAR 0 as the host, or the buck core at 0x1_0000_0000, reads it. -/
def State.readRegister (s : State) (off : Nat) : Word :=
  if off < 0x1000 then s.readStatusBlock off
  else if off < 0x2000 then s.readPowerBlock (off - 0x1000)
  else if off < 0x3000 then s.readWindow (off - 0x2000)
  else if off < 0x10000 then s.readMailbox (off - 0x3000)
  else if off < 0x11000 then s.readSweutBlock (off - 0x10000)
  else if off < 0x20000 then 0
  else if off < 0x28000 then s.readRoute ((off - 0x20000) / 8)
  else if off < 0x100000 then 0
  else if off < 0x500000 then s.readDieBlock (BitVec.ofNat 2 (off / 0x100000 - 1)) (off % 0x100000)
  else if 0x800000 ≤ off ∧ off < 0x1000000 ∧ s.hub.boot.mini then s.hub.boot.recov.readWord (off - 0x800000)
  else 0

end Sys2Proof.Machine
end

