-- ==== Sys2Proof/Machine/Handler.lean ====
section
/-!
DEFINITION. What the resident supervisor handler of the executing tile does with a trap (R229, R318, Table 15.8; log 48).
-/

namespace Sys2Proof.Machine

/-- The access half stands at the first bundle of the resident handler. -/
def State.atHandler (s : State) : Bool :=
  s.hub.boot.handler && s.sup && !s.hub.snap.frozen && s.tile.front.started && s.tile.front.ast != .halted && s.tile.front.latch.isNone && s.tile.wait == .idle
    && s.tile.front.apc == Config.handlerEvec

/-- The handler ends with TRET, whose bundle is 3 with its A-word done. -/
def State.handlerEnds (s : State) : State :=
  s.setFront { s.tile.front with latch := some { bundle := 3, begun := false, passed := true } }

/-- The workspace at which the resident context was interrupted is the one at which it goes on (R35, R318). -/
def State.noteWp (s : State) : State := s.updCtx s.tile.res.ctx fun c => { c with wp := s.tile.csr.ewp }

/-- Switch to a workspace, or resume the same context where it is the interrupted one. -/
def State.handlerTo (s : State) (ws : Word) : State := s.noteWp.setCsr { s.tile.csr with ewp := ws }

/-- The next context in assignment order takes over where there is one. -/
def State.handlerRotate (s : State) : State :=
  match s.nextCtx with
  | some c => (s.handlerTo c.wp).setRes { s.tile.res with quantum := s.cycle }
  | none => s

/-- Append one notice word to the inbox: cause, EVAL[15:0] and bit 63. An inbox without room takes none (log 48). -/
def State.notice (s : State) (cause : BitVec 8) (value : Word) : State :=
  if s.inboxRoom 1 then
    s.setNet { s.tile.net with inbox := s.tile.net.inbox ++
      [cause.setWidth 64 ||| ((value &&& 0xFFFF) <<< 8) ||| ((1 : Word) <<< 63)] }
  else s

/-- Park the resident context, with its event or, for the debug port, without one; the next context takes over. -/
def State.handlerParks (s : State) (event : Bool) (value epc : Word) : State :=
  let n := s.tile.res.ctx
  let s := if event then s.handlerPark n s.own value epc
    else s.updCtx n fun c => { c with parked := some (c.parked.getD (value, epc, s.own)) }
  s.handlerRotate.handlerEnds

/-- The action of Table 15.8. -/
def State.handle (s : State) : State :=
  let n := s.tile.res.ctx
  let cause : BitVec 8 := s.tile.csr.ecause.setWidth 8
  let value := s.tile.csr.eval
  let epc := s.mem.readWord (s.progressAddr false)
  let kill (status : BitVec 8) : State := s.killCtx n status value epc s.own
  if cause = Cause.preempt then
    if value = 0 then (if s.tile.csr.escr = s.tile.csr.ewp then s else s.handlerTo s.tile.csr.escr).handlerEnds
    else s.handlerRotate.handlerEnds
  else if cause = Cause.leaseExpiry ∨ cause = Cause.capBreach ∨ cause = Cause.gangBreak then (s.notice cause value).handlerEnds
  else if cause = Cause.scopeMiss then
    if s.releaseWaits then s else (s.release (value.toNat % 8)).handlerEnds
  else if cause = Cause.pageFault then s.handlerParks true value epc
  else if cause = Cause.allAsleep then
    match s.ctxOf n with
    | some c => if s.ctxIdle c then s.endCtx n 0 0 0 0 else kill Cause.allAsleep
    | none => s
  else if cause = Cause.brk ∧ value.getLsbD 63 then s.handlerParks false value epc
  else kill cause

/-- The handler acts, where the access half stands at it. -/
def State.handlerActs (s : State) : State := if s.atHandler then s.handle else s

/-- The TRET of the handler would go back to a parked context: it waits until PFR or the debug port lets it go on. For a CHECKPOINT
it goes on to save it (R300). -/
def State.parkedHere (s : State) : Bool :=
  s.sup && s.tile.wait == .idle && !s.mustSave && s.tile.front.latch == some { bundle := 3, begun := false, passed := true }
    && (s.ctxOf s.tile.res.ctx).any fun c => c.parked.isSome && s.tile.csr.ewp == c.wp

end Sys2Proof.Machine
end

