-- ==== Sys2Proof/Machine/Repeat.lean ====
section
/-!
DEFINITION. The reissued word of a repeat (R101).
-/

namespace Sys2Proof.Machine

/-- A vector register name 0 to 15, `n` further modulo 16; ports and z stay. -/
def turnReg (n : Nat) (x : BitVec 5) : BitVec 5 := if x.toNat < 16 then BitVec.ofNat 5 ((x.toNat + n) % 16) else x

/-- renumber: each position that an A-word's entry defines as a vector register name. -/
def renumber (n : Nat) (i : Instr) : Instr :=
  match i with
  | .vadd g d a b t => .vadd g (turnReg n d) (turnReg n a) (turnReg n b) t
  | .vsub g d a b t => .vsub g (turnReg n d) (turnReg n a) (turnReg n b) t
  | .vmul g d a b t => .vmul g (turnReg n d) (turnReg n a) (turnReg n b) t
  | .vmulh g d a b t => .vmulh g (turnReg n d) (turnReg n a) (turnReg n b) t
  | .vmin g d a b t => .vmin g (turnReg n d) (turnReg n a) (turnReg n b) t
  | .vmax g d a b t => .vmax g (turnReg n d) (turnReg n a) (turnReg n b) t
  | .vand g d a b t => .vand g (turnReg n d) (turnReg n a) (turnReg n b) t
  | .vor g d a b t => .vor g (turnReg n d) (turnReg n a) (turnReg n b) t
  | .vxor g d a b t => .vxor g (turnReg n d) (turnReg n a) (turnReg n b) t
  | .vshl g d a b t => .vshl g (turnReg n d) (turnReg n a) (turnReg n b) t
  | .vshr g d a b t => .vshr g (turnReg n d) (turnReg n a) (turnReg n b) t
  | .vsra g d a b t => .vsra g (turnReg n d) (turnReg n a) (turnReg n b) t
  | .vabs g d a t => .vabs g (turnReg n d) (turnReg n a) t
  | .vneg g d a t => .vneg g (turnReg n d) (turnReg n a) t
  | .vadds g d a b t => .vadds g (turnReg n d) (turnReg n a) (turnReg n b) t
  | .vsubs g d a b t => .vsubs g (turnReg n d) (turnReg n a) (turnReg n b) t
  | .fadd g d a b t => .fadd g (turnReg n d) (turnReg n a) (turnReg n b) t
  | .fsub g d a b t => .fsub g (turnReg n d) (turnReg n a) (turnReg n b) t
  | .fmul g d a b t => .fmul g (turnReg n d) (turnReg n a) (turnReg n b) t
  | .fmin g d a b t => .fmin g (turnReg n d) (turnReg n a) (turnReg n b) t
  | .fmax g d a b t => .fmax g (turnReg n d) (turnReg n a) (turnReg n b) t
  | .fabs g d a t => .fabs g (turnReg n d) (turnReg n a) t
  | .fneg g d a t => .fneg g (turnReg n d) (turnReg n a) t
  | .ffma g d a b t => .ffma g (turnReg n d) (turnReg n a) (turnReg n b) t
  | .vcmpEq g d a b t => .vcmpEq g (turnReg n d) (turnReg n a) (turnReg n b) t
  | .vcmpNe g d a b t => .vcmpNe g (turnReg n d) (turnReg n a) (turnReg n b) t
  | .vcmpLt g d a b t => .vcmpLt g (turnReg n d) (turnReg n a) (turnReg n b) t
  | .vcmpLe g d a b t => .vcmpLe g (turnReg n d) (turnReg n a) (turnReg n b) t
  | .vcmpGt g d a b t => .vcmpGt g (turnReg n d) (turnReg n a) (turnReg n b) t
  | .vcmpGe g d a b t => .vcmpGe g (turnReg n d) (turnReg n a) (turnReg n b) t
  | .vcmpOrd g d a b t => .vcmpOrd g (turnReg n d) (turnReg n a) (turnReg n b) t
  | .vcmpUno g d a b t => .vcmpUno g (turnReg n d) (turnReg n a) (turnReg n b) t
  | .vtestAny g c a t => .vtestAny g c (turnReg n a) t
  | .vtestAll g c a t => .vtestAll g c (turnReg n a) t
  | .vsel g d a b => .vsel g (turnReg n d) (turnReg n a) (turnReg n b)
  | .frcp g d a t => .frcp g (turnReg n d) (turnReg n a) t
  | .frsq g d a t => .frsq g (turnReg n d) (turnReg n a) t
  | .fsqrt g d a t => .fsqrt g (turnReg n d) (turnReg n a) t
  | .fexp2 g d a t => .fexp2 g (turnReg n d) (turnReg n a) t
  | .flog2 g d a t => .flog2 g (turnReg n d) (turnReg n a) t
  | .ftanh g d a t => .ftanh g (turnReg n d) (turnReg n a) t
  | .vcvt g d a r s t => .vcvt g (turnReg n d) (turnReg n a) r s t
  | .vqnt g d a k t => .vqnt g (turnReg n d) (turnReg n a) k t
  | .vdq g d a k t => .vdq g (turnReg n d) (turnReg n a) k t
  | .vpack g d a b => .vpack g (turnReg n d) (turnReg n a) (turnReg n b)
  | .vunpk g d a h => .vunpk g (turnReg n d) (turnReg n a) h
  | .vrsum g d a t => .vrsum g (turnReg n d) (turnReg n a) t
  | .vrmax g d a t => .vrmax g (turnReg n d) (turnReg n a) t
  | .vrmin g d a t => .vrmin g (turnReg n d) (turnReg n a) t
  | .vtopk g d a b t => .vtopk g (turnReg n d) (turnReg n a) (turnReg n b) t
  | .vshuf g d a b t => .vshuf g (turnReg n d) (turnReg n a) (turnReg n b) t
  | .vbcst g d a l t => .vbcst g (turnReg n d) (turnReg n a) l t
  | .vslide g d a k t => .vslide g (turnReg n d) (turnReg n a) k t
  | .vidx g d a t => .vidx g (turnReg n d) (turnReg n a) t
  | .vrng g d a w t => .vrng g (turnReg n d) (turnReg n a) w t
  | .vmov g d a => .vmov g (turnReg n d) (turnReg n a)
  | .mrd g d j h c => .mrd g (turnReg n d) j h c
  | .mcfg g d a => .mcfg g (turnReg n d) (turnReg n a)
  | i => i

/-- How far the next issue is renumbered: (RITER × RSTR) mod 16 while a repeat reissues. -/
def RepeatState.turn (r : RepeatState) : Nat := if r.ract then r.riter.toNat * r.rstr.toNat % 16 else 0

end Sys2Proof.Machine
end

