-- ==== Sys2Proof/Machine/Cycle.lean ====
section
/-!
DEFINITION. What happens at a step: fetching bundles, the two halves, and what the engines, the hub and the environment do
between them (R3, R9, R10, R98 to R102, R202, R232, R236, R238, R239, R247, R268, R314, R395, R397; log 1).
-/

namespace Sys2Proof.Machine

/-- What a step does: an operation of the opcode table from a state, or something with no operation of its own. -/
inductive Action where
  | exec (i : Instr) (s : State)
  | out (o : Out)

/-! ### Time -/

/-- CYCLE moves on, not past the tick of an armed SNAPAT, of a package trigger, of the end of a hold or of a waking, which fall on
their ticks. -/
def State.nextCycle (s : State) : Word :=
  let c := s.cycle
  let upTo (lim next : Word) : Word := if c.toNat ≤ lim.toNat ∧ lim.toNat < next.toNat then lim else next
  let n := c + (Config.ticks s.free).setWidth 64
  let n := if s.tile.csr.snapArmed then upTo s.tile.csr.snapAt n else n
  let n := match s.hub.snap.latchAt with
    | some t => upTo t n
    | none => n
  match s.tile.power.state with
  | .waking => upTo (BitVec.ofNat 64 s.runsAt) n
  | .hold => if c.toNat < s.tile.power.since.toNat + holdTicks then upTo (s.tile.power.since + BitVec.ofNat 64 holdTicks) n else n
  | _ => n

/-- The hang watchdogs stand still for some ticks of a debug halt (R397). -/
def State.pauseWatchdogs (s : State) (ticks : Word) : State :=
  s.setFe { s.hub.fe with ctxs := s.hub.fe.ctxs.map fun (c : Ctx) => { c with watched := c.watched + ticks } }

/-- Time moves on. -/
def State.tick (s : State) : State :=
  let n := s.nextCycle
  let t := if s.hub.snap.frozen then s.pauseWatchdogs (n - s.cycle) else s
  let t := t.countResident (n - s.cycle).toNat
  let t := if t.tile.power.polled then t.setPower { t.tile.power with polled := false } else t
  { t with cycle := n, free := s.free + 1 }

/-! ### Fetching (R10, R95, R232, R239) -/

/-- What a fetch finds. -/
inductive Fetched where
  | bundle (w : Word)
  | trap (cause : BitVec 8) (value : Word)
  | walk
  deriving DecidableEq, Repr

/-- The place of the bundle at an address, under Table 4.1 and R10: no fetch from the staging window, whatever the mode. -/
def State.fetchPlace (s : State) (p : Word) : Place :=
  match s.resolve false .fetch p 8 8 with
  | .mem a l => if addrSpm a && inStaging (addrOff a) then .trap Cause.accessFault p else .mem a l
  | .blocked => .trap Cause.accessFault p
  | .window _ => .trap Cause.accessFault p
  | x => x

/-- Fetch a bundle from its home. -/
def State.fetchAt (s : State) (p : Word) : State × Fetched :=
  match s.fetchPlace p with
  | .mem a _ =>
    let s := s.homeRead a 8
    if (s.firstBad a 8).isSome then (s, .trap Cause.softError p) else (s, .bundle (s.mem.readWord a))
  | .trap c v => (s, .trap c v)
  | _ => (s, .walk)

/-- Bundles fetched ahead from an address, as far as they can be fetched. -/
def State.fetchAhead (s : State) : Nat → Word → List (Word × Word)
  | 0, _ => []
  | n + 1, p =>
    match s.fetchPlace p with
    | .mem a _ => if (s.firstBad a 8).isSome then [] else (p, s.mem.readWord a) :: s.fetchAhead n (nextBundle p)
    | _ => []

/-- Fetch the bundle at APC anew, and any number up to 16 of those behind it. -/
def State.fetchNew (s : State) : State × Fetched :=
  let p := s.tile.front.apc
  match s.fetchAt p with
  | (s, .bundle w) =>
    (s.setFront { s.tile.front with ahead := s.fetchAhead (Config.prefetch s.free % 17) (nextBundle p) }, .bundle w)
  | r => r

/-- The bundle at APC: one fetched ahead, or one fetched now. -/
def State.fetch (s : State) : State × Fetched :=
  match s.tile.front.ahead with
  | (a, w) :: r =>
    if a = s.tile.front.apc then (s.setFront { s.tile.front with ahead := r }, .bundle w) else s.fetchNew
  | [] => s.fetchNew

/-- The access half has a bundle in hand. -/
def State.latched (s : State) (w : Word) : State :=
  let s := s.setFront { s.tile.front with latch := some { bundle := w, begun := false, passed := s.tile.front.skip } }
  let s := if s.tile.res.gangReady then s.setRes { s.tile.res with gangReady := false } else s
  s.setPath { s.tile.path with pinned := [], walkFail := none }

/-- Execute the bundle in hand: its C-word or tile instruction, or a trap of the checks of Table 3.7. -/
def State.runBundle (s : State) (w : Word) : Action :=
  match decodeBundle (w.toNat % 2 ^ 32) (w.toNat / 2 ^ 32) with
  | .ok i => .exec i s
  | .encoding => .out (execUnassignedEncoding false true w s)
  | .unassigned => .out (execUnassignedEncoding false false w s)

/-! ### Tasks (R202, R268, R314, R323) -/

/-- A deterministic context starts a record of the list of the current superstep. -/
def State.startRecord (s : State) (i : Nat) : Out :=
  wakeThen s fun s =>
    let (p, w) := s.listRecord s.own s.tile.res.listAddr.toNat s.tile.ctx.step.toNat i
    .next ((s.startTask p w).setRes { s.tile.res with listPos := i + 1, startAt := none })

/-- The record held for the resident context. -/
def State.heldRecord (s : State) : Option (Nat × Word × List Word) := s.tile.res.held.find? fun x => x.1 == s.tile.res.ctx

/-- In the dispenser wait: the next record of the list, or the halt behind the last one; a record that the dispenser has
sent. -/
def State.nextTask (s : State) : Out :=
  if s.det then
    if s.tile.res.listPos < s.listCount s.own s.tile.res.listAddr.toNat s.tile.ctx.step.toNat then s.startRecord s.tile.res.listPos
    else if s.haltWaits && s.tile.seq.held.isNone then .next s
    else wakeThen s fun s => haltThen s id
  else match s.heldRecord with
    | some (n, p, w) => wakeThen s fun s =>
      .next ((s.setRes { s.tile.res with held := s.tile.res.held.erase (n, p, w) }).startTask p w)
    | none => .next s

/-- There is a task to start, or the list has ended. -/
def State.taskReady (s : State) : Bool := s.det || s.heldRecord.isSome

/-! ### The access half -/

/-- An asynchronous trap is taken before the access half goes on (R236). -/
def State.asyncNow (s : State) : Bool := s.asyncCause.isSome && s.atBoundary

/-- A conflict has been found and the access half stands at a bundle boundary (R180). -/
def State.conflictNow (s : State) : Bool :=
  s.tile.front.latch.isNone && (match s.tile.path.tx with
    | some t => t.conflict
    | none => false)

/-- CYCLE has reached the value before which the context issues nothing (R268, R315). -/
def State.mayIssue (s : State) : Bool :=
  match s.tile.res.startAt with
  | some t => decide (t.toNat ≤ s.cycle.toNat)
  | none => true

/-- The access half waits for something that it does not find out by itself. -/
def State.accessWaits (s : State) : Bool :=
  match s.tile.wait with
  | .remote | .lease .. | .append .. | .load => true
  | .sstep p _ _ => p != .released
  | .sleep a r l _ => !(a || r || l)
  | _ => false

/-- A gang lets the access half take a bundle: a follower has its leader's, and a leader's next one can be taken by every member
(R210). -/
def State.gangGoes (s : State) : Bool :=
  s.tile.front.latch.isSome || s.grole == 0 || (s.grole == 1 && s.tile.res.gangReady)

/-- The access half can do something at this step. It takes no bundle while the execute half waits inside an ordered operation
(log 66). -/
def State.accessReady (s : State) : Bool :=
  let f := s.tile.front
  f.started && f.ast != .halted && !s.hub.snap.frozen && s.tile.power.state != .waking
    && (s.asyncNow || (f.ordered.isNone && !s.accessWaits && s.mayIssue && (!s.dwt || s.taskReady) && s.gangGoes && !s.parkedHere))

/-- A step of the access half. -/
def State.accessStep (s : State) : Action :=
  if s.asyncNow then .out (execAsyncTrap s)
  else if s.tile.wait = .release then .out (s.startRecord 0)
  else if s.conflictNow then .out (s.abortTx 1 0)
  else if s.atHandler then .out (.next s.handle)
  else match (if s.tile.front.latch.isNone && s.tile.wait == .idle && !s.sup then s.tile.res.rejected else none) with
  | some v => .out (.next (s.rejectTrap v))
  | none =>
  if s.loopPending then .out (.next (if s.caughtUp then s.loopBack else s.stall .resource))
  else if s.dwt then .out s.nextTask
  else if s.commitStalls then .out (.next s.stallHere)
  else match s.tile.front.latch with
    | some l => s.runBundle l.bundle
    | none =>
      match s.fetch with
      | (s, .bundle w) => (s.latched w).runBundle w
      | (s, .trap c v) => .out (s.trap false c v)
      | (s, .walk) => .out (s.wantWalk s.tile.front.apc)

/-! ### The execute half -/

/-- The execute half may issue. -/
def State.executeUp (s : State) : Bool :=
  s.tile.front.started && s.tile.front.xst != .halted && !s.hub.snap.frozen && s.tile.power.state != .waking
    && s.tile.power.state != .gated && !s.switching

/-- It has to fetch the next bundle of its replay (R239). -/
def State.replayReady (s : State) : Bool :=
  s.tile.front.replay.isSome && s.tile.front.rq.isEmpty && s.headA.isNone

/-- Fetch a bundle of the replay; lone and tile forms are skipped. -/
def State.replayStep (s : State) : Action :=
  match s.tile.front.replay with
  | none => .out (.next s)
  | some (p, stop) =>
    match s.fetchAt p with
    | (s, .trap c v) => .out (s.trap true c v)
    | (s, .walk) => .out (s.wantWalk p)
    | (s, .bundle w) =>
      let n := nextBundle p
      let it : List AItem := if w.toNat / 2 ^ 30 % 4 = 0 then [{ word := BitVec.ofNat 32 (w.toNat / 2 ^ 32), addr := p }] else []
      let s := s.setFront { s.tile.front with rq := it, replay := if n.toNat < stop.toNat then some (n, stop) else none }
      .out (.next (s.setPath { s.tile.path with pinned := [], walkFail := none }))

/-- Issue the next A-word, as it stands or renumbered (R100, R101). -/
def State.issueStep (s : State) : Action :=
  match s.headA with
  | none => .out (.next s)
  | some it =>
    match decodeA it.word.toNat with
    | .ok i => .exec (if s.tile.front.rpt.riter = 0 then i else renumber s.tile.front.rpt.turn i) s
    | .encoding => .out (execUnassignedEncoding true true (it.word.setWidth 64) s)
    | .unassigned => .out (execUnassignedEncoding true false (it.word.setWidth 64) s)

/-! ### What may happen next -/

/-- One of the things that may happen next: a step of one of the halves, or an operation of the engines or the hub. -/
inductive Doing where
  | access
  | issue
  | replay
  /-- The oldest posted store to a target reaches it. -/
  | post (target : BitVec 24)
  /-- PAGE_FAULT events are posted. -/
  | flush
  | ldqRow (port : BitVec 3)
  | stqRow (port : BitVec 2)
  | copyRow (ch : BitVec 3)
  | copyEnd (idx : Nat)
  | insnStart
  | insnCommit
  | allowance
  | remoteAnswer
  | leaseRequest (power duration : Word)
  | exchangeLanded (ctx : Nat)
  | taskAppend (desc : Word) (record : List Word)
  | contextLoad
  | staggerExpire
  | sleepLimit
  | confirm (line : Word)
  | pageWalk
  | saveTimeout
  | faultReport (cause : BitVec 8) (value : Word)
  | allAsleep (ctx : Nat)
  | startPacket (queue : BitVec 10) (type : Option Nat)
  | signalPerform (queue : BitVec 10)
  | waitSatisfied (queue : BitVec 10)
  | waitTimeout (queue : BitVec 10)
  | packetComplete (queue : BitVec 10) (idx : BitVec 32)
  | childComplete (ctx level : Nat) (coord : BitVec 24)
  | barrierComplete (ctx : Nat)
  | contextComplete (ctx : Nat)
  | hangExpire (ctx : Nat)
  | quantumEnd
  | discoveryTimeout (die : BitVec 2)
  | taskDispense (ctx : Nat) (tile : BitVec 24)
  | queueMap
  | queueEvict
  | launchAdmit
  | dieAck (die : BitVec 2)
  | leaseExpire (strip : BitVec 8)
  | join (att station : BitVec 4) (fields : JoinFields)
  | withdraw (att : BitVec 4) (group : BitVec 12) (station : BitVec 4)
  | joinTimeout (att : BitVec 4) (group : BitVec 12)
  | startGroup (att : BitVec 4) (group : BitVec 12) (members : BitVec 16) (frame : BitVec 48)
  | collectiveEnd (att : BitVec 4)
  | flit (att src : BitVec 4)
  deriving DecidableEq, Repr

/-! ### What the tile's engines do -/

/-- Rows of engine 0 and copies that can move. -/
def State.engineEvents (s : State) : List Doing :=
  if s.tile.eng.fifo0.isEmpty then []
  else
    ((List.finRange 8).filterMap fun k =>
      let p := BitVec.ofNat 3 k.val
      if s.tile.eng.fifo0.any (Cmd.feeds p) && s.portRoom k then some (.ldqRow p) else none)
    ++ ((List.finRange 4).filterMap fun k =>
      let p := BitVec.ofNat 2 k.val
      if s.tile.eng.fifo0.any (Cmd.drains p) && !(s.tile.ports.outq.get k).isEmpty then some (.stqRow p) else none)
    ++ ((List.range 8).filterMap fun ch =>
      match firstOfChannel (BitVec.ofNat 3 ch) s.tile.eng.fifo0 0 with
      | some (idx, .copy _ _ ctrl i _) =>
        if ctrlStrm ctrl && decide (i < ctrlLen ctrl) then some (.copyRow (BitVec.ofNat 3 ch))
        else if s.copyRoom ctrl then some (.copyEnd idx)
        else none
      | _ => none)

/-- The tile sequencer: its head, or a part of a TILE packet, starts, or what runs commits; nothing while a context switch runs
(R157). -/
def State.seqEvents (s : State) : List Doing :=
  if s.switching || s.seqStalls then []
  else match s.tile.seq.running, s.tile.seq.queue with
    | some .collective, _ => []
    | some _, _ => [.insnCommit]
    | none, .insn _ :: _ => if s.tile.seq.stopped || s.hub.snap.frozen then [] else [.insnStart]
    | none, _ => if s.hub.snap.frozen || s.nextChild.isNone then [] else [.insnStart]

/-- A sent message can be accepted. -/
def State.sentEvents (s : State) : List Doing := if s.acceptable.isEmpty then [] else [.allowance]

/-- What ends the wait of the access half. -/
def State.waitEvents (s : State) : List Doing :=
  match s.tile.wait with
  | .remote => [.remoteAnswer]
  | .lease power duration => [.leaseRequest power duration]
  | .append desc record => [.taskAppend desc record]
  | .save => if s.saveOver then [.saveTimeout] else []
  | .load => [.contextLoad]
  | .sstep .ran _ _ => if s.allLanded s.tile.res.ctx then [.exchangeLanded s.tile.res.ctx] else []
  | .sstep (.releasing t) _ _ => if t.toNat ≤ s.cycle.toNat then [.staggerExpire] else []
  | .sleep _ _ l (some t) => if !l && decide (t.toNat ≤ s.cycle.toNat) then [.sleepLimit] else []
  | .commit =>
    match s.tile.path.tx with
    | some t => (t.lines.filter fun x => !x.confirmed).map fun x => .confirm (BitVec.ofNat 64 x.line)
    | none => []
  | _ => []

/-- The rest of the tile: a page walk, a tile-level fault, ALL_ASLEEP. -/
def State.otherEvents (s : State) : List Doing :=
  (if s.tile.path.walk.isSome then [.pageWalk] else [])
    ++ (match s.tile.res.report with
      | some (c, v, _) => [.faultReport c v]
      | none => [])
    ++ (match s.ctxOf s.tile.res.ctx with
      | some c =>
        if s.tile.pend.allAsleep.isNone && !s.hub.snap.frozen && s.allAsleep c && s.nothingInFlight c && lowestTile c.tiles == s.own then
          [.allAsleep c.id] else []
      | none => [])

/-! ### What the hub does -/

/-- The operation that starts a packet of a TYPE. -/
def startOut (q : BitVec 10) (t : Option Nat) (s : State) : Out :=
  match t with
  | some 0x01 => execLaunch q s
  | some 0x02 => execTile q s
  | some 0x03 => execCopy q s
  | some 0x04 => execSignal q s
  | some 0x05 => execWait q s
  | some 0x06 => execCheckpoint q s
  | some 0x10 => execShoot q s
  | some 0x11 => execKill q s
  | some 0x12 => execPfr q s
  | some 0x13 => execQstop q s
  | _ => execUnassignedType q s

/-- What one queue can do. -/
def State.queueEvents (s : State) (x : Queue) : List Doing :=
  (match s.startable x with
    | some t => [.startPacket x.q t]
    | none => [])
    ++ (match x.started with
      | k :: _ => if k.type = 4 && k.open_ && k.blocked.isNone then [.signalPerform x.q] else []
      | [] => [])
    ++ (match x.waiting with
      | some k =>
        .waitSatisfied x.q :: (if k.field 4 0 32 ≠ 0 ∧ k.field 4 0 32 * 2400 ≤ (s.cycle - k.since).toNat then [.waitTimeout x.q] else [])
      | none => [])
    ++ (x.started.filter fun k => (s.outcome k).isSome || (k.open_ && k.blocked.isNone && (k.type == 3 || k.type == 6))).map fun k =>
      .packetComplete x.q k.idx

/-- This tile has joined the compute barrier of a context. -/
def State.joinedHere (s : State) (c : Ctx) : Bool :=
  s.tile.res.ctx == c.id && (match s.tile.wait with
    | .sstep .joined .. => true
    | _ => false)

/-- What one context can do. -/
def State.ctxEvents (s : State) (c : Ctx) : List Doing :=
  if c.ended.isSome then []
  else (if c.hung s.cycle && !s.hub.snap.frozen then [.hangExpire c.id] else []) ++ match c.run with
    | some r =>
      if r.units.isEmpty then [.childComplete c.id 5 0]
      else (r.units.filter fun u => r.hasRun s.own u && currentUnit r.units (fun y => y.tile == u.tile) == some u).map fun u =>
        .childComplete c.id 2 u.tile
    | none =>
      (if c.disagrees || (c.allJoined && s.joinedHere c) then [.barrierComplete c.id] else [])
        ++ (if s.ctxDone c then [.contextComplete c.id] else [])
        ++ (c.queues.filter fun x => !c.det && c.parked.isNone && c.idle.contains x.1 && !c.heldRecs.contains x.1
            && (let q := readTaskQueue s.mem x.2; q.head != q.tail)).map fun x => .taskDispense c.id x.1

/-- The mapper, admission, continuations and a shootdown. -/
def State.frontEndEvents (s : State) : List Doing :=
  let fe := s.hub.fe
  (if fe.wake.isEmpty || fe.fbact || s.wakeDown then []
    else if !s.freeSlots.isEmpty then [.queueMap] else if s.victim.isSome then [.queueEvict] else [])
    ++ (if fe.launches.isEmpty then [] else [.launchAdmit])
    ++ fe.pushes.map (fun x => .taskAppend x.2.1 x.2.2)
    ++ (match fe.shoot with
      | some x => ((List.range 4).filter fun d => !x.acks.getLsbD d).map fun d => .dieAck (BitVec.ofNat 2 d)
      | none => [])
    ++ (if s.tile.front.started && !fe.fbact && !s.switching && s.quantumOver && s.nextCtx.isSome then [.quantumEnd] else [])

/-- Every die. -/
def dies : List (BitVec 2) := (List.range 4).map (BitVec.ofNat 2)

/-- A die's discovery has run out of time (R388, R399). -/
def State.lateDie (s : State) : Option (BitVec 2) := dies.find? fun d => (s.disco d).active && (s.disco d).late s.cycle

/-- The discovery agent of a die has halted before it was done (R399). -/
def State.startEvents (s : State) : List Doing :=
  dies.filterMap fun d =>
    if (s.disco d).active && s.isPhys d (s.disco d).agent && s.tile.front.ast == .halted then some (.discoveryTimeout d) else none

/-- A strip's lease has run out. -/
def State.leaseEvents (s : State) : List Doing :=
  (s.hub.strips.toList.zipIdx.filter fun x => x.1.st == 1 && s.remaining x.1 == 0).map fun x => .leaseExpire (BitVec.ofNat 8 x.2)

/-- SRC of the joined command of an attachment has been read and has failed (R348). -/
def Attachment.earlyFailed (x : Attachment) : Bool :=
  match x.early with
  | some (_, some _) => true
  | _ => false

/-- The joined command leaves its rendezvous: for a save of its context, or because its SRC could not be read (R338, R348). -/
def State.mustWithdraw (s : State) (x : Attachment) (c : SwCmd) : Bool :=
  x.withdrawing.isNone && ((s.saving && c.owner == 0) || x.earlyFailed)

/-- The command of an attachment joins, or leaves its rendezvous. -/
def State.commandEvents (s : State) (a : BitVec 4) (x : Attachment) : List Doing :=
  match s.swCmd a with
  | none => []
  | some c =>
    match c.phase with
    | .queued => if s.saving && c.owner == 0 then [] else [.join a x.stn (joinFields c.desc)]
    | .joined => if s.mustWithdraw x c then [.withdraw a (descGroup c.desc) x.stn] else []
    | .started => []

/-- What the leader of a segment decides: the START of the rendezvous whose JOINs it holds, and the rejection of one that has
waited too long. -/
def State.leaderEvents (s : State) (a : BitVec 4) (x : Attachment) : List Doing :=
  if !x.up || !x.leads then []
  else
    (x.groups.filter (x.timedOut s.cycle)).map (fun r =>
        .joinTimeout a r.first.group)
      ++ (if x.busy.isEmpty then (x.groups.filter fun r => r.complete).map fun r =>
            .startGroup a r.first.group r.joined (s.startFrame a)
          else [])

/-- The flits that the streams of other stations have completed. -/
def flitEvents (a : BitVec 4) (x : Attachment) : List Doing :=
  ((List.range 16).filter fun i => x.up && i != x.stn.toNat && decide (48 ≤ (x.streams.toList.getD i { on := 0, part := [] }).part.length)).map
    fun i => .flit a (BitVec.ofNat 4 i)

/-- An attachment: its command, its collective's end, what it leads, and what it receives. -/
def State.busEvents (s : State) (a : BitVec 4) : List Doing :=
  let x := s.busNow a
  (match x.coll with
    | some c => if s.deliverable a c then [.collectiveEnd a] else []
    | none => s.commandEvents a x)
    ++ s.leaderEvents a x ++ flitEvents a x

/-- What the attachments can do. -/
def State.sweutEvents (s : State) : List Doing :=
  if s.swCmds.isEmpty && (s.hub.sweut.toList.all fun x => x.coll.isNone && x.groups.isEmpty && x.streams.toList.all fun t => t.part.isEmpty)
  then []
  else attachments.flatMap s.busEvents

/-- Everything that may happen next without an instruction. -/
def State.events (s : State) : List Doing :=
  s.engineEvents ++ s.seqEvents ++ s.sentEvents ++ s.waitEvents ++ s.otherEvents ++ s.frontEndEvents
    ++ s.hub.fe.queues.flatMap s.queueEvents ++ s.hub.fe.ctxs.flatMap s.ctxEvents ++ s.startEvents ++ s.leaseEvents ++ s.sweutEvents

/-! ### A step -/

/-- Everything that may happen next. -/
def State.doings (s : State) : List Doing :=
  (if s.accessReady then [.access] else [])
    ++ (if s.executeUp && s.headA.isSome && s.tile.front.xtrap.isNone then [.issue] else [])
    ++ (if s.executeUp && s.replayReady && s.tile.front.xtrap.isNone then [.replay] else [])
    ++ (s.tile.path.posted.map fun p => addrCoord p.addr).eraseDups.map Doing.post
    ++ (if s.hub.fe.events.isEmpty || s.hub.fe.fbact then [] else [.flush])
    ++ s.events

/-- What an operation of the engines or the hub does. -/
def State.operate (s : State) (d : Doing) : Out :=
  match d with
  | .access => .next s
  | .issue => .next s
  | .replay => .next s
  | .post t =>
    match s.tile.path.posted.find? fun p => addrCoord p.addr == t with
    | some p => .next ((s.setPath { s.tile.path with posted := s.tile.path.posted.erase p }).performPosted p)
    | none => .next s
  | .flush => .next s.flushEvents
  | .ldqRow p => execLdqRowDeliver p s
  | .stqRow p => execStqRowWrite p s
  | .copyRow ch => execCopyStreamRow ch s
  | .copyEnd i => execCopyComplete i s
  | .insnStart => execTileInsnStart s
  | .insnCommit => execTileInsnCommit s
  | .allowance => execAllowanceReturn s
  | .remoteAnswer => execRemoteAnswer true s
  | .leaseRequest p d => execLeaseRequest s.own s.tile.res.ctx p d s
  | .taskAppend q r => execTaskAppend q r s
  | .contextLoad => execContextLoad s
  | .staggerExpire => execStaggerExpire s
  | .sleepLimit => execSleepLimitReached s
  | .confirm l => execReservationConfirmed l s
  | .pageWalk => execPageWalkComplete s
  | .saveTimeout => execSaveTimeout s
  | .exchangeLanded n => execExchangeLanded n s
  | .faultReport c v => execTileLevelFaultReport s.own c v s
  | .allAsleep n => execAllAsleepDetect n s
  | .startPacket q t => startOut q t s
  | .signalPerform q => execSignalPerform q s
  | .waitSatisfied q => execWaitSatisfied q s
  | .waitTimeout q => execWaitTimeout q s
  | .packetComplete q i => execPacketComplete q i s
  | .childComplete n l c => execChildComplete n l c s
  | .barrierComplete n => execComputeBarrierComplete n s
  | .contextComplete n => execContextComplete n s
  | .hangExpire n => execHangWatchdogExpire n s
  | .quantumEnd => execQuantumEnd s
  | .discoveryTimeout d => execDiscoveryTimeout d s
  | .taskDispense n t => execTaskDispense n t s
  | .queueMap => execQueueMap s
  | .queueEvict => execQueueEvict s
  | .launchAdmit => execLaunchAdmit s
  | .dieAck d => execShootdownDieAck d s
  | .leaseExpire i => execLeaseExpire i s
  | .join a n f => execJoin a n f s
  | .withdraw a g n => execWithdraw a g n s
  | .joinTimeout a g => execJoinTimeout a g s
  | .startGroup a g m f => execStart a g m f s
  | .collectiveEnd a => execCollectiveEnd a s
  | .flit a n => execFlit a n ((List.range 48).map fun i => (Config.freeWord (s.free + i)).toNat) ((Config.freeWord s.free).setWidth 48)
      (Config.payload s.free 0x18) s

/-- Do it. -/
def State.act (s : State) (d : Doing) : Action :=
  match d with
  | .access => s.accessStep
  | .issue => s.issueStep
  | .replay => s.replayStep
  | d => .out (s.operate d)

/-- What goes on in minimal mode: the PCI Express function with its writes to BAR 0, the management bus and the mailbox, and errors
of stored bits (R387; log 59). -/
def inMinimal (i : Instr) : Bool :=
  match i with
  | .deviceReset | .standbyPowerLoss | .functionLevelReset | .recovWrite .. | .attestRequest .. | .registerWrite .. | .pkgidWrite ..
  | .howlkWrite .. | .notify .. | .snaptWrite .. | .snapresRearm | .snapresResume | .acctlClr .. | .acrstWrite .. | .anqhWrite ..
  | .swlfClr .. | .softErrorInStoredBits .. => true
  | _ => false

/-- The bundle in hand is an UNGANG. -/
def State.ungangs (s : State) : Bool :=
  match s.tile.front.latch with
  | some l => match decodeBundle (l.bundle.toNat % 2 ^ 32) (l.bundle.toNat / 2 ^ 32) with
    | .ok (.ungang _) => true
    | _ => false
  | none => false

/-- Another member's UNGANG disbands the gang: with the one in hand, where that is it, or at once (R210). -/
def State.peerUngang (s : State) : State :=
  if s.grole = 0 then s else if s.ungangs then s.setRes { s.tile.res with ungang := true } else s.leaveGang

/-- The records of another tile have landed. Where no tile of the context is this one, the superstep of the context is complete with
the last of them (R197, R328). -/
def State.peerLanded (s : State) (n : Nat) (t : BitVec 24) : State :=
  let s := s.updCtx n fun c => { c with landed := addOnce c.landed t }
  if (s.ctxOf n).any fun c => !c.tiles.contains s.own && c.tiles.all c.landed.contains then
    (s.watch n).updCtx n fun c => { c with joined := [], landed := [] }
  else s

/-- Another tile has stopped at a cut, or has saved the dynamic context that a CHECKPOINT names (R246, R300). -/
def State.peerStopped (s : State) (n : Nat) (t : BitVec 24) : State :=
  let open_ := s.checkpointed n
  s.updCtx n fun c => if c.cut.isSome || open_ then { c with stopped := addOnce c.stopped t } else c

/-- What the environment presents. An operation that is an instruction of a program is no input. -/
def State.input (s : State) (x : Input) : Action :=
  let other (c : BitVec 24) (t : State) : Action := .out (.next (if c = s.own then s else t))
  match x with
  | .event i => match encode i with
    | .none => if s.hub.boot.mini && !inMinimal i then .out (.next s) else .exec i s
    | _ => .out (.next s)
  | .gangPeer c code => other c (s.peerGang c code)
  | .gangBundle w a l =>
    if s.grole = 2 ∧ s.tile.front.latch = none then
      .out (.next ((s.setFront { s.tile.front with
        apc := a, latch := some { bundle := w, begun := false, passed := false } }).setRes { s.tile.res with leaderNext := some l }))
    else .out (.next s)
  | .gangReady => .out (.next (if s.grole = 1 then s.setRes { s.tile.res with gangReady := true } else s))
  | .ungang => .out (.next s.peerUngang)
  | .gangTrap g c => .out (.next (s.breakGang g c))
  | .peerHalted n c => other c (s.updCtx n fun x => { x with halted := addOnce x.halted c })
  | .peerIdle n c => other c ((s.watch n).updCtx n fun x => { x with idle := addOnce x.idle c, asleep := x.asleep.erase c })
  | .peerAsleep n c => other c (s.updCtx n fun x => { x with asleep := addOnce x.asleep c })
  | .peerJoined n c e => other c (s.updCtx n fun x => { x with joined := x.joined ++ [(c, e)] })
  | .peerLanded n c => other c (s.peerLanded n c)
  | .exchangeNotify => .out (.next ((s.noteSleep true false false).setNet { s.tile.net with arrived := true }))
  | .peerStopped n c => other c (s.peerStopped n c)
  | .inFlight n k => .out (.next (s.updCtx n fun x => { x with inFlight := k }))
  | .stripPeers i code => .out (.next (s.stripPeers i code))
  | .peerWake i x => .out (.next (if i = s.ownStrip ∧ x = s.ownX then s else s.setStrip i ((s.strip i).wake s.cycle x)))
  | .peerTrap c => .out (.next (s.trapTrigger c))
  | .packagePower w => .out (.next (s.measured w))
  | .handler => .out (.next s.handlerActs)
  | .hostStore addr n v => .out (.next (s.hostStore addr n v))
  | .packetFrame a requests slots => .out (.next (s.packetFrame a requests slots))
  | .handlerPark n c v e => other c (s.handlerPark n c v e)
  | .handlerKill n c cause v e => other c (s.killCtx n cause v e c)
  | .flashError bad => .out (.next (s.setBoot { s.hub.boot with flashBad := bad }))

/-- The ordered operation that the execute half has been passed, unless it waits in PORT (R114, R100). -/
def State.orderedStep (s : State) : Option Action :=
  match s.tile.front.ordered with
  | some (.marker ..) => some (.out (execRepeatMarker s))
  | some _ => if s.orderedWaits && s.tile.front.xst == .port then none else some (.out (execOrderedOpExecute s))
  | none => none

/-- FP_ENABLED that has waited for the access half: it is taken once the access half stands between words (R33, R238). -/
def State.pendingFp (s : State) : Option Action :=
  match s.tile.front.xtrap with
  | none => none
  | some (c, v) =>
    if s.committed || s.midTransfer || (s.loopPending && s.caughtUp) then none
    else some (.out (s.unholdTrap.trap true c v))

/-- A match of SNAPAT, a package latch, the end of a waking, of the start timer or of a die's discovery, or a static energy charge
that is due: it comes before anything else. -/
def State.due (s : State) : Option Action :=
  if s.tile.csr.snapArmed && s.tile.csr.snapAt == s.cycle then some (.out (execSnapatMatch s))
  else if (match s.hub.snap.latchAt with
    | some t => decide (t.toNat ≤ s.cycle.toNat)
    | none => false) then some (.out (execPackageSnapshotLatch s))
  else if s.powered then some (.out (execTilePowerUp s))
  else if energyPeriod ≤ s.tile.power.resident then some (.out (execEnergyTick s))
  else if s.startOver then some (.out (execStartTimerExpire s))
  else s.lateDie.map fun d => .out (execDiscoveryTimeout d s)

/-- What happens before any choice: what is due, an ordered operation, a trap of the execute half. -/
def State.forced (s : State) : Option Action :=
  match s.due with
  | some a => some a
  | none =>
    if !s.executeUp || (s.tile.front.xtrap.isSome && s.committed) then none
    else match s.orderedStep with
      | some a => some a
      | none => s.pendingFp

/-- What is chosen of several things that may happen next. -/
def choose (n : Nat) (l : List Doing) : Option Doing :=
  match l with
  | [] => none
  | [d] => some d
  | d :: r => some ((d :: r)[n % (r.length + 1)]?.getD d)

/-- The state in which a step decides: time has moved on, and results and arrivals, clocks, kills that have waited and WAITs have
settled. -/
def State.ready (s : State) : State := s.tick.settle.settleClock.settleDoom.settleWaits

/-- What a step does with nothing from outside waiting. -/
def State.ownMove (s : State) : Action :=
  match s.forced with
  | some a => a
  | none =>
    match choose (Config.choice s.free) s.doings with
    | some d => s.act d
    | none => .out (.next s)

/-- What a step does with an input waiting: it takes the oldest, unless something is due. -/
def State.takeInput (s : State) (x : Input) (rest : List Input) : Action :=
  match s.due with
  | some a => a
  | none => { s with inputs := rest }.input x

/-- A tile in HOLD or GATED looks at what it waits for once at each instant, before time moves on: a wake event acts where it occurs
(R357, R358; log 1). -/
def State.looks (s : State) : Bool := !s.tile.power.polled && s.accessReady && s.forced.isNone

/-- It looks. -/
def State.look (s : State) : Action :=
  { s.setPower { s.tile.power with polled := true } with free := s.free + 1 }.accessStep

/-- The tile sleeps: it is in HOLD or GATED. -/
def State.sleeps (s : State) : Bool := s.tile.power.state == .hold || s.tile.power.state == .gated

/-- What this step does: a tile that sleeps looks, or is gated, before time moves on. -/
def State.plan (s : State) : Action :=
  let now := s.settle
  if s.sleeps && now.looks then now.look
  else if s.sleeps && now.mayGate && now.forced.isNone then .out (execHoldExpire now)
  else match s.inputs with
  | x :: rest => s.ready.takeInput x rest
  | [] => s.ready.ownMove

/-! ### Placing an instruction (log 7) -/

/-- A tile that issues, between bundles and with no A-word on its way. -/
def State.idled (s : State) : State :=
  let f := s.tile.front
  let s := s.setFront { f with
    started := true, latch := none, ahead := [], aq := [], rq := [], replay := none, ordered := none, skip := false, xtrap := none
    ast := .run, xst := .run, loop := { f.loop with lact := false }, rpt := { f.rpt with ract := false, riter := 0 } }
  let s := ((s.setWait .idle).setStatusBit 2 false).setPower { s.tile.power with state := .run }
  let s := (s.setPath { s.tile.path with tx := none }).setRes { s.tile.res with startAt := none }
  let s := (s.setSnap { s.hub.snap with frozen := false, latchAt := none }).setCsr { s.tile.csr with snapArmed := false }
  let s := if s.grole = 0 then s else s.leaveGang
  { s with inputs := [] }

/-- A bundle in memory at APC, or at the start of the scratchpad where APC reaches no memory. -/
def State.placeBundle (s : State) (w : Nat) : State :=
  let s := match s.fetchPlace s.tile.front.apc with
    | .mem _ _ => s
    | _ => s.setFront { s.tile.front with apc := s.ownPtr 0 }
  match s.fetchPlace s.tile.front.apc with
  | .mem a _ => s.setMem (s.mem.writeWord a (BitVec.ofNat 64 w))
  | _ => s

/-- An A-word in the queue of the execute half, behind which the access half sleeps in SLEEP with no limit. -/
def State.placeA (s : State) (w : Nat) : State :=
  let f := s.tile.front
  let s := s.setFront { f with
    apc := nextBundle f.apc, ast := .asleep, aq := [{ word := BitVec.ofNat 32 w, addr := f.apc }]
    latch := some { bundle := 0x02C00003, begun := true, passed := true } }
  s.setWait (.sleep false false false none)

/-- `s` with an instruction of the opcode table as the next to run. -/
def State.placed (s : State) (nbits w : Nat) : State :=
  if nbits ≤ 32 && (aBases.contains (w % 2 ^ 32) || (decodeBundle (w % 2 ^ 32) 0).instr?.isNone) then s.idled.placeA (w % 2 ^ 32)
  else s.idled.placeBundle (w % 2 ^ 64)

end Sys2Proof.Machine
end

