-- ==== Sys2Proof/Machine/Alu.lean ====
section
/-!
DEFINITION. Access-half arithmetic: the ALU group, the immediate forms and the predicates (R90 to R94).
-/

namespace Sys2Proof.Machine

/-- A 64-bit 0 or 1. -/
def bit (b : Bool) : Word := if b then 1 else 0

/-- Shift and rotate amounts (R90). -/
def shiftAmount (x : Word) : Nat := x.toNat % 64

/-- Signed division (R91): quotient and remainder. -/
def divSigned (a b : Word) : Word × Word :=
  if b = 0 then (BitVec.allOnes 64, a)
  else (BitVec.ofInt 64 (a.toInt.tdiv b.toInt), BitVec.ofInt 64 (a.toInt.tmod b.toInt))

/-- Unsigned division (R91). -/
def divUnsigned (a b : Word) : Word × Word :=
  if b = 0 then (BitVec.allOnes 64, a) else (BitVec.ofNat 64 (a.toNat / b.toNat), BitVec.ofNat 64 (a.toNat % b.toNat))

/-- Leading zero bits, 0 to 64. -/
def leadingZeros (x : Word) : Nat := if x = 0 then 64 else 63 - Nat.log2 x.toNat

/-- Trailing zero bits among the low `n`. -/
def trailingZeros (x : Nat) : Nat → Nat
  | 0 => 0
  | n + 1 => if x % 2 = 1 then 0 else 1 + trailingZeros (x / 2) n

/-- One bits among the low `n`. -/
def ones (x : Nat) : Nat → Nat
  | 0 => 0
  | n + 1 => x % 2 + ones (x / 2) n

/-- A member of the ALU group with two sources (R90). -/
def alu2 (gd : Guard) (d a b : BitVec 5) (s : State) (f : Word → Word → Word) : Out :=
  cWord 0 gd s fun s => s.finishG d (f (s.g a) (s.g b))

/-- A member with one source, or an immediate form (R90, R92). -/
def alu1 (gd : Guard) (d a : BitVec 5) (s : State) (f : Word → Word) : Out :=
  cWord 0 gd s fun s => s.finishG d (f (s.g a))

/-- ADD (Table 4.2). -/
def execAdd (gd : Guard) (d a b : BitVec 5) (s : State) : Out := alu2 gd d a b s fun x y => x + y

/-- SUB (Table 4.2). -/
def execSub (gd : Guard) (d a b : BitVec 5) (s : State) : Out := alu2 gd d a b s fun x y => x - y

/-- AND (Table 4.2). -/
def execAnd (gd : Guard) (d a b : BitVec 5) (s : State) : Out := alu2 gd d a b s fun x y => x &&& y

/-- OR (Table 4.2). -/
def execOr (gd : Guard) (d a b : BitVec 5) (s : State) : Out := alu2 gd d a b s fun x y => x ||| y

/-- XOR (Table 4.2). -/
def execXor (gd : Guard) (d a b : BitVec 5) (s : State) : Out := alu2 gd d a b s fun x y => x ^^^ y

/-- ANDN (Table 4.2). -/
def execAndn (gd : Guard) (d a b : BitVec 5) (s : State) : Out := alu2 gd d a b s fun x y => x &&& ~~~y

/-- SHL (Table 4.2). -/
def execShl (gd : Guard) (d a b : BitVec 5) (s : State) : Out := alu2 gd d a b s fun x y => x <<< shiftAmount y

/-- SHR (Table 4.2). -/
def execShr (gd : Guard) (d a b : BitVec 5) (s : State) : Out := alu2 gd d a b s fun x y => x >>> shiftAmount y

/-- SRA (Table 4.2). -/
def execSra (gd : Guard) (d a b : BitVec 5) (s : State) : Out := alu2 gd d a b s fun x y => x.sshiftRight (shiftAmount y)

/-- ROL (Table 4.2). -/
def execRol (gd : Guard) (d a b : BitVec 5) (s : State) : Out := alu2 gd d a b s fun x y => x.rotateLeft (shiftAmount y)

/-- MUL (Table 4.2). -/
def execMul (gd : Guard) (d a b : BitVec 5) (s : State) : Out := alu2 gd d a b s fun x y => x * y

/-- MULH (Table 4.2). -/
def execMulh (gd : Guard) (d a b : BitVec 5) (s : State) : Out := alu2 gd d a b s fun x y => BitVec.ofInt 64 (x.toInt * y.toInt / 2 ^ 64)

/-- MULHU (Table 4.2). -/
def execMulhu (gd : Guard) (d a b : BitVec 5) (s : State) : Out := alu2 gd d a b s fun x y => BitVec.ofNat 64 (x.toNat * y.toNat / 2 ^ 64)

/-- DIV (Table 4.2). -/
def execDiv (gd : Guard) (d a b : BitVec 5) (s : State) : Out := alu2 gd d a b s fun x y => (divSigned x y).1

/-- DIVU (Table 4.2). -/
def execDivu (gd : Guard) (d a b : BitVec 5) (s : State) : Out := alu2 gd d a b s fun x y => (divUnsigned x y).1

/-- REM (Table 4.2). -/
def execRem (gd : Guard) (d a b : BitVec 5) (s : State) : Out := alu2 gd d a b s fun x y => (divSigned x y).2

/-- REMU (Table 4.2). -/
def execRemu (gd : Guard) (d a b : BitVec 5) (s : State) : Out := alu2 gd d a b s fun x y => (divUnsigned x y).2

/-- MIN (Table 4.2). -/
def execMin (gd : Guard) (d a b : BitVec 5) (s : State) : Out := alu2 gd d a b s fun x y => if y.toInt < x.toInt then y else x

/-- MAX (Table 4.2). -/
def execMax (gd : Guard) (d a b : BitVec 5) (s : State) : Out := alu2 gd d a b s fun x y => if x.toInt < y.toInt then y else x

/-- MINU (Table 4.2). -/
def execMinu (gd : Guard) (d a b : BitVec 5) (s : State) : Out := alu2 gd d a b s fun x y => if y.toNat < x.toNat then y else x

/-- MAXU (Table 4.2). -/
def execMaxu (gd : Guard) (d a b : BitVec 5) (s : State) : Out := alu2 gd d a b s fun x y => if x.toNat < y.toNat then y else x

/-- SLT (Table 4.2). -/
def execSlt (gd : Guard) (d a b : BitVec 5) (s : State) : Out := alu2 gd d a b s fun x y => bit (decide (x.toInt < y.toInt))

/-- SLTU (Table 4.2). -/
def execSltu (gd : Guard) (d a b : BitVec 5) (s : State) : Out := alu2 gd d a b s fun x y => bit (decide (x.toNat < y.toNat))

/-- CLZ (Table 4.2). -/
def execClz (gd : Guard) (d a : BitVec 5) (s : State) : Out := alu1 gd d a s fun x => BitVec.ofNat 64 (leadingZeros x)

/-- CTZ (Table 4.2). -/
def execCtz (gd : Guard) (d a : BitVec 5) (s : State) : Out := alu1 gd d a s fun x => BitVec.ofNat 64 (trailingZeros x.toNat 64)

/-- POPC (Table 4.2). -/
def execPopc (gd : Guard) (d a : BitVec 5) (s : State) : Out := alu1 gd d a s fun x => BitVec.ofNat 64 (ones x.toNat 64)

/-- ADDI (Table 4.3). -/
def execAddi (gd : Guard) (d a : BitVec 5) (i : Imm 10) (s : State) : Out := alu1 gd d a s fun x => x + immS i

/-- ANDI (Table 4.3). -/
def execAndi (gd : Guard) (d a : BitVec 5) (i : Imm 10) (s : State) : Out := alu1 gd d a s fun x => x &&& immZ i

/-- ORI (Table 4.3). -/
def execOri (gd : Guard) (d a : BitVec 5) (i : Imm 10) (s : State) : Out := alu1 gd d a s fun x => x ||| immZ i

/-- XORI (Table 4.3). -/
def execXori (gd : Guard) (d a : BitVec 5) (i : Imm 10) (s : State) : Out := alu1 gd d a s fun x => x ^^^ immZ i

/-- SHLI (Table 4.3). -/
def execShli (gd : Guard) (d a : BitVec 5) (n : BitVec 6) (s : State) : Out := alu1 gd d a s fun x => x <<< n.toNat

/-- SHRI (Table 4.3). -/
def execShri (gd : Guard) (d a : BitVec 5) (n : BitVec 6) (s : State) : Out := alu1 gd d a s fun x => x >>> n.toNat

/-- SRAI (Table 4.3). -/
def execSrai (gd : Guard) (d a : BitVec 5) (n : BitVec 6) (s : State) : Out := alu1 gd d a s fun x => x.sshiftRight n.toNat

/-- ROLI (Table 4.3). -/
def execRoli (gd : Guard) (d a : BitVec 5) (n : BitVec 6) (s : State) : Out := alu1 gd d a s fun x => x.rotateLeft n.toNat

/-- SLTI (Table 4.3). -/
def execSlti (gd : Guard) (d a : BitVec 5) (i : Imm 10) (s : State) : Out :=
  alu1 gd d a s fun x => bit (decide (x.toInt < (immS i).toInt))

/-- LDI (Table 4.3). -/
def execLdi (gd : Guard) (d : BitVec 5) (i : Imm 15) (s : State) : Out := alu1 gd d 0 s fun _ => immS i

/-- The upper half that LDIH writes: imm15 sign-extended to 32 bits, or the literal (Table 4.3). -/
def immHigh (i : Imm 15) : BitVec 32 :=
  match i with
  | .fld v => v.signExtend 32
  | .lone v => v

/-- LDIH: gd[63:32] is written, gd[31:0] is kept (Table 4.3). -/
def execLdih (gd : Guard) (d : BitVec 5) (i : Imm 15) (s : State) : Out :=
  alu1 gd d d s fun x => immHigh i ++ (x.setWidth 32 : BitVec 32)

/-- The conditions of PSET and of the conditional branches, 0 to 5 (R93, Table 4.4). -/
def condHolds (c : BitVec 3) (x y : Word) : Bool :=
  match c.toNat with
  | 0 => decide (x = y)
  | 1 => decide (x ≠ y)
  | 2 => decide (x.toInt < y.toInt)
  | 3 => decide (y.toInt ≤ x.toInt)
  | 4 => decide (x.toNat < y.toNat)
  | _ => decide (y.toNat ≤ x.toNat)

/-- A register or, in the lone form, the sign-extended literal that stands for it (R93, Table 4.5). -/
def State.regOrLit (s : State) (b : Imm 5) : Word :=
  match b with
  | .fld r => s.g r
  | .lone v => v.signExtend 64

/-- PSET (R93). -/
def execPset (gd : Guard) (d : BitVec 3) (a : BitVec 5) (b : Imm 5) (c : BitVec 3) (s : State) : Out :=
  cWord 0 gd s fun s => .next (s.setP d (condHolds c (s.g a) (s.regOrLit b))).retire

/-- PLOG with two sources (R94). -/
def plog (gd : Guard) (d a b : BitVec 3) (s : State) (f : Bool → Bool → Bool) : Out :=
  cWord 0 gd s fun s => .next (s.setP d (f (s.p a) (s.p b))).retire

/-- PLOG.AND. -/
def execPlogAnd (gd : Guard) (d a b : BitVec 3) (s : State) : Out := plog gd d a b s fun x y => x && y
/-- PLOG.OR. -/
def execPlogOr (gd : Guard) (d a b : BitVec 3) (s : State) : Out := plog gd d a b s fun x y => x || y
/-- PLOG.XOR. -/
def execPlogXor (gd : Guard) (d a b : BitVec 3) (s : State) : Out := plog gd d a b s fun x y => x != y
/-- PLOG.ANDN. -/
def execPlogAndn (gd : Guard) (d a b : BitVec 3) (s : State) : Out := plog gd d a b s fun x y => x && !y
/-- PLOG.NOT. -/
def execPlogNot (gd : Guard) (d a : BitVec 3) (s : State) : Out := plog gd d a a s fun x _ => !x

end Sys2Proof.Machine
end

