-- ==== Sys2Proof/Machine/Rings.lean ====
section
/-!
DEFINITION. Ring instructions (R24 to R26, R116, R117).
-/

namespace Sys2Proof.Machine

/-- A ring descriptor (Table 1.6). -/
structure Ring where
  base  : Nat
  esz   : Nat
  logn  : Nat
  zero4 : Nat
  fillc : BitVec 32
  pubc  : BitVec 32
  conc  : BitVec 32
  freec : BitVec 32
  waitw : BitVec 32
  zero7 : Nat
  deriving DecidableEq, Repr

/-- SPM offset of the descriptor of a ring number. -/
def State.ringOffset (s : State) (c : BitVec 16) : Nat := s.tile.ctx.rgtb.toNat % 2 ^ 19 + 32 * (c.toNat % 2 ^ 12)

/-- The descriptor at an address. -/
def readRing (m : Memory) (a : Nat) : Ring :=
  { base := m.readNat a 4, esz := m.readNat (a + 4) 1, logn := m.readNat (a + 5) 1, zero4 := m.readNat (a + 6) 2
    fillc := BitVec.ofNat 32 (m.readNat (a + 8) 4), pubc := BitVec.ofNat 32 (m.readNat (a + 12) 4)
    conc := BitVec.ofNat 32 (m.readNat (a + 16) 4), freec := BitVec.ofNat 32 (m.readNat (a + 20) 4)
    waitw := BitVec.ofNat 32 (m.readNat (a + 24) 4), zero7 := m.readNat (a + 28) 4 }

/-- The counter relation of R25. -/
def Ring.ordered (r : Ring) : Bool :=
  decide ((r.conc - r.freec).toNat ≤ (r.pubc - r.freec).toNat)
    && decide ((r.pubc - r.freec).toNat ≤ (r.fillc - r.freec).toNat)
    && decide ((r.fillc - r.freec).toNat ≤ 2 ^ r.logn)

/-- The offset of an entry (R25). -/
def Ring.entry (r : Ring) (n : BitVec 32) : Nat := r.base + n.toNat % 2 ^ r.logn * (r.esz * 64)

/-- The first rule of R24 and R25 that a use breaks, as WHY of Table 4.11; 0 for none. Field limits come before the
relation that is stated in terms of them, and the descriptor's place before its contents. A BASE that is not 64-byte aligned is no
fault case: the use goes on with it (log 33). -/
def ringWhy (c : BitVec 16) (off : Nat) (r : Ring) : Nat :=
  if !c.getLsbD 15 then 1
  else if c.toNat / 2 ^ 12 % 8 ≠ 0 then 5
  else if 0x78000 < off + 32 ∨ off % 32 ≠ 0 then 6
  else if r.esz = 0 ∨ 64 < r.esz then 3
  else if 8 < r.logn then 4
  else if r.zero4 ≠ 0 ∨ r.zero7 ≠ 0 ∨ 4 ≤ r.waitw.toNat then 5
  else if 0x78000 < r.base + 2 ^ r.logn * (r.esz * 64) then 6
  else if !r.ordered then 2
  else 0

/-- EVAL of a RING_FAULT (Table 4.11). -/
def ringEval (why : Nat) (creg : BitVec 4) (c : BitVec 16) : Word :=
  BitVec.ofNat 64 (why * 2 ^ 16 + creg.toNat * 2 ^ 12 + c.toNat % 2 ^ 12)

/-- Write one counter or WAITW of a descriptor. -/
def State.ringPut (s : State) (off field : Nat) (v : BitVec 32) : State :=
  s.writeHome (s.ownAddr (off + field)) 4 v.toNat s.tile.path.rlv s.own

/-- A ring instruction past its guard: its descriptor is read and checked as one action (R26, R117). An uncorrectable
error in the descriptor is a read's (check 10), with a pointer to its dword as EVAL (log 65). -/
def ringOp (gd : Guard) (creg : BitVec 4) (s : State) (effect : State → Nat → Ring → (Nat → Out) → Out) : Out :=
  cWord 2 gd s fun s =>
    let c := s.tile.regs.c.get creg.toFin
    let off := s.ringOffset c
    let a := s.ownAddr off
    let fail (why : Nat) : Out := s.trap false Cause.ringFault (ringEval why creg c)
    let inSpm := c.getLsbD 15 && decide (off + 32 ≤ 0x78000)
    match (if inSpm then s.firstBad a 32 else none) with
    | some b => s.trap false Cause.softError (s.ownPtr (addrOff b))
    | none =>
      let r := readRing s.mem a
      let why := ringWhy c off r
      if why ≠ 0 then fail why else effect s off r fail

/-- Stall in RESOURCE with a bit of WAITW set (R117). -/
def ringWait (s : State) (off : Nat) (r : Ring) (bit : BitVec 32) : Out :=
  .next (((s.ringPut off 24 (r.waitw ||| bit)).setWait (.ring off bit)).stall .resource)

/-- RSET: c := ga[15:0]; a valid one has its descriptor checked (R25). -/
def execRset (gd : Guard) (a : BitVec 5) (c : BitVec 4) (s : State) : Out :=
  cWord 2 gd s fun s =>
    let v : BitVec 16 := (s.g a).setWidth 16
    let off := s.ringOffset v
    let addr := s.ownAddr off
    let done : Out := .next (s.setRegs { s.tile.regs with c := s.tile.regs.c.set c.toNat v c.isLt }).retire
    if !v.getLsbD 15 then done
    else match (if off + 32 ≤ 0x78000 then s.firstBad addr 32 else none) with
      | some b => s.trap false Cause.softError (s.ownPtr (addrOff b))
      | none =>
        let why := ringWhy v off (readRing s.mem addr)
        if why ≠ 0 then s.trap false Cause.ringFault (ringEval why c v) else done

/-- WFILL. -/
def execWfill (gd : Guard) (d : BitVec 5) (c : BitVec 4) (s : State) : Out :=
  ringOp gd c s fun s off r _ =>
    if (r.fillc - r.freec).toNat < 2 ^ r.logn then
      let s := (s.ringPut off 8 (r.fillc + 1)).ringPut off 24 (r.waitw &&& 2) |>.setWait .idle
      s.finishG d (s.ownPtr (r.entry r.fillc))
    else ringWait s off r 1

/-- WFREE. -/
def execWfree (gd : Guard) (c : BitVec 4) (s : State) : Out :=
  ringOp gd c s fun s off r fail =>
    if r.freec = r.conc then fail 7 else .next (s.ringPut off 20 (r.freec + 1)).retire

/-- PUB. -/
def execPub (gd : Guard) (c : BitVec 4) (s : State) : Out :=
  ringOp gd c s fun s off r fail =>
    if r.pubc = r.fillc then fail 7 else .next (s.ringPut off 12 (r.pubc + 1)).retire

/-- CONS. -/
def execCons (gd : Guard) (d : BitVec 5) (c : BitVec 4) (s : State) : Out :=
  ringOp gd c s fun s off r _ =>
    if r.conc ≠ r.pubc then
      let s := (s.ringPut off 16 (r.conc + 1)).ringPut off 24 (r.waitw &&& 1) |>.setWait .idle
      s.finishG d (s.ownPtr (r.entry r.conc))
    else ringWait s off r 2

end Sys2Proof.Machine
end

