-- ==== Sys2Proof/Machine/Vector.lean ====
section
/-!
DEFINITION. Execute-half vector instructions, majors 0x00 to 0x08 (R66, R118 to R136).
-/

namespace Sys2Proof.Machine

/-- ANOP (R66). -/
def execAnop (gd : Guard) (s : State) : Out := aWord 3 gd s fun s => (s.charge 3).finishA 0

/-! ### Integer (Table 5.2) -/

/-- VADD. -/
def execVadd (gd : Guard) (d a b : BitVec 5) (t : BitVec 3) (s : State) : Out :=
  vec2 3 intTypes gd d a b t s [] fun _ _ x y => (addLane (laneBits t) x y, 0)

/-- VSUB. -/
def execVsub (gd : Guard) (d a b : BitVec 5) (t : BitVec 3) (s : State) : Out :=
  vec2 3 intTypes gd d a b t s [] fun _ _ x y => (subLane (laneBits t) x y, 0)

/-- VMUL. -/
def execVmul (gd : Guard) (d a b : BitVec 5) (t : BitVec 3) (s : State) : Out :=
  vec2 3 intTypes gd d a b t s [] fun _ _ x y => (mulLane (laneBits t) x y, 0)

/-- VMULH. -/
def execVmulh (gd : Guard) (d a b : BitVec 5) (t : BitVec 3) (s : State) : Out :=
  vec2 3 intTypes gd d a b t s [] fun _ _ x y => (mulhLane (laneBits t) x y, 0)

/-- VMIN. -/
def execVmin (gd : Guard) (d a b : BitVec 5) (t : BitVec 3) (s : State) : Out :=
  vec2 3 intTypes gd d a b t s [] fun _ _ x y => (minLane (laneBits t) x y, 0)

/-- VMAX. -/
def execVmax (gd : Guard) (d a b : BitVec 5) (t : BitVec 3) (s : State) : Out :=
  vec2 3 intTypes gd d a b t s [] fun _ _ x y => (maxLane (laneBits t) x y, 0)

/-- VAND. -/
def execVand (gd : Guard) (d a b : BitVec 5) (t : BitVec 3) (s : State) : Out :=
  vec2 3 intTypes gd d a b t s [] fun _ _ x y => (x &&& y, 0)

/-- VOR. -/
def execVor (gd : Guard) (d a b : BitVec 5) (t : BitVec 3) (s : State) : Out :=
  vec2 3 intTypes gd d a b t s [] fun _ _ x y => (x ||| y, 0)

/-- VXOR. -/
def execVxor (gd : Guard) (d a b : BitVec 5) (t : BitVec 3) (s : State) : Out :=
  vec2 3 intTypes gd d a b t s [] fun _ _ x y => (x ^^^ y, 0)

/-- VSHL. -/
def execVshl (gd : Guard) (d a b : BitVec 5) (t : BitVec 3) (s : State) : Out :=
  vec2 3 intTypes gd d a b t s [] fun _ _ x y => (shlLane (laneBits t) x y, 0)

/-- VSHR. -/
def execVshr (gd : Guard) (d a b : BitVec 5) (t : BitVec 3) (s : State) : Out :=
  vec2 3 intTypes gd d a b t s [] fun _ _ x y => (shrLane (laneBits t) x y, 0)

/-- VSRA. -/
def execVsra (gd : Guard) (d a b : BitVec 5) (t : BitVec 3) (s : State) : Out :=
  vec2 3 intTypes gd d a b t s [] fun _ _ x y => (sraLane (laneBits t) x y, 0)

/-- VABS. -/
def execVabs (gd : Guard) (d a : BitVec 5) (t : BitVec 3) (s : State) : Out :=
  vec1 3 intTypes gd d a t s fun _ _ x => ((intOf (laneBits t) x).natAbs, 0)

/-- VNEG. -/
def execVneg (gd : Guard) (d a : BitVec 5) (t : BitVec 3) (s : State) : Out :=
  vec1 3 intTypes gd d a t s fun _ _ x => (subLane (laneBits t) 0 x, 0)

/-- VADDS. -/
def execVadds (gd : Guard) (d a b : BitVec 5) (t : BitVec 3) (s : State) : Out :=
  vec2 3 intTypes gd d a b t s [] fun _ _ x y => satLane (laneBits t) (intOf (laneBits t) x + intOf (laneBits t) y)

/-- VSUBS. -/
def execVsubs (gd : Guard) (d a b : BitVec 5) (t : BitVec 3) (s : State) : Out :=
  vec2 3 intTypes gd d a b t s [] fun _ _ x y => satLane (laneBits t) (intOf (laneBits t) x - intOf (laneBits t) y)

/-! ### Floating point (Table 5.3) -/

/-- The format of a floating-point type. -/
def fmtOf (t : BitVec 3) : FloatFmt := (laneFloat t).getD fp32

/-- FADD. -/
def execFadd (gd : Guard) (d a b : BitVec 5) (t : BitVec 3) (s : State) : Out :=
  vec2 3 floatTypes gd d a b t s (s.drawRegs s.rm) fun s k x y => faddLane (fmtOf t) s.ftz (s.modeAt s.rm k) x y

/-- FSUB. -/
def execFsub (gd : Guard) (d a b : BitVec 5) (t : BitVec 3) (s : State) : Out :=
  vec2 3 floatTypes gd d a b t s (s.drawRegs s.rm) fun s k x y => fsubLane (fmtOf t) s.ftz (s.modeAt s.rm k) x y

/-- FMUL. -/
def execFmul (gd : Guard) (d a b : BitVec 5) (t : BitVec 3) (s : State) : Out :=
  vec2 3 floatTypes gd d a b t s (s.drawRegs s.rm) fun s k x y => fmulLane (fmtOf t) s.ftz (s.modeAt s.rm k) x y

/-- FMIN. -/
def execFmin (gd : Guard) (d a b : BitVec 5) (t : BitVec 3) (s : State) : Out :=
  vec2 3 floatTypes gd d a b t s [] fun s _ x y => fminmaxLane (fmtOf t) s.ftz false x y

/-- FMAX. -/
def execFmax (gd : Guard) (d a b : BitVec 5) (t : BitVec 3) (s : State) : Out :=
  vec2 3 floatTypes gd d a b t s [] fun s _ x y => fminmaxLane (fmtOf t) s.ftz true x y

/-- FABS. -/
def execFabs (gd : Guard) (d a : BitVec 5) (t : BitVec 3) (s : State) : Out :=
  vec1 3 floatTypes gd d a t s fun s _ x => fsignLane (fmtOf t) s.ftz false x

/-- FNEG. -/
def execFneg (gd : Guard) (d a : BitVec 5) (t : BitVec 3) (s : State) : Out :=
  vec1 3 floatTypes gd d a t s fun s _ x => fsignLane (fmtOf t) s.ftz true x

/-- FFMA: vd := va × vb + vd, rounded once. -/
def execFfma (gd : Guard) (d a b : BitVec 5) (t : BitVec 3) (s : State) : Out :=
  aWord 3 gd s fun s =>
    issueA 3 s (accepts floatTypes t && noPort d) true [a, b, d] [d] (s.drawRegs s.rm) fun s =>
      let r := zipLanes3 (fun k x y z => ffmaLane (fmtOf t) s.ftz (s.modeAt s.rm k) x y z) 0
        (lanesOf t (s.rowAt a)) (lanesOf t (s.rowAt b)) (lanesOf t (s.rowAt d))
      ((s.popAll [a, b]).writeRow d (rowOf (laneBits t) r.1)).finishA r.2

/-! ### Compare, test, select (Table 5.4) -/

/-- VCMP.EQ. -/
def execVcmpEq (gd : Guard) (d a b : BitVec 5) (t : BitVec 3) (s : State) : Out := vcmp .eq allTypes gd d a b t s
/-- VCMP.NE. -/
def execVcmpNe (gd : Guard) (d a b : BitVec 5) (t : BitVec 3) (s : State) : Out := vcmp .ne allTypes gd d a b t s
/-- VCMP.LT. -/
def execVcmpLt (gd : Guard) (d a b : BitVec 5) (t : BitVec 3) (s : State) : Out := vcmp .lt allTypes gd d a b t s
/-- VCMP.LE. -/
def execVcmpLe (gd : Guard) (d a b : BitVec 5) (t : BitVec 3) (s : State) : Out := vcmp .le allTypes gd d a b t s
/-- VCMP.GT. -/
def execVcmpGt (gd : Guard) (d a b : BitVec 5) (t : BitVec 3) (s : State) : Out := vcmp .gt allTypes gd d a b t s
/-- VCMP.GE. -/
def execVcmpGe (gd : Guard) (d a b : BitVec 5) (t : BitVec 3) (s : State) : Out := vcmp .ge allTypes gd d a b t s
/-- VCMP.ORD. -/
def execVcmpOrd (gd : Guard) (d a b : BitVec 5) (t : BitVec 3) (s : State) : Out := vcmp .ord floatTypes gd d a b t s
/-- VCMP.UNO. -/
def execVcmpUno (gd : Guard) (d a b : BitVec 5) (t : BitVec 3) (s : State) : Out := vcmp .uno floatTypes gd d a b t s
/-- VTEST.ANY. -/
def execVtestAny (gd : Guard) (q : BitVec 3) (a : BitVec 5) (t : BitVec 3) (s : State) : Out := vtest false gd q a t s
/-- VTEST.ALL. -/
def execVtestAll (gd : Guard) (q : BitVec 3) (a : BitVec 5) (t : BitVec 3) (s : State) : Out := vtest true gd q a t s

/-- VSEL: vd := (vd AND va) OR (NOT vd AND vb). -/
def execVsel (gd : Guard) (d a b : BitVec 5) (s : State) : Out :=
  aWord 3 gd s fun s =>
    issueA 3 s (noPort d) true [a, b, d] [d] [] fun s =>
      let m := s.rowAt d
      ((s.popAll [a, b]).writeRow d ((m &&& s.rowAt a) ||| (~~~m &&& s.rowAt b))).finishA 0

/-! ### Special functions (Table 5.5) -/

/-- A special function of fp32 lanes. -/
def sfu (f : Bool → Ext → Nat × Flags) (gd : Guard) (d a : BitVec 5) (t : BitVec 3) (s : State) : Out :=
  vec1 4 [5] gd d a t s fun s _ x => f s.ftz (fp32.read s.ftz x)

/-- FRCP. -/
def execFrcp (gd : Guard) (d a : BitVec 5) (t : BitVec 3) (s : State) : Out := sfu sfuRcp gd d a t s
/-- FRSQ. -/
def execFrsq (gd : Guard) (d a : BitVec 5) (t : BitVec 3) (s : State) : Out := sfu sfuRsq gd d a t s
/-- FSQRT. -/
def execFsqrt (gd : Guard) (d a : BitVec 5) (t : BitVec 3) (s : State) : Out := sfu sfuSqrt gd d a t s
/-- FEXP2. -/
def execFexp2 (gd : Guard) (d a : BitVec 5) (t : BitVec 3) (s : State) : Out := sfu sfuExp2 gd d a t s
/-- FLOG2. -/
def execFlog2 (gd : Guard) (d a : BitVec 5) (t : BitVec 3) (s : State) : Out := sfu sfuLog2 gd d a t s
/-- FTANH. -/
def execFtanh (gd : Guard) (d a : BitVec 5) (t : BitVec 3) (s : State) : Out := sfu sfuTanh gd d a t s

/-! ### Conversion and quantisation -/

/-- VCVT (R128): `r` is the rm field, `u` the destination type, `t` the source type. -/
def execVcvt (gd : Guard) (d a : BitVec 5) (r : BitVec 2) (u t : BitVec 3) (s : State) : Out :=
  aWord 3 gd s fun s =>
    issueA 3 s (accepts allTypes t && accepts allTypes u) true [a] [d] (s.drawRegs (cvtRm s r)) fun s =>
      let n := min (laneCount t) (laneCount u)
      let res := runElems (fun k x => laneConvert u s.ftz (s.modeAt (cvtRm s r) k) (laneValue t s.ftz x)) 0
        ((lanesOf t (s.rowAt a)).take n)
      ((s.popAll [a]).writeRow d (rowOf (laneBits u) res.1)).finishA res.2

/-- VQNT (R129). A bad pair is reported before a reserved format code (log 68). -/
def execVqnt (gd : Guard) (d a k : BitVec 5) (t : BitVec 3) (s : State) : Out :=
  aWord 3 gd s fun s =>
    let pair := t != 5 || pairOk a
    let reads := if t = 5 ∧ pairOk a then [a, a + 1] else [a]
    if accepts floatTypes t && pair && (formatOf k).isNone && (outPort a).isNone && (inPort d).isNone then
      (s.charge 3).faultA Cause.format (k.setWidth 64)
    else
      let f := (quantFormat k).getD .raw
      issueA 3 s (accepts floatTypes t) (pair && (quantFormat k).isSome) reads [d] (s.drawRegs s.rm) fun s =>
        let xs := (reads.flatMap fun r => lanesOf t (s.rowAt r)).map fun x => laneValue t s.ftz x
        let res := quantise f s.ftz (s.modeAt s.rm) xs
        ((s.popAll reads).writeRow d (BitVec.ofNat 512 res.1)).finishA res.2

/-- VDQ (R130). A bad pair is reported before a reserved format code (log 68). -/
def execVdq (gd : Guard) (d a k : BitVec 5) (t : BitVec 3) (s : State) : Out :=
  aWord 3 gd s fun s =>
    let pair := t != 5 || pairOk d
    let writes := if t = 5 ∧ pairOk d then [d, d + 1] else [d]
    if accepts floatTypes t && pair && (formatOf k).isNone && (outPort a).isNone && (inPort d).isNone then
      (s.charge 3).faultA Cause.format (k.setWidth 64)
    else
      let f := (quantFormat k).getD .raw
      issueA 3 s (accepts floatTypes t) (pair && (quantFormat k).isSome) [a] writes (s.drawRegs s.rm) fun s =>
        let x := (s.rowAt a).toNat
        let res := runElems (fun i _ => laneConvert t s.ftz (s.modeAt s.rm i) (dequantise f x i)) 0 (List.range 32)
        let s := s.popAll [a]
        let s := s.writeRow d (rowOf (laneBits t) (res.1.take (laneCount t)))
        let s := if t = 5 then s.writeRow (d + 1) (rowOf 32 (res.1.drop 16)) else s
        s.finishA res.2

/-- VPACK. -/
def execVpack (gd : Guard) (d a b : BitVec 5) (s : State) : Out :=
  rowOp2 gd true d a b s fun x y => (x.setWidth 256).setWidth 512 ||| (y.setWidth 512 <<< 256)

/-- VUNPK. -/
def execVunpk (gd : Guard) (d a h : BitVec 5) (s : State) : Out :=
  rowOp1 gd true (decide (h.toNat < 2)) d a s fun _ x => ((x >>> (256 * h.toNat)).setWidth 256).setWidth 512

/-! ### Reductions, ordering, permutes -/

/-- VRSUM. -/
def execVrsum (gd : Guard) (d a : BitVec 5) (t : BitVec 3) (s : State) : Out :=
  vreduce gd d a t s fun s x y =>
    match laneFloat t with
    | some f => faddLane f s.ftz .rne x y
    | none => (addLane (laneBits t) x y, 0)

/-- VRMAX. -/
def execVrmax (gd : Guard) (d a : BitVec 5) (t : BitVec 3) (s : State) : Out :=
  vreduce gd d a t s fun s x y =>
    match laneFloat t with
    | some f => fminmaxLane f s.ftz true x y
    | none => (maxLane (laneBits t) x y, 0)

/-- VRMIN. -/
def execVrmin (gd : Guard) (d a : BitVec 5) (t : BitVec 3) (s : State) : Out :=
  vreduce gd d a t s fun s x y =>
    match laneFloat t with
    | some f => fminmaxLane f s.ftz false x y
    | none => (minLane (laneBits t) x y, 0)

/-- VTOPK (R132). -/
def execVtopk (gd : Guard) (d a b : BitVec 5) (t : BitVec 3) (s : State) : Out :=
  rowOp2 gd (accepts [2, 5] t) d a b s fun x y =>
    rowOf 32 ((rankSort (rankList t 0 (lanesOf t x) (lanesOf 2 y))).map fun r => r.pos)

/-- VSHUF. -/
def execVshuf (gd : Guard) (d a b : BitVec 5) (t : BitVec 3) (s : State) : Out :=
  rowOp2 gd (accepts allTypes t) d a b s fun x y =>
    let l := lanesOf t x
    rowOf (laneBits t) ((lanesOf t y).map fun i => laneAt l (i % laneCount t))

/-- VBCST. -/
def execVbcst (gd : Guard) (d a l : BitVec 5) (t : BitVec 3) (s : State) : Out :=
  rowOp1 gd (accepts allTypes t) (decide (l.toNat < laneCount t)) d a s fun _ x =>
    rowOf (laneBits t) (List.replicate (laneCount t) (laneAt (lanesOf t x) l.toNat))

/-- VSLIDE. -/
def execVslide (gd : Guard) (d a k : BitVec 5) (t : BitVec 3) (s : State) : Out :=
  aWord 3 gd s fun s =>
    issueA 3 s (accepts allTypes t && noPort d) (decide (k.toNat ≤ laneCount t)) [a, d] [d] [] fun s =>
      let l := (lanesOf t (s.rowAt d) ++ lanesOf t (s.rowAt a)).drop k.toNat
      ((s.popAll [a]).writeRow d (rowOf (laneBits t) (l.take (laneCount t)))).finishA 0

/-- VIDX. -/
def execVidx (gd : Guard) (d a : BitVec 5) (t : BitVec 3) (s : State) : Out :=
  rowOp1 gd (accepts intTypes t) true d a s fun _ x =>
    let base := laneAt (lanesOf t x) 0
    rowOf (laneBits t) ((List.range (laneCount t)).map fun e => addLane (laneBits t) base e)

/-- VRNG (R134). -/
def execVrng (gd : Guard) (d a : BitVec 5) (w : BitVec 2) (t : BitVec 3) (s : State) : Out :=
  rowOp1 gd (accepts [2] t) true d a s fun s x =>
    rowOf 32 ((List.range 16).map fun e =>
      let r := mjx (x.setWidth 64 + BitVec.ofNat 64 e) (s.tile.ctx.seeds.setWidth 32) (x.extractLsb' 64 32) s.tile.ctx.seedk
      match w.toNat with
      | 0 => r.w0.toNat
      | 1 => r.w1.toNat
      | 2 => r.w2.toNat
      | _ => r.w3.toNat)

/-- VMOV (R135). -/
def execVmov (gd : Guard) (d a : BitVec 5) (s : State) : Out := rowOp1 gd true true d a s fun _ x => x

end Sys2Proof.Machine
end

