-- ==== Sys2Proof/Machine/Dispatch.lean ====
section
/-!
DEFINITION. One arm per operation of the opcode table, each a direct call of its meaning.
-/

namespace Sys2Proof.Machine

/-- The effect of one operation. -/
def exec (i : Instr) (s : State) : Host.Outcome State Fault Refusal :=
  match i with
  | .nop g => Sys2Proof.Machine.execNop g s
  | .halt g => Sys2Proof.Machine.execHalt g s
  | .trap g c => Sys2Proof.Machine.execTrap g c s
  | .tret g => Sys2Proof.Machine.execTret g s
  | .ebrk g c => Sys2Proof.Machine.execEbrk g c s
  | .wpsw g d a => Sys2Proof.Machine.execWpsw g d a s
  | .yield g => Sys2Proof.Machine.execYield g s
  | .csrr g d c => Sys2Proof.Machine.execCsrr g d c s
  | .csrw g d a c => Sys2Proof.Machine.execCsrw g d a c s
  | .csrs g d a c => Sys2Proof.Machine.execCsrs g d a c s
  | .csrc g d a c => Sys2Proof.Machine.execCsrc g d a c s
  | .add g d a b => Sys2Proof.Machine.execAdd g d a b s
  | .sub g d a b => Sys2Proof.Machine.execSub g d a b s
  | .and g d a b => Sys2Proof.Machine.execAnd g d a b s
  | .or g d a b => Sys2Proof.Machine.execOr g d a b s
  | .xor g d a b => Sys2Proof.Machine.execXor g d a b s
  | .andn g d a b => Sys2Proof.Machine.execAndn g d a b s
  | .shl g d a b => Sys2Proof.Machine.execShl g d a b s
  | .shr g d a b => Sys2Proof.Machine.execShr g d a b s
  | .sra g d a b => Sys2Proof.Machine.execSra g d a b s
  | .rol g d a b => Sys2Proof.Machine.execRol g d a b s
  | .mul g d a b => Sys2Proof.Machine.execMul g d a b s
  | .mulh g d a b => Sys2Proof.Machine.execMulh g d a b s
  | .mulhu g d a b => Sys2Proof.Machine.execMulhu g d a b s
  | .div g d a b => Sys2Proof.Machine.execDiv g d a b s
  | .divu g d a b => Sys2Proof.Machine.execDivu g d a b s
  | .rem g d a b => Sys2Proof.Machine.execRem g d a b s
  | .remu g d a b => Sys2Proof.Machine.execRemu g d a b s
  | .min g d a b => Sys2Proof.Machine.execMin g d a b s
  | .max g d a b => Sys2Proof.Machine.execMax g d a b s
  | .minu g d a b => Sys2Proof.Machine.execMinu g d a b s
  | .maxu g d a b => Sys2Proof.Machine.execMaxu g d a b s
  | .slt g d a b => Sys2Proof.Machine.execSlt g d a b s
  | .sltu g d a b => Sys2Proof.Machine.execSltu g d a b s
  | .clz g d a => Sys2Proof.Machine.execClz g d a s
  | .ctz g d a => Sys2Proof.Machine.execCtz g d a s
  | .popc g d a => Sys2Proof.Machine.execPopc g d a s
  | .addi g d a i_ => Sys2Proof.Machine.execAddi g d a i_ s
  | .andi g d a i_ => Sys2Proof.Machine.execAndi g d a i_ s
  | .ori g d a i_ => Sys2Proof.Machine.execOri g d a i_ s
  | .xori g d a i_ => Sys2Proof.Machine.execXori g d a i_ s
  | .shli g d a s_ => Sys2Proof.Machine.execShli g d a s_ s
  | .shri g d a s_ => Sys2Proof.Machine.execShri g d a s_ s
  | .srai g d a s_ => Sys2Proof.Machine.execSrai g d a s_ s
  | .roli g d a s_ => Sys2Proof.Machine.execRoli g d a s_ s
  | .slti g d a i_ => Sys2Proof.Machine.execSlti g d a i_ s
  | .ldi g d i_ => Sys2Proof.Machine.execLdi g d i_ s
  | .ldih g d i_ => Sys2Proof.Machine.execLdih g d i_ s
  | .pset g d a b c => Sys2Proof.Machine.execPset g d a b c s
  | .plogAnd g d a b => Sys2Proof.Machine.execPlogAnd g d a b s
  | .plogOr g d a b => Sys2Proof.Machine.execPlogOr g d a b s
  | .plogXor g d a b => Sys2Proof.Machine.execPlogXor g d a b s
  | .plogAndn g d a b => Sys2Proof.Machine.execPlogAndn g d a b s
  | .plogNot g d a => Sys2Proof.Machine.execPlogNot g d a s
  | .br g i_ => Sys2Proof.Machine.execBr g i_ s
  | .call g i_ => Sys2Proof.Machine.execCall g i_ s
  | .jmpr g d a => Sys2Proof.Machine.execJmpr g d a s
  | .beq g a b i_ => Sys2Proof.Machine.execBeq g a b i_ s
  | .bne g a b i_ => Sys2Proof.Machine.execBne g a b i_ s
  | .blt g a b i_ => Sys2Proof.Machine.execBlt g a b i_ s
  | .bge g a b i_ => Sys2Proof.Machine.execBge g a b i_ s
  | .bltu g a b i_ => Sys2Proof.Machine.execBltu g a b i_ s
  | .bgeu g a b i_ => Sys2Proof.Machine.execBgeu g a b i_ s
  | .bp g m q i_ => Sys2Proof.Machine.execBp g m q i_ s
  | .loop g a l => Sys2Proof.Machine.execLoop g a l s
  | .rpt g k c s_ => Sys2Proof.Machine.execRpt g k c s_ s
  | .repeatMarker => Sys2Proof.Machine.execRepeatMarker s
  | .ld g d a z i_ => Sys2Proof.Machine.execLd g d a z i_ s
  | .st g s_ a z i_ => Sys2Proof.Machine.execSt g s_ a z i_ s
  | .ldq g k r a b => Sys2Proof.Machine.execLdq g k r a b s
  | .stq g k r a b => Sys2Proof.Machine.execStq g k r a b s
  | .aadd g d a b w => Sys2Proof.Machine.execAadd g d a b w s
  | .amin g d a b w => Sys2Proof.Machine.execAmin g d a b w s
  | .amax g d a b w => Sys2Proof.Machine.execAmax g d a b w s
  | .aand g d a b w => Sys2Proof.Machine.execAand g d a b w s
  | .aor g d a b w => Sys2Proof.Machine.execAor g d a b w s
  | .axor g d a b w => Sys2Proof.Machine.execAxor g d a b w s
  | .aswp g d a b w => Sys2Proof.Machine.execAswp g d a b w s
  | .acas g d a b w => Sys2Proof.Machine.execAcas g d a b w s
  | .frel g s_ => Sys2Proof.Machine.execFrel g s_ s
  | .facq g s_ => Sys2Proof.Machine.execFacq g s_ s
  | .fseq g s_ => Sys2Proof.Machine.execFseq g s_ s
  | .txb g d disp => Sys2Proof.Machine.execTxb g d disp s
  | .txc g s_ => Sys2Proof.Machine.execTxc g s_ s
  | .txa g c => Sys2Proof.Machine.execTxa g c s
  | .txConflict line isLoad => Sys2Proof.Machine.execTxConflict line isLoad s
  | .coord g d a => Sys2Proof.Machine.execCoord g d a s
  | .mkaddr g d a b => Sys2Proof.Machine.execMkaddr g d a b s
  | .addp g d a b => Sys2Proof.Machine.execAddp g d a b s
  | .fmtset g d a b => Sys2Proof.Machine.execFmtset g d a b s
  | .absaddr g d a => Sys2Proof.Machine.execAbsaddr g d a s
  | .bind g k t s_ => Sys2Proof.Machine.execBind g k t s_ s
  | .unbind g k => Sys2Proof.Machine.execUnbind g k s
  | .pdrop g k c => Sys2Proof.Machine.execPdrop g k c s
  | .plvl g d k => Sys2Proof.Machine.execPlvl g d k s
  | .movx g k a => Sys2Proof.Machine.execMovx g k a s
  | .movg g d k => Sys2Proof.Machine.execMovg g d k s
  | .orderedOpExecute => Sys2Proof.Machine.execOrderedOpExecute s
  | .rset g a c => Sys2Proof.Machine.execRset g a c s
  | .wfill g d c => Sys2Proof.Machine.execWfill g d c s
  | .wfree g c => Sys2Proof.Machine.execWfree g c s
  | .pub g c => Sys2Proof.Machine.execPub g c s
  | .cons g d c => Sys2Proof.Machine.execCons g d c s
  | .epush g a e => Sys2Proof.Machine.execEpush g a e s
  | .epop g d w e => Sys2Proof.Machine.execEpop g d w e s
  | .cpy g c a b => Sys2Proof.Machine.execCpy g c a b s
  | .mbw g m a => Sys2Proof.Machine.execMbw g m a s
  | .send g d a b => Sys2Proof.Machine.execSend g d a b s
  | .recv g d => Sys2Proof.Machine.execRecv g d s
  | .waitm g => Sys2Proof.Machine.execWaitm g s
  | .mstat g d => Sys2Proof.Machine.execMstat g d s
  | .sstep g e a b => Sys2Proof.Machine.execSstep g e a b s
  | .barj g d a b => Sys2Proof.Machine.execBarj g d a b s
  | .waite g d m => Sys2Proof.Machine.execWaite g d m s
  | .sleep g d a => Sys2Proof.Machine.execSleep g d a s
  | .tspawn g d a b => Sys2Proof.Machine.execTspawn g d a b s
  | .tjoin g d a b => Sys2Proof.Machine.execTjoin g d a b s
  | .tdone g a => Sys2Proof.Machine.execTdone g a s
  | .sprl g d a b => Sys2Proof.Machine.execSprl g d a b s
  | .sprx g d a => Sys2Proof.Machine.execSprx g d a s
  | .swrb g a => Sys2Proof.Machine.execSwrb g a s
  | .swmx g a => Sys2Proof.Machine.execSwmx g a s
  | .gang g c => Sys2Proof.Machine.execGang g c s
  | .ungang g => Sys2Proof.Machine.execUngang g s
  | .anop g => Sys2Proof.Machine.execAnop g s
  | .vadd g d a b t => Sys2Proof.Machine.execVadd g d a b t s
  | .vsub g d a b t => Sys2Proof.Machine.execVsub g d a b t s
  | .vmul g d a b t => Sys2Proof.Machine.execVmul g d a b t s
  | .vmulh g d a b t => Sys2Proof.Machine.execVmulh g d a b t s
  | .vmin g d a b t => Sys2Proof.Machine.execVmin g d a b t s
  | .vmax g d a b t => Sys2Proof.Machine.execVmax g d a b t s
  | .vand g d a b t => Sys2Proof.Machine.execVand g d a b t s
  | .vor g d a b t => Sys2Proof.Machine.execVor g d a b t s
  | .vxor g d a b t => Sys2Proof.Machine.execVxor g d a b t s
  | .vshl g d a b t => Sys2Proof.Machine.execVshl g d a b t s
  | .vshr g d a b t => Sys2Proof.Machine.execVshr g d a b t s
  | .vsra g d a b t => Sys2Proof.Machine.execVsra g d a b t s
  | .vabs g d a t => Sys2Proof.Machine.execVabs g d a t s
  | .vneg g d a t => Sys2Proof.Machine.execVneg g d a t s
  | .vadds g d a b t => Sys2Proof.Machine.execVadds g d a b t s
  | .vsubs g d a b t => Sys2Proof.Machine.execVsubs g d a b t s
  | .fadd g d a b t => Sys2Proof.Machine.execFadd g d a b t s
  | .fsub g d a b t => Sys2Proof.Machine.execFsub g d a b t s
  | .fmul g d a b t => Sys2Proof.Machine.execFmul g d a b t s
  | .fmin g d a b t => Sys2Proof.Machine.execFmin g d a b t s
  | .fmax g d a b t => Sys2Proof.Machine.execFmax g d a b t s
  | .fabs g d a t => Sys2Proof.Machine.execFabs g d a t s
  | .fneg g d a t => Sys2Proof.Machine.execFneg g d a t s
  | .ffma g d a b t => Sys2Proof.Machine.execFfma g d a b t s
  | .vcmpEq g d a b t => Sys2Proof.Machine.execVcmpEq g d a b t s
  | .vcmpNe g d a b t => Sys2Proof.Machine.execVcmpNe g d a b t s
  | .vcmpLt g d a b t => Sys2Proof.Machine.execVcmpLt g d a b t s
  | .vcmpLe g d a b t => Sys2Proof.Machine.execVcmpLe g d a b t s
  | .vcmpGt g d a b t => Sys2Proof.Machine.execVcmpGt g d a b t s
  | .vcmpGe g d a b t => Sys2Proof.Machine.execVcmpGe g d a b t s
  | .vcmpOrd g d a b t => Sys2Proof.Machine.execVcmpOrd g d a b t s
  | .vcmpUno g d a b t => Sys2Proof.Machine.execVcmpUno g d a b t s
  | .vtestAny g c a t => Sys2Proof.Machine.execVtestAny g c a t s
  | .vtestAll g c a t => Sys2Proof.Machine.execVtestAll g c a t s
  | .vsel g d a b => Sys2Proof.Machine.execVsel g d a b s
  | .frcp g d a t => Sys2Proof.Machine.execFrcp g d a t s
  | .frsq g d a t => Sys2Proof.Machine.execFrsq g d a t s
  | .fsqrt g d a t => Sys2Proof.Machine.execFsqrt g d a t s
  | .fexp2 g d a t => Sys2Proof.Machine.execFexp2 g d a t s
  | .flog2 g d a t => Sys2Proof.Machine.execFlog2 g d a t s
  | .ftanh g d a t => Sys2Proof.Machine.execFtanh g d a t s
  | .vcvt g d a r s_ t => Sys2Proof.Machine.execVcvt g d a r s_ t s
  | .vqnt g d a k t => Sys2Proof.Machine.execVqnt g d a k t s
  | .vdq g d a k t => Sys2Proof.Machine.execVdq g d a k t s
  | .vpack g d a b => Sys2Proof.Machine.execVpack g d a b s
  | .vunpk g d a h => Sys2Proof.Machine.execVunpk g d a h s
  | .vrsum g d a t => Sys2Proof.Machine.execVrsum g d a t s
  | .vrmax g d a t => Sys2Proof.Machine.execVrmax g d a t s
  | .vrmin g d a t => Sys2Proof.Machine.execVrmin g d a t s
  | .vtopk g d a b t => Sys2Proof.Machine.execVtopk g d a b t s
  | .vshuf g d a b t => Sys2Proof.Machine.execVshuf g d a b t s
  | .vbcst g d a l t => Sys2Proof.Machine.execVbcst g d a l t s
  | .vslide g d a k t => Sys2Proof.Machine.execVslide g d a k t s
  | .vidx g d a t => Sys2Proof.Machine.execVidx g d a t s
  | .vrng g d a w t => Sys2Proof.Machine.execVrng g d a w t s
  | .vmov g d a => Sys2Proof.Machine.execVmov g d a s
  | .mldb g b s_ c k => Sys2Proof.Machine.execMldb g b s_ c k s
  | .mswp g o => Sys2Proof.Machine.execMswp g o s
  | .mma g a v s_ k => Sys2Proof.Machine.execMma g a v s_ k s
  | .macz g m => Sys2Proof.Machine.execMacz g m s
  | .mrd g d j h c => Sys2Proof.Machine.execMrd g d j h c s
  | .mcfg g d a => Sys2Proof.Machine.execMcfg g d a s
  | .tshape g param => Sys2Proof.Machine.execTshape g param s
  | .tbind g hd ha mode param => Sys2Proof.Machine.execTbind g hd ha mode param s
  | .tmma g hd ha hb hc mode param => Sys2Proof.Machine.execTmma g hd ha hb hc mode param s
  | .tmm g hd ha hb mode param => Sys2Proof.Machine.execTmm g hd ha hb mode param s
  | .tew g hd ha hb mode param => Sys2Proof.Machine.execTew g hd ha hb mode param s
  | .tcvt g hd ha mode param => Sys2Proof.Machine.execTcvt g hd ha mode param s
  | .tred g hd ha mode param => Sys2Proof.Machine.execTred g hd ha mode param s
  | .ttopk g hd ha hc mode param => Sys2Proof.Machine.execTtopk g hd ha hc mode param s
  | .tcopy g hd ha param => Sys2Proof.Machine.execTcopy g hd ha param s
  | .tfill g hd mode param => Sys2Proof.Machine.execTfill g hd mode param s
  | .ttrans g hd ha mode param => Sys2Proof.Machine.execTtrans g hd ha mode param s
  | .tdrop g hd ha hc mode param => Sys2Proof.Machine.execTdrop g hd ha hc mode param s
  | .tsync g mode param => Sys2Proof.Machine.execTsync g mode param s
  | .tsyncDrop g param => Sys2Proof.Machine.execTsyncDrop g param s
  | .tcoll g hd ha mode param => Sys2Proof.Machine.execTcoll g hd ha mode param s
  | .tileInsnStart => Sys2Proof.Machine.execTileInsnStart s
  | .tileInsnCommit => Sys2Proof.Machine.execTileInsnCommit s
  | .childComplete ctx level coord => Sys2Proof.Machine.execChildComplete ctx level coord s
  | .childFaultReport ctx level coord cause value child kdone => Sys2Proof.Machine.execChildFaultReport ctx level coord cause value child kdone s
  | .ldqRowDeliver port => Sys2Proof.Machine.execLdqRowDeliver port s
  | .stqRowWrite port => Sys2Proof.Machine.execStqRowWrite port s
  | .copyStreamRow ch => Sys2Proof.Machine.execCopyStreamRow ch s
  | .copyComplete idx => Sys2Proof.Machine.execCopyComplete idx s
  | .remoteAccess agent op addr size => Sys2Proof.Machine.execRemoteAccess agent op addr size s
  | .remoteAnswer ok => Sys2Proof.Machine.execRemoteAnswer ok s
  | .postedStoreReject idx => Sys2Proof.Machine.execPostedStoreReject idx s
  | .remoteTimeout what => Sys2Proof.Machine.execRemoteTimeout what s
  | .messageArrival sender tag data => Sys2Proof.Machine.execMessageArrival sender tag data s
  | .depositArrival sender tag dreg value => Sys2Proof.Machine.execDepositArrival sender tag dreg value s
  | .allowanceReturn => Sys2Proof.Machine.execAllowanceReturn s
  | .scopeMissMessage line tsc rq => Sys2Proof.Machine.execScopeMissMessage line tsc rq s
  | .l1Eviction line => Sys2Proof.Machine.execL1Eviction line s
  | .pageWalkComplete => Sys2Proof.Machine.execPageWalkComplete s
  | .scrubRead where_ => Sys2Proof.Machine.execScrubRead where_ s
  | .preemptRequest => Sys2Proof.Machine.execPreemptRequest s
  | .asyncTrap => Sys2Proof.Machine.execAsyncTrap s
  | .snapatMatch => Sys2Proof.Machine.execSnapatMatch s
  | .allAsleepDetect ctx => Sys2Proof.Machine.execAllAsleepDetect ctx s
  | .contextLoad => Sys2Proof.Machine.execContextLoad s
  | .saveTimeout => Sys2Proof.Machine.execSaveTimeout s
  | .cutRequest ctx answers => Sys2Proof.Machine.execCutRequest ctx answers s
  | .computeBarrierComplete ctx => Sys2Proof.Machine.execComputeBarrierComplete ctx s
  | .exchangeLanded ctx => Sys2Proof.Machine.execExchangeLanded ctx s
  | .barrierRelease ctx cycle => Sys2Proof.Machine.execBarrierRelease ctx cycle s
  | .staggerExpire => Sys2Proof.Machine.execStaggerExpire s
  | .notify queue tail => Sys2Proof.Machine.execNotify queue tail s
  | .queueMap => Sys2Proof.Machine.execQueueMap s
  | .queueEvict => Sys2Proof.Machine.execQueueEvict s
  | .launch queue => Sys2Proof.Machine.execLaunch queue s
  | .launchAdmit => Sys2Proof.Machine.execLaunchAdmit s
  | .tile queue => Sys2Proof.Machine.execTile queue s
  | .copy queue => Sys2Proof.Machine.execCopy queue s
  | .signal queue => Sys2Proof.Machine.execSignal queue s
  | .signalPerform queue => Sys2Proof.Machine.execSignalPerform queue s
  | .wait queue => Sys2Proof.Machine.execWait queue s
  | .waitSatisfied queue => Sys2Proof.Machine.execWaitSatisfied queue s
  | .waitTimeout queue => Sys2Proof.Machine.execWaitTimeout queue s
  | .checkpoint queue => Sys2Proof.Machine.execCheckpoint queue s
  | .shoot queue => Sys2Proof.Machine.execShoot queue s
  | .shootdownDieAck die => Sys2Proof.Machine.execShootdownDieAck die s
  | .kill queue => Sys2Proof.Machine.execKill queue s
  | .pfr queue => Sys2Proof.Machine.execPfr queue s
  | .qstop queue => Sys2Proof.Machine.execQstop queue s
  | .packetComplete queue idx => Sys2Proof.Machine.execPacketComplete queue idx s
  | .contextComplete ctx => Sys2Proof.Machine.execContextComplete ctx s
  | .quantumEnd => Sys2Proof.Machine.execQuantumEnd s
  | .hangWatchdogExpire ctx => Sys2Proof.Machine.execHangWatchdogExpire ctx s
  | .hubWatchdogExpire => Sys2Proof.Machine.execHubWatchdogExpire s
  | .buckRebootDone => Sys2Proof.Machine.execBuckRebootDone s
  | .kidHeartbeatCheck silent => Sys2Proof.Machine.execKidHeartbeatCheck silent s
  | .taskAppend desc record => Sys2Proof.Machine.execTaskAppend desc record s
  | .taskDispense ctx tile => Sys2Proof.Machine.execTaskDispense ctx tile s
  | .leaseRequest tile ctx power duration => Sys2Proof.Machine.execLeaseRequest tile ctx power duration s
  | .leaseExpire strip => Sys2Proof.Machine.execLeaseExpire strip s
  | .thermalSample strip temp power => Sys2Proof.Machine.execThermalSample strip temp power s
  | .heatStoreUpdate milliwatts => Sys2Proof.Machine.execHeatStoreUpdate milliwatts s
  | .pcapWrite cap => Sys2Proof.Machine.execPcapWrite cap s
  | .governorTrip => Sys2Proof.Machine.execGovernorTrip s
  | .governorRelease => Sys2Proof.Machine.execGovernorRelease s
  | .capBreachDetect power => Sys2Proof.Machine.execCapBreachDetect power s
  | .holdExpire => Sys2Proof.Machine.execHoldExpire s
  | .tilePowerUp => Sys2Proof.Machine.execTilePowerUp s
  | .energyTick => Sys2Proof.Machine.execEnergyTick s
  | .join att station fields => Sys2Proof.Machine.execJoin att station fields s
  | .start att group members frame => Sys2Proof.Machine.execStart att group members frame s
  | .reject att group reason => Sys2Proof.Machine.execReject att group reason s
  | .withdraw att group station => Sys2Proof.Machine.execWithdraw att group station s
  | .withdrawn att group => Sys2Proof.Machine.execWithdrawn att group s
  | .joinTimeout att group => Sys2Proof.Machine.execJoinTimeout att group s
  | .acknowledgementField att wave group lit counts ownReads => Sys2Proof.Machine.execAcknowledgementField att wave group lit counts ownReads s
  | .collectiveEnd att => Sys2Proof.Machine.execCollectiveEnd att s
  | .flit att src errors wait payload => Sys2Proof.Machine.execFlit att src errors wait payload s
  | .retryFlit att station seq => Sys2Proof.Machine.execRetryFlit att station seq s
  | .retire att wave frame => Sys2Proof.Machine.execRetire att wave frame s
  | .reinstate att change => Sys2Proof.Machine.execReinstate att change s
  | .retrainDone att done => Sys2Proof.Machine.execRetrainDone att done s
  | .linkTraining att station nstn lead actw wlim acklag delays => Sys2Proof.Machine.execLinkTraining att station nstn lead actw wlim acklag delays s
  | .launchDelayTrim att wave later => Sys2Proof.Machine.execLaunchDelayTrim att wave later s
  | .segmentDown att => Sys2Proof.Machine.execSegmentDown att s
  | .deviceReset => Sys2Proof.Machine.execDeviceReset s
  | .startTimerExpire => Sys2Proof.Machine.execStartTimerExpire s
  | .bootokSet => Sys2Proof.Machine.execBootokSet s
  | .standbyPowerLoss => Sys2Proof.Machine.execStandbyPowerLoss s
  | .recovWrite len => Sys2Proof.Machine.execRecovWrite len s
  | .pkgidWrite id => Sys2Proof.Machine.execPkgidWrite id s
  | .functionLevelReset => Sys2Proof.Machine.execFunctionLevelReset s
  | .howlkWrite write => Sys2Proof.Machine.execHowlkWrite write s
  | .attestRequest nonce => Sys2Proof.Machine.execAttestRequest nonce s
  | .snaptWrite cycle => Sys2Proof.Machine.execSnaptWrite cycle s
  | .snapinEdge => Sys2Proof.Machine.execSnapinEdge s
  | .packageSnapshotLatch => Sys2Proof.Machine.execPackageSnapshotLatch s
  | .snapresRearm => Sys2Proof.Machine.execSnapresRearm s
  | .snapresResume => Sys2Proof.Machine.execSnapresResume s
  | .acctlClr die => Sys2Proof.Machine.execAcctlClr die s
  | .acrstWrite die value => Sys2Proof.Machine.execAcrstWrite die value s
  | .anqhWrite die head => Sys2Proof.Machine.execAnqhWrite die head s
  | .swlfClr att => Sys2Proof.Machine.execSwlfClr att s
  | .registerWrite offset write => Sys2Proof.Machine.execRegisterWrite offset write s
  | .discoveryStart die agent => Sys2Proof.Machine.execDiscoveryStart die agent s
  | .dfawn die => Sys2Proof.Machine.execDfawn die s
  | .fawnPacket die x y => Sys2Proof.Machine.execFawnPacket die x y s
  | .fawnReply die reply => Sys2Proof.Machine.execFawnReply die reply s
  | .dreply die => Sys2Proof.Machine.execDreply die s
  | .dcoord die value => Sys2Proof.Machine.execDcoord die value s
  | .dmoff die value => Sys2Proof.Machine.execDmoff die value s
  | .dmdata die value => Sys2Proof.Machine.execDmdata die value s
  | .multicastPacket die pidx => Sys2Proof.Machine.execMulticastPacket die pidx s
  | .ddone die value => Sys2Proof.Machine.execDdone die value s
  | .discoveryTimeout die => Sys2Proof.Machine.execDiscoveryTimeout die s
  | .unassignedEncoding aHalf bad word => Sys2Proof.Machine.execUnassignedEncoding aHalf bad word s
  | .unassignedType queue => Sys2Proof.Machine.execUnassignedType queue s
  | .softErrorInStoredBits where_ correctable => Sys2Proof.Machine.execSoftErrorInStoredBits where_ correctable s
  | .sleepLimitReached => Sys2Proof.Machine.execSleepLimitReached s
  | .reservationConfirmed line => Sys2Proof.Machine.execReservationConfirmed line s
  | .railLevelReached strip => Sys2Proof.Machine.execRailLevelReached strip s
  | .kidCoreRestarted core => Sys2Proof.Machine.execKidCoreRestarted core s
  | .tileLevelFaultReport coord cause value => Sys2Proof.Machine.execTileLevelFaultReport coord cause value s
  | .fusedSvnRaise => Sys2Proof.Machine.execFusedSvnRaise s

end Sys2Proof.Machine
end

