-- ==== Sys2Proof/Machine/Step.lean ====
section
/-!
DEFINITION. One step of the machine, and the placing of an instruction as the next one to run.
-/

namespace Sys2Proof.Machine

/-- One step. -/
def step (s : State) : Host.Outcome State Fault Refusal :=
  match s.plan with
  | .exec i t => exec i t
  | .out o => o

/-- `s` with one instruction as the next to run (log 7): a C-word or a tile instruction in the bundle at APC, an A-word in the
queue of the execute half. -/
def State.withFetchWord (s : State) (nbits w : Nat) : State := s.placed nbits w

end Sys2Proof.Machine
end

