-- ==== Sys2Proof/Safety.lean ====
section
/-!
DEFINITION. The terms claims are stated in: an operation that answers, a word that issues, a word that has completed, and
the canonical form of the memories of a state.
-/

namespace Sys2Proof.Machine

/-- An operation answers a next state of which `P` holds. -/
def Answers (i : Instr) (s : State) (P : State → Prop) : Prop := ∃ t, exec i s = .next t ∧ P t

/-! ### Words of the access half -/

/-- A C-word has its effect: its bundle's A-word has room in the queue, and its guard holds (R9, R76). -/
def State.issuesC (s : State) (gd : Guard) : Prop := s.queueFull = false ∧ s.guardC gd = true

/-- The C-word in hand has been charged (R370). -/
def State.charged (s : State) : Bool :=
  match s.tile.front.latch with
  | some l => l.begun
  | none => false

/-- ENERGY once a C-word of class `cls` has been charged: in task mode, once (R370, R371). -/
def State.energyC (s : State) (cls : Fin 8) : Word :=
  if s.sup || s.charged then s.tile.ctx.energy
  else chargeEnergy s.tile.ctx.energy ((s.tile.csr.ew.get cls).toNat % 2 ^ 20)

/-- A bundle that completes here is followed by the next one: the tile follows no leader, and the bundle is not the last
of an active loop body (R95, R98, R210). -/
def State.straight (s : State) : Prop :=
  s.tile.res.leaderNext = none ∧ ¬(s.tile.front.loop.lact = true ∧ s.tile.front.apc = s.tile.front.loop.last)

/-- The A-word of the bundle in hand as it enters the queue. -/
def State.ownItem (s : State) : List AItem :=
  match s.ownA with
  | some w => [{ word := w, addr := s.tile.front.apc }]
  | none => []

/-- The access half behind a bundle that completes straight on: APC at the next bundle, the A-word passed (R9, R95). -/
def State.frontAfter (s : State) : Front :=
  { s.tile.front with
    apc := nextBundle s.tile.front.apc, latch := none, ast := .run, skip := false, aq := s.tile.front.aq ++ s.ownItem }

/-- `f` differs from `f'` only in what completing a bundle writes: APC, the bundle in hand and those fetched ahead, the
A-words passed, the state of the half, and LOOP. -/
def Front.movedFrom (f f' : Front) : Prop :=
  f = { f' with apc := f.apc, latch := none, ahead := f.ahead, aq := f.aq, ast := f.ast, skip := false, loop := f.loop }

/-- A C-word of class `cls` has completed in `s` and leaves `t`, in which the registers are `r`, ENERGY has been charged
and the access half has moved on; nothing else has changed. -/
def State.doneC (s t : State) (cls : Fin 8) (r : Regs) : Prop :=
  t = { s with tile := { s.tile with
    regs := r, front := t.tile.front, ctx := { s.tile.ctx with energy := s.energyC cls } } }
    ∧ t.tile.front.movedFrom s.tile.front ∧ (s.straight → t.tile.front = s.frontAfter)

/-- A C-word of class `cls` answers, with `r` in the registers and nothing else changed. -/
def DoneC (i : Instr) (s : State) (cls : Fin 8) (r : Regs) : Prop := Answers i s fun t => s.doneC t cls r


/-- A C-word of class `cls` answers, with `r` in the registers, and the tile goes on at `target`: the bundle ends with a
taken transfer, and nothing else has changed (R95, R98). -/
def JumpsC (i : Instr) (s : State) (cls : Fin 8) (r : Regs) (target : Word) : Prop :=
  exec i s = .next { s with tile := { s.tile with
    regs := r, ctx := { s.tile.ctx with energy := s.energyC cls }
    front := { s.tile.front with
      apc := target, latch := none, ahead := [], ast := .run, skip := false
      loop := s.tile.front.loop.afterTransfer target } } }

/-- A transfer of the bundle in hand is taken at once: its own A-word has been passed, the execute half has issued every
A-word passed, and the tile follows no leader (R95, R210, R238). -/
def State.jumps (s : State) : Prop := s.ownA = none ∧ s.caughtUp = true ∧ s.tile.res.leaderNext = none

/-- A C-word completes: what it leaves is `u`, but for the access half, which has moved on to the next bundle. -/
def CompletesC (i : Instr) (s u : State) : Prop :=
  Answers i s fun t => t = u.setFront t.tile.front ∧ t.tile.front.movedFrom s.tile.front
    ∧ (s.straight → t.tile.front = s.frontAfter)

/-- The access half has passed an ordered operation to the execute half and waits for it (R114, R238). -/
def State.passes (s : State) (op : OrderedOp) : State :=
  s.setFront { s.tile.front with ordered := some op, ast := .resource }

/-- A trap of the access half is taken as one: no transaction is open, and the execute half holds no trap of its own, which would
come first (R181, R237). -/
def State.calm (s : State) : Prop := s.txact = false ∧ s.tile.front.xtrap = none

/-! ### Words of the execute half -/

/-- An A-word issues (R12, R21, R76, R111, R119, R120): its guard holds, no operand is misplaced, every named port is bound
and ready, and nothing it reads holds an error. `reads` and `writes` are the positions, `also` are registers read beside them. -/
def State.issuesA (s : State) (gd : Guard) (reads writes also : List (BitVec 5)) : Prop :=
  s.guardA gd = true ∧ (∀ x ∈ reads, outPort x = none) ∧ (∀ x ∈ writes, inPort x = none)
    ∧ (∀ x ∈ reads ++ writes, s.unbound x = false ∧ s.notReady x = false)
    ∧ (∀ x ∈ reads ++ also, s.regError x = none) ∧ (∀ x ∈ reads, s.poisonAt x = none)

/-- No floating-point flag is enabled to trap (R33). -/
def State.quiet (s : State) : Prop := s.tile.ctx.fcsr.extractLsb' 16 6 = 0

/-- ENERGY once an A-word of class `cls` has issued (R370, R371). -/
def State.energyA (s : State) (cls : Fin 8) : Word :=
  if s.sup then s.tile.ctx.energy else chargeEnergy s.tile.ctx.energy ((s.tile.csr.ew.get cls).toNat % 2 ^ 20)

/-- What an A-word of class `cls` leaves: `u` says what is in the registers, the ports and the rest; the flags `fl` are ORed
into FCSR, ENERGY is charged, the word leaves the queue or the repeat moves on, and nothing else changes (R33, R100, R371). -/
def State.doneA (s u : State) (cls : Fin 8) (fl : BitVec 6) : State :=
  { u with tile := { u.tile with
    front := s.retireA.tile.front
    ctx := { u.tile.ctx with energy := s.energyA cls, fcsr := u.tile.ctx.fcsr ||| (fl.setWidth 64 <<< 8) } } }

/-- An A-word of class `cls` answers with `State.doneA`. -/
def DoneA (i : Instr) (s u : State) (cls : Fin 8) (fl : BitVec 6) : Prop := exec i s = .next (s.doneA u cls fl)

/-- Lane `k` of a row of lanes of `w` bits (R118). -/
def laneOf (w : Nat) (x : Row) (k : Nat) : BitVec w := x.extractLsb' (w * k) w

/-- The union of the flags of elements 0 to n - 1 (R120). -/
def flagsOf (n : Nat) (f : Nat → Nat × Flags) : Flags := (List.range n).foldl (fun x k => x ||| (f k).2) 0

/-- An A-word reads its sources, pops each in port among them once, and writes to its destination the row whose lane `k` is
`f k`, with the flags of all lanes (R12, R118 to R120). -/
def LanesA (i : Instr) (s : State) (reads : List (BitVec 5)) (d : BitVec 5) (w : Nat) (cls : Fin 8) (f : Nat → Nat × Flags) : Prop :=
  ∃ row : Row, (∀ k < 512 / w, (laneOf w row k).toNat = (f k).1 % 2 ^ w)
    ∧ DoneA i s ((s.popAll reads).writeRow d row) cls (flagsOf (512 / w) f)

/-! ### Packets -/

/-- The event that starts a packet of an assigned TYPE (Table 15.5). -/
def packetEvent (q : BitVec 10) (type : Nat) (i : Instr) : Prop :=
  type = 1 ∧ i = .launch q ∨ type = 2 ∧ i = .tile q ∨ type = 3 ∧ i = .copy q ∨ type = 4 ∧ i = .signal q ∨ type = 5 ∧ i = .wait q
    ∨ type = 6 ∧ i = .checkpoint q ∨ type = 0x10 ∧ i = .shoot q ∨ type = 0x11 ∧ i = .kill q ∨ type = 0x12 ∧ i = .pfr q
    ∨ type = 0x13 ∧ i = .qstop q

/-- The front end starts the next packet of queue `q`, which has TYPE `type`: `k` is the packet as it starts, `u` the state with
HEAD past it (R307, R309, R310). -/
def State.opens (s : State) (q : BitVec 10) (type : Nat) (u : State) (k : Pkt) : Prop :=
  s.startable (s.queue q) = some (some type) ∧ s.visited (s.queue q) = true
    ∧ ∃ s' w, s.nextPacket (s.queue q) = (s', .ok w)
      ∧ k = { idx := (s.queue q).head, words := w, since := s.cycle, phase := .running, ctx := 0, blocked := none, met := false } ∧ u = s'.begin_ (s.queue q) k

/-- The same of a packet that R309 does not stop. -/
def State.starts (s : State) (q : BitVec 10) (type : Nat) (u : State) (k : Pkt) : Prop :=
  s.opens q type u k ∧ k.refusedWith (s.queue q).priv = 0

/-- The packet of queue `q` has ended with STATUS and VALUE. -/
def State.hasEnded (t : State) (q : BitVec 10) (k : Pkt) (status : BitVec 8) (value : Word) : Prop :=
  { k with phase := .finished status 0 value 0 } ∈ (t.queue q).started

/-! ### Memory -/

/-- The canonical form of the memories of a state: memory and the two weight banks. -/
def State.canonical (s : State) : Prop :=
  s.mem.wf = true ∧ s.tile.matrix.bankA.wf = true ∧ s.tile.matrix.bankB.wf = true

/-- An access of the access half reaches `n` bytes of the own scratchpad at home address `a`, outside the staging window,
with no soft error there and no posted store on its way (Table 4.1, R88, R279, R296). -/
def State.reachesSpm (s : State) (acc : Acc) (p : Word) (n a : Nat) : Prop :=
  s.resolve true acc p n n = .mem a none ∧ addrSpm a = true ∧ s.isLocal a = true ∧ inStaging (addrOff a) = false
    ∧ s.hub.errors.bad = [] ∧ s.tile.path.posted = []

/-- `t` holds the low `n` bytes of `v` from `a` upwards, and every other byte of memory as `s` has it (R4). -/
def State.storesOnly (s t : State) (a n v : Nat) : Prop :=
  (∀ i < n, t.mem.read (a + i) = BitVec.ofNat 8 (v / 256 ^ i)) ∧ ∀ x, x < a ∨ a + n ≤ x → t.mem.read x = s.mem.read x

/-- `t` differs from `s` at most in the registers `r`, memory, the home tags, the soft errors found, scope misses on their
way, ENERGY and the places of the access half: the frame of an access. -/
def State.accessFrame (s t : State) (r : Regs) : Prop :=
  t = { s with
    mem := t.mem
    hub := { s.hub with tags := t.hub.tags, errors := t.hub.errors }
    tile := { s.tile with
      regs := r, front := t.tile.front, ctx := { s.tile.ctx with energy := s.energyC 2 }
      net := { s.tile.net with waiting := t.tile.net.waiting } } }
    ∧ t.tile.front.movedFrom s.tile.front ∧ (s.straight → t.tile.front = s.frontAfter)

end Sys2Proof.Machine
end

