-- ==== Sys2Proof/Certificates/Slice0/Obligations.lean ====
section
/-!
DEFINITION. The statements for the provers.
-/

open Sys2Proof Sys2Proof.Machine

/-! ### The access half -/

/-- R90, R91 and Table 4.2: the members of the ALU group with two sources, and what they leave unchanged. -/
def Obligations.AluGroupResults : Prop :=
  ∀ (s : State) (gd : Guard) (d a b : BitVec 5), s.issuesC gd →
    let x := s.g a
    let y := s.g b
    let n := y.toNat % 64
    let done (i : BitVec 5 → BitVec 5 → BitVec 5 → Instr) (v : Word) : Prop := DoneC (i d a b) s 0 (s.setG d v).tile.regs
    done (.add gd) (x + y) ∧ done (.sub gd) (x - y) ∧ done (.and gd) (x &&& y) ∧ done (.or gd) (x ||| y)
      ∧ done (.xor gd) (x ^^^ y) ∧ done (.andn gd) (x &&& ~~~y)
      ∧ done (.shl gd) (x <<< n) ∧ done (.shr gd) (x >>> n) ∧ done (.sra gd) (x.sshiftRight n)
      ∧ done (.rol gd) (x.rotateLeft n)
      ∧ done (.mul gd) (x * y)
      ∧ done (.mulh gd) ((x.signExtend 128 * y.signExtend 128).extractLsb' 64 64)
      ∧ done (.mulhu gd) ((x.setWidth 128 * y.setWidth 128).extractLsb' 64 64)
      ∧ done (.div gd) (if y = 0 then BitVec.allOnes 64 else x.sdiv y)
      ∧ done (.divu gd) (if y = 0 then BitVec.allOnes 64 else x / y)
      ∧ done (.rem gd) (if y = 0 then x else x.srem y)
      ∧ done (.remu gd) (if y = 0 then x else x % y)
      ∧ done (.min gd) (if x.slt y then x else y) ∧ done (.max gd) (if x.slt y then y else x)
      ∧ done (.minu gd) (if x.ult y then x else y) ∧ done (.maxu gd) (if x.ult y then y else x)
      ∧ done (.slt gd) (if x.slt y then 1 else 0) ∧ done (.sltu gd) (if x.ult y then 1 else 0)

/-- R90, R92, Tables 4.2 and 4.3: the members with one source and the immediate forms. -/
def Obligations.ImmediateFormResults : Prop :=
  ∀ (s : State) (gd : Guard) (d a : BitVec 5) (n : BitVec 6) (i : Imm 10) (j : Imm 15), s.issuesC gd →
    let x := s.g a
    let done (i : Instr) (v : Word) : Prop := DoneC i s 0 (s.setG d v).tile.regs
    let signed (i : Imm 10) : Word := match i with
      | .fld v => v.signExtend 64
      | .lone v => v.signExtend 64
    let zeroed (i : Imm 10) : Word := match i with
      | .fld v => v.signExtend 64
      | .lone v => v.setWidth 64
    done (.clz gd d a) x.clz ∧ done (.ctz gd d a) x.ctz ∧ done (.popc gd d a) x.cpop
      ∧ done (.addi gd d a i) (x + signed i) ∧ done (.andi gd d a i) (x &&& zeroed i)
      ∧ done (.ori gd d a i) (x ||| zeroed i) ∧ done (.xori gd d a i) (x ^^^ zeroed i)
      ∧ done (.shli gd d a n) (x <<< n) ∧ done (.shri gd d a n) (x >>> n)
      ∧ done (.srai gd d a n) (x.sshiftRight n.toNat) ∧ done (.roli gd d a n) (x.rotateLeft n.toNat)
      ∧ done (.slti gd d a i) (if x.slt (signed i) then 1 else 0)
      ∧ done (.ldi gd d j) (match j with
        | .fld v => v.signExtend 64
        | .lone v => v.signExtend 64)
      ∧ done (.ldih gd d j) ((match j with
        | .fld v => v.signExtend 32
        | .lone v => v) ++ (s.g d).extractLsb' 0 32)

/-- R93 and R94: PSET and PLOG write one predicate of the access half and nothing else. -/
def Obligations.PredicateResults : Prop :=
  ∀ (s : State) (gd : Guard) (pd pa pb : BitVec 3) (a : BitVec 5) (b : Imm 5), s.issuesC gd →
    let x := s.g a
    let y := match b with
      | .fld r => s.g r
      | .lone v => v.signExtend 64
    let done (i : Instr) (v : Bool) : Prop := DoneC i s 0 (s.setP pd v).tile.regs
    done (.pset gd pd a b 0) (x == y) ∧ done (.pset gd pd a b 1) (x != y)
      ∧ done (.pset gd pd a b 2) (x.slt y) ∧ done (.pset gd pd a b 3) (y.sle x)
      ∧ done (.pset gd pd a b 4) (x.ult y) ∧ done (.pset gd pd a b 5) (y.ule x)
      ∧ done (.plogAnd gd pd pa pb) (s.p pa && s.p pb) ∧ done (.plogOr gd pd pa pb) (s.p pa || s.p pb)
      ∧ done (.plogXor gd pd pa pb) (s.p pa ^^ s.p pb) ∧ done (.plogAndn gd pd pa pb) (s.p pa && !s.p pb)
      ∧ done (.plogNot gd pd pa) (!s.p pa)

/-- R15: g0 reads 0 and a write of it is discarded; a write of another general register is read back and leaves the
others; p0 and q0 read 1, and a write of another predicate is read back and leaves the others. -/
def Obligations.RegistersReadBack : Prop :=
  ∀ (s : State) (r r' : BitVec 5) (x : Word) (i i' : BitVec 3) (b : Bool),
    s.g 0 = 0 ∧ s.setG 0 x = s ∧ (r ≠ 0 → (s.setG r x).g r = x) ∧ (r ≠ r' → (s.setG r x).g r' = s.g r')
      ∧ s.p 0 = true ∧ s.q 0 = true
      ∧ (i ≠ 0 → (s.setP i b).p i = b ∧ (s.setQ i b).q i = b)
      ∧ (i ≠ i' → (s.setP i b).p i' = s.p i' ∧ (s.setQ i b).q i' = s.q i')
      ∧ (s.setP 0 b).tile.regs.p = s.tile.regs.p ∧ (s.setQ 0 b).tile.regs.q = s.tile.regs.q

/-- R95, R96 and Table 4.4: a transfer goes to ptr_add(A, 8 × disp) or to the address in ga, CALL and JMPR write A + 8;
a branch whose condition fails completes like any other bundle. -/
def Obligations.TransferResults : Prop :=
  ∀ (s : State) (gd : Guard) (d a b : BitVec 5) (q : BitVec 3) (m : BitVec 1) (i : Imm 10) (j : Imm 20) (k : Imm 16),
    s.issuesC gd → s.jumps →
    let A := s.tile.front.apc
    let x := s.g a
    let y := s.g b
    let disp {w : Nat} (i : Imm w) : Word := match i with
      | .fld v => v.signExtend 64
      | .lone v => v.signExtend 64
    let branch (i : Instr) (c : Bool) (disp : Word) : Prop :=
      if c then JumpsC i s 1 s.tile.regs (ptrAdd A (8 * disp)) else DoneC i s 1 s.tile.regs
    JumpsC (.br gd j) s 1 s.tile.regs (ptrAdd A (8 * disp j))
      ∧ JumpsC (.call gd j) s 1 (s.setG 31 (A + 8)).tile.regs (ptrAdd A (8 * disp j))
      ∧ (x.toNat % 8 = 0 → JumpsC (.jmpr gd d a) s 1 (s.setG d (A + 8)).tile.regs x)
      ∧ branch (.beq gd a b i) (x == y) (disp i) ∧ branch (.bne gd a b i) (x != y) (disp i)
      ∧ branch (.blt gd a b i) (x.slt y) (disp i) ∧ branch (.bge gd a b i) (y.sle x) (disp i)
      ∧ branch (.bltu gd a b i) (x.ult y) (disp i) ∧ branch (.bgeu gd a b i) (y.ule x) (disp i)
      ∧ branch (.bp gd m q k) (s.p q ^^ (m == 1)) (disp k)

/-- R97 to R100: LOOP with a count starts the body behind it, or goes behind the body where ga is 0; RPT passes its marker
once every A-word passed has issued, and the execute half then begins to capture. Behind the last bundle of a loop body, the
access half goes back to the first while LCNT is not 0, and counts down; behind the last iteration it goes on and the loop ends
(stated of NOP, which does nothing else). -/
def Obligations.LoopsAndRepeats : Prop :=
  (∀ (s : State) (gd : Guard) (a : BitVec 5) (l : Imm 15), s.issuesC gd →
    let A := s.tile.front.apc
    let len : Nat := match l with
      | .fld v => v.toNat
      | .lone v => v.toNat
    let n : BitVec 32 := (s.g a).extractLsb' 0 32
    s.tile.front.loop.lact = false → 0 < len → len < 2 ^ 20 → s.tile.res.leaderNext = none →
    (n ≠ 0 → exec (.loop gd a l) s = .next { s with tile := { s.tile with
        ctx := { s.tile.ctx with energy := s.energyC 1 }
        front := { s.frontAfter with loop := { lcnt := n - 1, llen := BitVec.ofNat 20 len, lact := true, lbeg := A + 8 } } } })
      ∧ (n = 0 → s.jumps → JumpsC (.loop gd a l) s 1 s.tile.regs (ptrAdd A (8 * BitVec.ofNat 64 (len + 1)))))
  ∧ (∀ (s : State) (gd : Guard) (k : BitVec 4) (c : BitVec 8) (r : BitVec 4), s.issuesC gd → s.jumps →
      exec (.rpt gd k c r) s = .next ((s.begin 1).passes (.marker k c r)))
  ∧ (∀ (s : State) (k : BitVec 4) (c : BitVec 8) (r : BitVec 4), s.tile.front.ordered = some (.marker k c r) → s.straight →
      s.tile.front.rpt.ract = false →
      exec .repeatMarker s = .next (s.setFront { s.frontAfter with
        ordered := none
        rpt := { s.tile.front.rpt with rn := BitVec.ofNat 5 (k.toNat + 1), rcnt := c, rstr := r, riter := 0, rpos := 0, ract := true } }))
  ∧ (∀ (s : State) (gd : Guard), s.issuesC gd → s.jumps →
    let f := s.tile.front
    let l := f.loop
    l.lact = true → 0 < l.llen.toNat → f.apc = l.lbeg + 8 * (l.llen.setWidth 64 - 1) →
    (l.lcnt ≠ 0 → exec (.nop gd) s = .next { s with tile := { s.tile with
        ctx := { s.tile.ctx with energy := s.energyC 0 }
        front := { f with apc := l.lbeg, latch := none, ahead := [], ast := .run, skip := false, loop := { l with lcnt := l.lcnt - 1 } } } })
    ∧ (l.lcnt = 0 → exec (.nop gd) s = .next { s with tile := { s.tile with
        ctx := { s.tile.ctx with energy := s.energyC 0 }
        front := { f with apc := f.apc + 8, latch := none, ast := .run, skip := false, loop := { l with lact := false } } } }))

/-- R66, R172, R173 and Table 7.2: NOP does nothing; HALT ends the program of a tile that has nothing in flight, whose tile
instructions have completed or faulted, once every store has reached its home; EBRK traps at the bundle, TRAP and, in task mode,
YIELD behind it; in supervisor mode YIELD does nothing. -/
def Obligations.SystemGroupResults : Prop :=
  ∀ (s : State) (gd : Guard) (c : BitVec 15), s.issuesC gd →
    DoneC (.nop gd) s 0 s.tile.regs
    ∧ (let u := (s.begin 0).flushAll
       s.caughtUp = true → s.seqIdle = true ∨ s.tile.seq.stopped = true ∧ s.tile.seq.running = none → s.enginesIdle = true →
        s.mallow = 8 → u.tile.path.failures = [] → (∀ r, s.tile.seq.held = some r → s.sup = true ∨ r.taken = true) →
        (Answers (.halt gd) s fun t => t.tile.front.ast = .halted ∧ t.tile.front.xst = .halted ∧ t.tile.front.latch = none
          ∧ t.tile.front.apc = s.tile.front.apc ∧ t.tile.wait = .idle ∧ t.tile.regs = s.tile.regs ∧ t.mem = u.mem
          ∧ t.tile.csr = s.tile.csr ∧ t.tile.matrix = s.tile.matrix ∧ t.tile.ports = s.tile.ports ∧ t.tile.path.posted = []
          ∧ (∀ l ∈ t.tile.path.l1, l.dirty = 0)
          ∧ ∀ x ∈ s.hub.fe.ctxs, x.id = s.tile.res.ctx → ∃ y ∈ t.hub.fe.ctxs, y.id = x.id ∧ s.own ∈ y.halted)
        ∧ (s.tile.path.posted = [] → (∀ l ∈ s.tile.path.l1, l.dirty = 0) → u.mem = s.mem))
    ∧ (s.calm → exec (.ebrk gd c) s = .next ((s.begin 0).takeTrap false 0x0E (c.setWidth 64)))
    ∧ (s.calm → s.loopsBack = false →
        exec (.trap gd c) s = .next ((s.begin 0).passOwn.retire.takeTrap false 0x0D (c.setWidth 64)))
    ∧ (s.calm → s.loopsBack = false → s.sup = false →
        exec (.yield gd) s = .next ((s.begin 0).passOwn.retire.takeTrap false 0x0F 1))
    ∧ (s.sup = true → DoneC (.yield gd) s 0 s.tile.regs)

/-- R31, R175, R371 and Table 1.8: a CSR that the mode has none of traps ILLEGAL_INSTR with its number and charges nothing; a
read gives gd the value from before the instruction's own charge; a write of a read-only one changes gd alone; a write of
another gives gd the old value and the CSR the new one, which an ordered CSR takes in the execute half. R32: the new value of WP,
SWP and EWP is checked, MISALIGNED where it is not 64-byte aligned and ACCESS_FAULT above 0x7_7AC0, with the value in EVAL, and the
register as it was; a write of WP switches the workspace behind the bundle. R5, R33: a write leaves the RW bits of the value and
leaves the others as they were, RM 5 to 7 leave RM unchanged, and no other CSR changes (EPC and EPCO lie in the workspace that EWP
names). Bits [63:19] count in the check as part of the offset, and gd takes the old value in the outgoing workspace: the model's
choices (logs 31 and 16). -/
def Obligations.CsrInstructionResults : Prop :=
  (∀ (s : State) (gd : Guard) (d a : BitVec 5) (n : BitVec 10), s.issuesC gd →
    let old := s.csrRead n
    let set := old ||| (s.g a &&& csrMask n)
    let clear := old &&& ~~~(s.g a &&& csrMask n)
    (csrAccess s.sup n = .absent → s.calm →
      exec (.csrr gd d n) s = .next (s.takeTrap false 0x02 (n.setWidth 64))
        ∧ exec (.csrw gd d a n) s = .next (s.takeTrap false 0x02 (n.setWidth 64))
        ∧ exec (.csrs gd d a n) s = .next (s.takeTrap false 0x02 (n.setWidth 64))
        ∧ exec (.csrc gd d a n) s = .next (s.takeTrap false 0x02 (n.setWidth 64)))
    ∧ (csrAccess s.sup n ≠ .absent → (csrOrdered n = true → s.caughtUp = true) →
        DoneC (.csrr gd d n) s 0 (s.setG d old).tile.regs)
    ∧ (csrAccess s.sup n = .ro →
        DoneC (.csrw gd d a n) s 0 (s.setG d old).tile.regs ∧ DoneC (.csrs gd d a n) s 0 (s.setG d old).tile.regs
          ∧ DoneC (.csrc gd d a n) s 0 (s.setG d old).tile.regs)
    ∧ (csrAccess s.sup n = .rw → csrOrdered n = false → csrPointer n = false →
        CompletesC (.csrw gd d a n) s (((s.begin 0).csrWrite n (s.g a)).setG d old)
          ∧ CompletesC (.csrs gd d a n) s (((s.begin 0).csrWrite n set).setG d old)
          ∧ CompletesC (.csrc gd d a n) s (((s.begin 0).csrWrite n clear).setG d old))
    ∧ (csrAccess s.sup n = .rw → csrPointer n = true →
      let checked (i : Instr) (v : Word) : Prop :=
        (v.toNat % 64 ≠ 0 → s.calm → exec i s = .next ((s.begin 0).takeTrap false 0x03 v))
        ∧ (v.toNat % 64 = 0 → 0x77AC0 < v.toNat → s.calm → exec i s = .next ((s.begin 0).takeTrap false 0x04 v))
        ∧ (v.toNat % 64 = 0 → v.toNat ≤ 0x77AC0 →
          (n ≠ 0x001 → CompletesC i s (((s.begin 0).csrWrite n v).setG d old))
          ∧ (n = 0x001 → s.ownA = none → s.caughtUp = true → CompletesC i s (((s.begin 0).setG d old).switchWp v)))
      checked (.csrw gd d a n) (s.g a) ∧ checked (.csrs gd d a n) set ∧ checked (.csrc gd d a n) clear)
    ∧ (csrAccess s.sup n = .rw → csrOrdered n = true → s.caughtUp = true →
        exec (.csrw gd d a n) s = .next ((s.begin 0).passes (.csr d n (s.g a)))
          ∧ exec (.csrs gd d a n) s = .next ((s.begin 0).passes (.csr d n set))
          ∧ exec (.csrc gd d a n) s = .next ((s.begin 0).passes (.csr d n clear))))
  ∧ (∀ (s : State) (n m : BitVec 10) (v : Word), csrAccess s.sup n = .rw →
      (n ≠ 0x000 → n ≠ 0x018 → (s.csrWrite n v).csrRead n = v &&& csrMask n)
      ∧ (n = 0x000 → (s.csrWrite n v).csrRead n = (s.csrRead n &&& ~~~(3 : Word)) ||| (v &&& 3))
      ∧ (n = 0x018 → (s.csrWrite n v).csrRead n =
          if v.toNat % 8 ≤ 4 then v &&& csrMask n else (v &&& csrMask n &&& ~~~(7 : Word)) ||| (s.csrRead n &&& 7))
      ∧ (m ≠ n → csrAccess true m ≠ .absent → (n = 0x001 ∨ n = 0x00A → m ≠ 0x006 ∧ m ≠ 0x007) →
          (s.csrWrite n v).csrRead m = s.csrRead m))

/-- R21, R22, R32, R113, R114, R121, R174: WPSW, BIND, UNBIND and PDROP pass an ordered operation when the execute half has
caught up, and the execute half performs it, whereupon the bundle completes: a binding changes for both halves and for that port
alone; UNBIND of an in port discards its entries and cancels the undelivered rows of the LDQ and MOVX commands to it, and of an out
port waits in state PORT for the STQ commands of it and then discards its rows; PDROP waits in state PORT for its entries and pops the
oldest of them. -/
def Obligations.OrderedOperations : Prop :=
  (∀ (s : State) (gd : Guard) (d a k : BitVec 5) (kind src : BitVec 4) (c : BitVec 5) (i : Fin 12), s.issuesC gd →
      s.caughtUp = true →
    ((s.g a).toNat % 64 = 0 → (s.g a).toNat ≤ 0x77AC0 → s.txact = false →
        exec (.wpsw gd d a) s = .next ((s.begin 0).passes (.wpsw d (s.g a))))
    ∧ ((s.g a).toNat % 64 ≠ 0 → s.calm → exec (.wpsw gd d a) s = .next ((s.begin 0).takeTrap false 0x03 (s.g a)))
    ∧ (portIndex k = some i →
        exec (.unbind gd k) s = .next ((s.begin 6).passes (.unbind k))
        ∧ (s.accKind i = 0 → kindOk i kind = true → srcOk kind src = true → s.sourceTaken kind src = false →
            exec (.bind gd k (kind.setWidth 5) (src.setWidth 5)) s = .next ((s.begin 6).passes (.bind k kind src)))
        ∧ (k.toNat ≤ 23 → 1 ≤ c.toNat → c.toNat ≤ 8 → s.accKind i ≠ 0 →
            exec (.pdrop gd k c) s = .next ((s.begin 6).passes (.pdrop k c)))))
  ∧ (∀ (s : State) (k : BitVec 5) (kind src : BitVec 4) (d c : BitVec 5) (n : BitVec 10) (w : Word),
    let does (op : OrderedOp) (u : State) : Prop :=
      s.tile.front.ordered = some op → s.orderedWaits = false → exec .orderedOpExecute s = .next u.endOrdered
    does (.bind k kind src) (s.setBinding k { kind := kind, src := src })
      ∧ does (.unbind k) ((s.clearPort k).setBinding k { kind := 0, src := 0 })
      ∧ does (.pdrop k c) (s.popMany k c.toNat)
      ∧ does (.csr d n w) ((s.csrWrite n w).setG d (s.csrRead n))
      ∧ does (.wpsw d w) ((s.switchWp w).setG d s.tile.csr.wp)
      ∧ (s.orderedWaits = true → exec .orderedOpExecute s = .next (s.setFront { s.tile.front with xst := .port })))
  ∧ (∀ (s : State) (k c : BitVec 5) (b : Binding) (i : Fin 12), portIndex k = some i →
      (s.setBinding k b = s.setPorts { s.tile.ports with acc := s.tile.ports.acc.set i b, exe := s.tile.ports.exe.set i b })
      ∧ (∀ j : Fin 12, let t := s.setBinding k b
          (t.tile.ports.acc.get j = if j = i then b else s.tile.ports.acc.get j)
            ∧ t.tile.ports.exe.get j = if j = i then b else s.tile.ports.exe.get j)
      ∧ (∀ j : Fin 8, k.toNat = 16 + j.val →
          (s.clearPort k = { s with tile := { s.tile with
            ports := { s.tile.ports with inq := s.tile.ports.inq.set j [] }
            eng := { s.tile.eng with fifo0 := s.tile.eng.fifo0.filter fun x => !x.feeds (k.setWidth 3) } } })
          ∧ (∀ n, s.popMany k n = s.setPorts { s.tile.ports with
              inq := s.tile.ports.inq.set j ((s.tile.ports.inq.get j).drop n) })
          ∧ (s.tile.front.ordered = some (.pdrop k c) →
              (s.orderedWaits = true ↔ (s.tile.ports.inq.get j).length < c.toNat)))
      ∧ (∀ j : Fin 4, k.toNat = 24 + j.val →
          (s.clearPort k = s.setPorts { s.tile.ports with outq := s.tile.ports.outq.set j [] })
          ∧ (s.tile.front.ordered = some (.unbind k) →
              (s.orderedWaits = true ↔ ∃ x ∈ s.tile.eng.fifo0, x.drains (BitVec.ofNat 2 j.val) = true))))

/-- R89, R104, R108 and Table 4.5: the address group. -/
def Obligations.AddressGroupResults : Prop :=
  ∀ (s : State) (gd : Guard) (d a b : BitVec 5) (i : Imm 5), s.issuesC gd →
    let x := s.g a
    let y := s.g b
    let done (i : Instr) (v : Word) : Prop := DoneC i s 0 (s.setG d v).tile.regs
    let code : Word := match i with
      | .fld r => s.g r
      | .lone v => v.setWidth 64
    (x.toNat < 2 ^ 27 → done (.coord gd d a) ((s.own.setWidth 64 <<< 30) + x))
    ∧ (s.tile.res.unnamed = false → s.own = s.tile.csr.coord.extractLsb' 0 24)
    ∧ (x.toNat < 2 ^ 25 → y.toNat < 2 ^ 27 → done (.mkaddr gd d a b) ((x <<< 30) + y))
    ∧ done (.addp gd d a i) (ptrAdd x (match i with
        | .fld r => s.g r
        | .lone v => v.signExtend 64))
    ∧ (∀ f, code.toNat < 32 → formatOf (code.setWidth 5) = some f → ptrFmt x ≠ 0x1F →
        done (.fmtset gd d a i) (code.setWidth 5 ++ (if f.isBlock then 5 else 0 : BitVec 3) ++ x.extractLsb' 0 56))
    ∧ (relMesh x = false → done (.absaddr gd d a) x)
    ∧ (∀ c, relMesh x = true → resolveCoord s.own (ptrCoord x) = some c →
        done (.absaddr gd d a) (x.extractLsb' 55 9 ++ (0 : BitVec 1) ++ c ++ x.extractLsb' 0 30))

/-! ### Memory -/

/-- R4, R105, R106, Table 4.6: a load from the own scratchpad reads its bytes, zero-extended for odd size codes and
sign-extended for even ones; a store writes the low bytes of its register and leaves every other byte. -/
def Obligations.ScratchpadLoadsAndStores : Prop :=
  ∀ (s : State) (gd : Guard) (d a : BitVec 5) (z : BitVec 3) (i : Imm 7) (addr : Nat), s.issuesC gd → s.tile.path.tx = none →
    s.tile.wait = .idle →
    (z.toNat < 7 →
      let n := 2 ^ (z.toNat / 2)
      let v := s.mem.readNat addr n
      let x : Word := if z.toNat % 2 = 1 then BitVec.ofNat 64 v else (BitVec.ofNat (8 * n) v).signExtend 64
      s.reachesSpm .load (s.memPtr a (loadSize z) i) n addr →
      Answers (.ld gd d a z i) s fun t => s.accessFrame t (s.setG d x).tile.regs ∧ t.mem = s.mem)
    ∧ (z.toNat < 4 →
      let n := 2 ^ z.toNat
      s.reachesSpm .store (s.memPtr a (storeSize z) i) n addr →
      Answers (.st gd d a z i) s fun t => s.accessFrame t s.tile.regs ∧ s.storesOnly t addr n (s.g d).toNat)

/-- R89, R105: ptr_add keeps FMT and BLG and adds modulo 2^56; a sum that changes the kind bit is poisoned, a poisoned pointer
stays poisoned, and adding 0 changes nothing. The pointer of LD and ST is ga plus the field times the access size, or plus the
literal as it is. -/
def Obligations.PointerAddition : Prop :=
  (∀ (b x : Word),
    (ptrAdd b x).extractLsb' 0 56 = b.extractLsb' 0 56 + x.extractLsb' 0 56
      ∧ (ptrAdd b x).extractLsb' 56 3 = b.extractLsb' 56 3
      ∧ ((ptrAdd b x).getLsbD 55 = b.getLsbD 55 → ptrFmt (ptrAdd b x) = ptrFmt b)
      ∧ ((ptrAdd b x).getLsbD 55 ≠ b.getLsbD 55 → ptrPoisoned (ptrAdd b x) = true)
      ∧ (ptrPoisoned b = true → ptrPoisoned (ptrAdd b x) = true) ∧ ptrAdd b 0 = b)
  ∧ (∀ (s : State) (a : BitVec 5) (v : BitVec 7) (l : BitVec 32) (z : BitVec 3),
    (z.toNat < 7 → s.memPtr a (loadSize z) (.fld v) = ptrAdd (s.g a) (v.signExtend 64 * BitVec.ofNat 64 (2 ^ (z.toNat / 2))))
    ∧ (z.toNat < 4 → s.memPtr a (storeSize z) (.fld v) = ptrAdd (s.g a) (v.signExtend 64 * BitVec.ofNat 64 (2 ^ z.toNat)))
    ∧ s.memPtr a (loadSize z) (.lone l) = ptrAdd (s.g a) (l.signExtend 64)
    ∧ s.memPtr a (storeSize z) (.lone l) = ptrAdd (s.g a) (l.signExtend 64))

/-- R176, R177 and Table 7.3: an atomic on the own scratchpad replaces the old value by one function of it and of gb, gives
gd the old value sign-extended, and leaves every other byte; ACAS stores only where the old value is the one in gd. -/
def Obligations.ScratchpadAtomics : Prop :=
  ∀ (s : State) (gd : Guard) (d a b : BitVec 5) (w : BitVec 1) (addr : Nat), s.issuesC gd → s.tile.path.tx = none →
    s.tile.wait = .idle →
    let n := if w = 1 then 4 else 8
    let old : BitVec (8 * n) := BitVec.ofNat (8 * n) (s.mem.readNat addr n)
    let x : BitVec (8 * n) := BitVec.ofNat (8 * n) (s.g b).toNat
    let cmp : BitVec (8 * n) := BitVec.ofNat (8 * n) (s.g d).toNat
    s.reachesSpm .atomic (s.g a) n addr →
    let done (i : Instr) (new : BitVec (8 * n)) : Prop := Answers i s fun t =>
      s.accessFrame t (s.setG d (old.signExtend 64)).tile.regs ∧ s.storesOnly t addr n new.toNat
    done (.aadd gd d a b w) (old + x)
      ∧ done (.amin gd d a b w) (if x.slt old then x else old) ∧ done (.amax gd d a b w) (if old.slt x then x else old)
      ∧ done (.aand gd d a b w) (old &&& x) ∧ done (.aor gd d a b w) (old ||| x) ∧ done (.axor gd d a b w) (old ^^^ x)
      ∧ done (.aswp gd d a b w) x ∧ done (.acas gd d a b w) (if old = cmp then x else old)

/-- R88, R215: a store to another tile's scratchpad or to the host is posted and changes no memory yet; a store to a vault
whose line is at hand, or has room, goes to that line and changes no memory yet. -/
def Obligations.StoresThatWait : Prop :=
  ∀ (s : State) (gd : Guard) (d a : BitVec 5) (z : BitVec 3) (i : Imm 7) (addr : Nat), s.issuesC gd → s.tile.path.tx = none →
    s.hub.errors.bad = [] → z.toNat < 4 →
    let n := 2 ^ z.toNat
    let p := s.memPtr a (storeSize z) i
    s.resolve true .store p n n = .mem addr none →
    ((hostBase ≤ addr ∨ (addrSpm addr = true ∧ s.isLocal addr = false ∧ inStaging (addrOff addr) = false)) →
      CompletesC (.st gd d a z i) s ((s.begin 2).setPath { s.tile.path with
        posted := s.tile.path.posted ++
          [{ ptr := p, addr := addr, len := n, data := (s.g d).setWidth 512, rlv := s.tile.path.rlv, more := [], row := false }] }))
    ∧ (addr < hostBase → addrSpm addr = false →
      ((s.findLine addr).isSome = true ∨ (s.tile.path.l1.filter fun l => lineSet l.addr == lineSet addr).length < 8) →
      Answers (.st gd d a z i) s fun t => t.mem = s.mem ∧ t.tile.regs = s.tile.regs ∧ t.tile.path.posted = s.tile.path.posted
        ∧ (∀ l, l.addr ≠ addr / 64 * 64 → (l ∈ t.tile.path.l1 ↔ l ∈ s.tile.path.l1))
        ∧ ∃ l, t.findLine addr = some l ∧ l.rlv = s.tile.path.rlv ∧ l.writer = s.own
          ∧ ∀ k < n, l.valid.getLsbD (addr % 64 + k) = true ∧ l.dirty.getLsbD (addr % 64 + k) = true
            ∧ l.data.extractLsb' (8 * (addr % 64 + k)) 8 = (s.g d).extractLsb' (8 * k) 8)

/-- R178, R218, R219: FREL releases to its scope, FACQ acquires, FSEQ does both; each completes when nothing is left to wait
for and the release has met no failure. -/
def Obligations.FenceResults : Prop :=
  ∀ (s : State) (gd : Guard) (x : BitVec 3), s.issuesC gd →
    let r := (s.begin 2).release x.toNat
    (s.releaseWaits = false → r.tile.path.failures = [] →
      CompletesC (.frel gd x) s r ∧ CompletesC (.fseq gd x) s r.acquire)
    ∧ CompletesC (.facq gd x) s (s.begin 2).acquire
    ∧ (∀ l ∈ r.tile.path.l1, 1 ≤ x.toNat → l.dirty = 0)
    ∧ (r.tile.path.rlv = x)
    ∧ (∀ l ∈ (s.begin 2).acquire.tile.path.l1, addrCoord l.addr ≠ s.own → l.valid = l.dirty)

/-- R179 to R183: TXB opens a transaction; a conflict marks it; a confirmation is noted; TXC with every reservation confirmed
writes the held stores at their homes and closes it; TXA and any trap end it. The end of a transaction discards its stores,
leaves no transaction open, clears TXACT, writes the cause word into its register and goes on at its target; memory and every
other register stay as they are. -/
def Obligations.TransactionResults : Prop :=
  (∀ (s : State) (gd : Guard) (d : BitVec 5) (disp : BitVec 32), s.issuesC gd → s.txact = false →
      let t : Tx := { reg := d, target := ptrAdd s.tile.front.apc (8 * disp.signExtend 64), lines := [], stores := [],
                      used := [], conflict := false }
      CompletesC (.txb gd d disp) s (((s.begin 0).setPath { s.tile.path with tx := some t }).setStatusBit 7 true))
  ∧ (∀ (s : State) (t : Tx) (line : Word) (isLoad : Bool), s.tile.path.tx = some t →
      let at_ := line.toNat / 64 * 64
      exec (.txConflict line isLoad) s = .next (s.setPath { s.tile.path with tx := some { t with
          conflict := t.conflict || t.lines.any fun l => l.line == at_ && (!isLoad || l.stored) } })
        ∧ exec (.reservationConfirmed line) s = .next (s.setPath { s.tile.path with tx := some { t with
          lines := t.lines.map fun l => { l with confirmed := l.confirmed || l.line == at_ } } }))
  ∧ (∀ (s : State) (gd : Guard) (x : BitVec 3) (t : Tx), s.issuesC gd → s.tile.path.tx = some t → t.conflict = false →
      (∀ l ∈ t.lines, l.confirmed = true) → s.tile.path.failures = [] → s.tile.path.posted = [] →
      let u := (((s.begin 0).setWait .idle).commitStores x.toNat t.stores).clearCovered t.stores
      CompletesC (.txc gd x) s ((u.setPath { u.tile.path with tx := none, rlv := x }).setStatusBit 7 false))
  ∧ (∀ (s : State) (gd : Guard) (c : BitVec 8) (t : Tx), s.issuesC gd → s.tile.path.tx = some t → s.txact = true → s.jumps →
      exec (.txa gd c) s = .next ((s.begin 0).txAbort 6 c))
  ∧ (∀ (s : State) (t : Tx) (cause detail : BitVec 8), s.tile.path.tx = some t → s.tile.res.leaderNext = none →
    s.tile.wait = .idle →
    let u := s.txAbort cause detail
    u = { s with tile := { s.tile with
      regs := (s.setG t.reg (BitVec.ofNat 64 (detail.toNat * 256 + cause.toNat))).tile.regs
      path := { s.tile.path with tx := none }
      csr := { s.tile.csr with status := s.tile.csr.status &&& ~~~(0x80 : Word) }
      front := { s.tile.front with
        apc := t.target, latch := none, ahead := [], ast := .run, skip := false
        loop := s.tile.front.loop.afterTransfer t.target } } }
    ∧ (s.txact = true → s.caughtUp = true → s.tile.front.xtrap = none → ∀ fh c v, s.trap fh c v = .next (s.txAbort 5 c)))

/-! ### Ports and engine 0 -/

/-- R20 to R22, R107 to R109, R113, R115, Tables 1.5 and 4.9: PLVL reads a binding word, MOVX and the queued loads and stores
put a command into engine 0's FIFO, MOVG takes the oldest row of an out port. -/
def Obligations.PortInstructionResults : Prop :=
  ∀ (s : State) (gd : Guard) (d a b k : BitVec 5) (q : BitVec 3) (rows : BitVec 7) (i : Fin 12), s.issuesC gd →
    (portIndex k = some i →
      let level := match inPort k, outPort k with
        | some j, _ => (s.tile.ports.inq.get j).length
        | none, some j => (s.tile.ports.outq.get j).length
        | none, none => 0
      let w := s.tile.ports.acc.get i
      DoneC (.plvl gd d k) s 6 (s.setG d (BitVec.ofNat 64 (level * 4096 + w.src.toNat * 256 + w.kind.toNat))).tile.regs)
    ∧ (s.txact = false → s.tile.eng.fifo0.length < 8 →
      (portIndex k = some i → k.toNat ≤ 23 → s.accKind i = 1 →
        CompletesC (.movx gd k a) s ((s.begin 6).pushCmd (.movx (BitVec.ofNat 3 (k.toNat - 16)) (s.g a))))
      ∧ (∀ (j : Fin 4) (row : Row) (rest : List Row), k.toNat = 24 + j.val → portIndex k = some i → s.accKind i = 2 →
        s.tile.ports.outq.get j = row :: rest → s.tile.eng.fifo0.any (Cmd.drains (BitVec.ofNat 2 j.val)) = false →
        Answers (.movg gd d k) s fun t =>
          t = ((((s.begin 6).setPorts { s.tile.ports with outq := s.tile.ports.outq.set j rest }).setG d
            (row.extractLsb' 0 64)).setFront t.tile.front)
          ∧ t.tile.front.movedFrom s.rouse.tile.front ∧ (s.straight → t.tile.front = s.rouse.frontAfter))
      ∧ (∀ (f : Format) (used : List TEntry), formatOf (ptrFmt (s.g a)) = some f →
        blgOf (ptrFmt (s.g a)) = some (ptrBlg (s.g a)) →
        let stride : Word := if b = 0 then BitVec.ofNat 64 (rowStride f) else s.g b
        stride.toNat % rowAlign f = 0 →
        (s.accKind (inIndex q) = 1 →
          (s.begin 2).checkRows .load (rowAlign f) (loadPieces f) (s.g a) stride (List.range (rows.toNat + 1)) [] = .ok used →
          CompletesC (.ldq gd q rows a b) s ((s.begin 2).pushCmd (.ldq q (s.g a) stride (rows.toNat + 1) used)))
        ∧ (q.toNat < 4 → s.accKind (outIndex (q.setWidth 2)) = 2 →
          (s.begin 2).checkRows .store (rowAlign f) (storePieces f) (s.g a) stride (List.range (rows.toNat + 1)) [] = .ok used →
          CompletesC (.stq gd q rows a b) s
            ((s.begin 2).pushCmd (.stq (q.setWidth 2) (s.g a) stride (rows.toNat + 1) used)))))

/-- R109, R111, R115: engine 0 delivers the oldest row of an in port (a MOVX value, an unpacked row of the scratchpad, or a
poisoned row for one that cannot be reached), and writes the oldest row of an out port to the scratchpad, byte by byte and
nothing else. -/
def Obligations.EngineRowResults : Prop :=
  (∀ (s : State) (port : BitVec 3) (c : Cmd), s.tile.eng.fifo0.find? (Cmd.feeds port) = some c →
      (s.tile.ports.inq.get port.toFin).length < 8 →
      let delivers (left : Option Cmd) (e : PortEntry) : Prop := Answers (.ldqRowDeliver port) s fun t =>
        t.tile.ports = { s.tile.ports with
          inq := s.tile.ports.inq.set port.toNat (s.tile.ports.inq.get port.toFin ++ [e]) port.isLt }
        ∧ t.tile.eng = { s.tile.eng with fifo0 := replaceFirst (Cmd.feeds port) left s.tile.eng.fifo0 }
        ∧ t.mem = s.mem ∧ t.tile.regs = s.tile.regs ∧ t.tile.front = s.rouse.tile.front
      (∀ p v, c = .movx p v → delivers none { row := v.setWidth 512, side := 0 })
      ∧ (∀ p next stride left held, c = .ldq p next stride left held → (rowFormat next).isBlock = false →
          let rest := if left ≤ 1 then none else some (.ldq p (ptrAdd next stride) stride (left - 1) held)
          (∀ a, s.reach held .load next 64 = .mem a none → addrSpm a = true → s.isLocal a = true → a % 64 = 0 →
              inStaging (addrOff a) = false → s.hub.errors.bad = [] → s.tile.path.posted = [] → delivers rest { row := s.mem.readRow a, side := 0 })
          ∧ (s.reach held .load next 64 = .bad → ptrPoisoned next = true →
              delivers rest { row := next.setWidth 512, side := 0x80040000000000000000000000000000 })))
  ∧ (∀ (s : State) (port : BitVec 2) (p : BitVec 2) (next stride : Word) (left a : Nat) (held : List TEntry) (row : Row)
      (rest : List Row), s.tile.eng.fifo0.find? (Cmd.drains port) = some (.stq p next stride left held) →
      s.tile.ports.outq.get port.toFin = row :: rest → (rowFormat next).isBlock = false →
      s.reach held .store next 64 = .mem a none → addrSpm a = true → s.isLocal a = true → inStaging (addrOff a) = false →
      s.hub.errors.bad = [] →
      let more : Option Cmd := if left ≤ 1 then none else some (.stq p (ptrAdd next stride) stride (left - 1) held)
      Answers (.stqRowWrite port) s fun t =>
        s.storesOnly t a 64 row.toNat ∧ t.tile.regs = s.tile.regs ∧ t.tile.front = s.rouse.tile.front
          ∧ t.tile.ports = { s.tile.ports with outq := s.tile.ports.outq.set port.toNat rest port.isLt }
          ∧ t.tile.eng = { s.tile.eng with fifo0 := replaceFirst (Cmd.drains port) more s.tile.eng.fifo0 })

/-- R184, R187, R188 and Table 7.5: CPY checks both ranges, or under STRM the source and its channel, releases at package scope
and queues its command; a copy between two parts of the scratchpad that do not meet moves its bytes and nothing else, and leaves the
FIFO; a row of a stream goes to its port, and a stream whose rows have gone ends. With RES = 1, the end of a command pushes one result
element, V set, STATUS 0 or the cause, and the TAG of the control word, and is held back while the FIFO is full; with RES = 0, a failure
is held for the next reporting point with its pointer. -/
def Obligations.CopyResults : Prop :=
  (∀ (s : State) (gd : Guard) (c a b : BitVec 5) (used used' : List TEntry), s.issuesC gd → s.txact = false →
      s.tile.eng.fifo0.length < 8 → (s.g b).toNat / 2 ^ 37 % 8 = 0 → ctrlStrm (s.g b) = false → s.rowsPending = false →
      (s.begin 6).checkRange .load (s.g a) (ctrlLen (s.g b)) [] = .ok used →
      (s.begin 6).checkRange .store (s.g c) (ctrlLen (s.g b)) used = .ok used' →
      CompletesC (.cpy gd c a b) s (((s.begin 6).release 3).pushCmd (.copy (s.g c) (s.g a) (s.g b) 0 used')))
  ∧ (∀ (s : State) (gd : Guard) (c a b : BitVec 5) (used : List TEntry), s.issuesC gd → s.txact = false →
      s.tile.eng.fifo0.length < 8 → (s.g b).toNat / 2 ^ 37 % 8 = 0 → ctrlStrm (s.g b) = true → s.rowsPending = false →
      (s.begin 6).checkRange .load (s.g a) (ctrlLen (s.g b)) [] = .ok used →
      (ctrlLen (s.g b) % 64 = 0 → (s.boundPort 3 ((ctrlCh (s.g b)).setWidth 4)).isSome = true →
        CompletesC (.cpy gd c a b) s (((s.begin 6).release 3).pushCmd (.copy (s.g c) (s.g a) (s.g b) 0 used)))
      ∧ (ctrlLen (s.g b) % 64 ≠ 0 → s.calm →
        exec (.cpy gd c a b) s = .next ((s.begin 6).takeTrap false 0x03 (BitVec.ofNat 64 (ctrlLen (s.g b)))))
      ∧ (ctrlLen (s.g b) % 64 = 0 → s.boundPort 3 ((ctrlCh (s.g b)).setWidth 4) = none → s.calm →
        exec (.cpy gd c a b) s = .next ((s.begin 6).takeTrap false 0x08 ((ctrlCh (s.g b)).setWidth 64 + 0x200))))
  ∧ (∀ (s : State) (dst src ctrl : Word) (held : List TEntry) (rest : List Cmd) (sa da : Nat),
      s.tile.eng.fifo0 = .copy dst src ctrl 0 held :: rest → ctrlStrm ctrl = false →
      s.tile.eng.held.get 0 = none → (s.tile.eng.res.get 0).length < 8 →
      let n := ctrlLen ctrl
      (∀ i < n, s.reach held .load (ptrAdd src (BitVec.ofNat 64 i)) 1 = .mem (sa + i) none
        ∧ s.reach held .store (ptrAdd dst (BitVec.ofNat 64 i)) 1 = .mem (da + i) none
        ∧ addrSpm (sa + i) = true ∧ addrSpm (da + i) = true ∧ inStaging (addrOff (sa + i)) = false
        ∧ inStaging (addrOff (da + i)) = false) →
      (sa + n ≤ da ∨ da + n ≤ sa) → s.hub.errors.bad = [] →
      Answers (.copyComplete 0) s fun t =>
        (∀ i < n, t.mem.read (da + i) = s.mem.read (sa + i)) ∧ (∀ x, x < da ∨ da + n ≤ x → t.mem.read x = s.mem.read x)
          ∧ t.tile.eng = { s.tile.eng with
              fifo0 := rest
              res := if ctrlRes ctrl then s.tile.eng.res.set 0 (s.tile.eng.res.get 0 ++ [resultElement 0 (ctrlTag ctrl)])
                else s.tile.eng.res }
          ∧ t.tile.regs = s.tile.regs ∧ t.tile.front = s.tile.front ∧ t.tile.ports = s.tile.ports)
  ∧ (∀ (s : State) (idx i : Nat) (dst src ctrl : Word) (held : List TEntry),
      s.tile.eng.fifo0[idx]? = some (.copy dst src ctrl i held) → oldestOfChannel s.tile.eng.fifo0 idx = true →
      s.copyRoom ctrl = true → ctrlStrm ctrl = true → ctrlLen ctrl ≤ i →
      let u := s.setEng { s.tile.eng with fifo0 := s.tile.eng.fifo0.eraseIdx idx }
      exec (.copyComplete idx) s = .next (if ctrlRes ctrl then u.pushResult 0 (resultElement 0 (ctrlTag ctrl)) else u))
  ∧ (∀ (s : State) (idx : Nat) (ctrl p : Word) (c : BitVec 8) (status : BitVec 7) (tag : BitVec 32),
      let u := s.setEng { s.tile.eng with fifo0 := s.tile.eng.fifo0.eraseIdx idx }
      (s.endCopy idx ctrl (.failed c p) =
        if ctrlRes ctrl then u.pushResult 0 (resultElement (c.setWidth 7) (ctrlTag ctrl))
        else u.setPath { u.tile.path with failures := u.tile.path.failures ++ [(c, p)] })
      ∧ (let e := resultElement status tag
        e.getLsbD 63 = true ∧ e.extractLsb' 56 7 = status ∧ e.extractLsb' 32 24 = 0 ∧ e.extractLsb' 0 32 = tag
          ∧ (ctrlTag ctrl).toNat = ctrl.toNat / 2 ^ 40
          ∧ (s.tile.eng.held.get 0 = none → (s.tile.eng.res.get 0).length < 8 →
              (s.pushResult 0 e).tile.eng = { s.tile.eng with res := s.tile.eng.res.set 0 (s.tile.eng.res.get 0 ++ [e]) })
          ∧ (8 ≤ (s.tile.eng.res.get 0).length →
              s.pushResult 0 e = s.setEng { s.tile.eng with held := s.tile.eng.held.set 0 (some e) })))
  ∧ (∀ (s u : State) (ch : BitVec 3) (idx i : Nat) (dst src ctrl : Word) (held : List TEntry) (port : Fin 8) (bytes : List Nat),
      firstOfChannel ch s.tile.eng.fifo0 0 = some (idx, .copy dst src ctrl i held) →
      s.boundPort 3 (ch.setWidth 4) = some port → ctrlStrm ctrl = true → i < ctrlLen ctrl → s.portRoom port = true →
      s.streamBytes src held 64 i = (u, .ok bytes) →
      exec (.copyStreamRow ch) s = .next ((u.setEng { u.tile.eng with
        fifo0 := u.tile.eng.fifo0.set idx (.copy dst src ctrl (i + 64) held) }).pushIn port
          { row := BitVec.ofNat 512 (joinNat 8 bytes), side := 0 }))

/-- R24 to R26, R116, R117: RSET takes a descriptor that keeps every rule; WFILL and CONS hand out the next slot and count it,
PUB and WFREE count one more, when the counters allow; the relation FREEC ≤ CONC ≤ PUBC ≤ FILLC ≤ FREEC + 2^LOGN holds again
after each ring instruction that completes, and a counter is written with no other byte of memory and no register changed. A
BASE that is not 64-byte aligned is no listed fault: the model's choice (log 33). -/
def Obligations.RingResults : Prop :=
  (∀ (s : State) (gd : Guard) (d a : BitVec 5) (c : BitVec 4), s.issuesC gd →
    let cv := s.tile.regs.c.get c.toFin
    let off := s.ringOffset cv
    let r := readRing s.mem (s.ownAddr off)
    let new : BitVec 16 := (s.g a).extractLsb' 0 16
    (s.hub.errors.bad = [] →
      (new.getLsbD 15 = true → ringWhy new (s.ringOffset new) (readRing s.mem (s.ownAddr (s.ringOffset new))) = 0) →
      DoneC (.rset gd a c) s 2 { s.tile.regs with c := s.tile.regs.c.set c.toNat new c.isLt })
    ∧ (s.hub.errors.bad = [] → ringWhy cv off r = 0 →
      ((r.fillc - r.freec).toNat < 2 ^ r.logn →
        CompletesC (.wfill gd d c) s (((((s.begin 2).ringPut off 8 (r.fillc + 1)).ringPut off 24 (r.waitw &&& 2)).setWait .idle).setG d
          (s.ownPtr (r.base + r.fillc.toNat % 2 ^ r.logn * (r.esz * 64)))))
      ∧ (r.conc ≠ r.pubc →
        CompletesC (.cons gd d c) s (((((s.begin 2).ringPut off 16 (r.conc + 1)).ringPut off 24 (r.waitw &&& 1)).setWait .idle).setG d
          (s.ownPtr (r.base + r.conc.toNat % 2 ^ r.logn * (r.esz * 64)))))
      ∧ (r.pubc ≠ r.fillc → CompletesC (.pub gd c) s ((s.begin 2).ringPut off 12 (r.pubc + 1)))
      ∧ (r.freec ≠ r.conc → CompletesC (.wfree gd c) s ((s.begin 2).ringPut off 20 (r.freec + 1))))
    ∧ (s.hub.errors.bad = [] → s.calm →
      let faults (i : Instr) (why : Nat) (ring : BitVec 16) : Prop :=
        exec i s = .next ((s.begin 2).takeTrap false 0x09 (BitVec.ofNat 64 (why * 2 ^ 16 + c.toNat * 2 ^ 12 + ring.toNat % 2 ^ 12)))
      (ringWhy cv off r ≠ 0 → faults (.wfill gd d c) (ringWhy cv off r) cv ∧ faults (.cons gd d c) (ringWhy cv off r) cv
        ∧ faults (.pub gd c) (ringWhy cv off r) cv ∧ faults (.wfree gd c) (ringWhy cv off r) cv)
      ∧ (let why := ringWhy new (s.ringOffset new) (readRing s.mem (s.ownAddr (s.ringOffset new)))
        new.getLsbD 15 = true → why ≠ 0 → faults (.rset gd a c) why new)
      ∧ (ringWhy cv off r = 0 → (r.pubc = r.fillc → faults (.pub gd c) 7 cv) ∧ (r.freec = r.conc → faults (.wfree gd c) 7 cv))))
  ∧ (∀ (c : BitVec 16) (off : Nat) (r : Ring), ringWhy c off r = 0 ↔
    (c.getLsbD 15 = true ∧ c.extractLsb' 12 3 = 0 ∧ off % 32 = 0 ∧ off + 32 ≤ 0x78000 ∧ 0 < r.esz ∧ r.esz ≤ 64 ∧ r.logn ≤ 8
      ∧ r.zero4 = 0 ∧ r.zero7 = 0 ∧ r.waitw.toNat < 4 ∧ r.base + 2 ^ r.logn * (r.esz * 64) ≤ 0x78000
      ∧ (r.conc - r.freec).toNat ≤ (r.pubc - r.freec).toNat ∧ (r.pubc - r.freec).toNat ≤ (r.fillc - r.freec).toNat
      ∧ (r.fillc - r.freec).toNat ≤ 2 ^ r.logn))
  ∧ (∀ (r : Ring), r.logn ≤ 8 → r.ordered = true →
    ((r.fillc - r.freec).toNat < 2 ^ r.logn → ({ r with fillc := r.fillc + 1 } : Ring).ordered = true)
      ∧ (r.pubc ≠ r.fillc → ({ r with pubc := r.pubc + 1 } : Ring).ordered = true)
      ∧ (r.conc ≠ r.pubc → ({ r with conc := r.conc + 1 } : Ring).ordered = true)
      ∧ (r.freec ≠ r.conc → ({ r with freec := r.freec + 1 } : Ring).ordered = true))
  ∧ (∀ (s : State) (off field : Nat) (v : BitVec 32),
    let t := s.ringPut off field v
    s.storesOnly t (s.ownAddr (off + field)) 4 v.toNat ∧ t.tile.regs = s.tile.regs ∧ t.tile.csr = s.tile.csr
      ∧ t.tile.ctx = s.tile.ctx ∧ t.tile.front = s.tile.front ∧ t.tile.ports = s.tile.ports)

/-- R184 to R186, R200, R207, R208: EPUSH queues a copy, a collective or a marker from a record in the scratchpad; SWRB and
SWMX queue collectives of their operation; EPOP takes a result and acquires; WAITE answers which FIFOs hold one. -/
def Obligations.EngineInstructionResults : Prop :=
  ∀ (s u : State) (gd : Guard) (d a : BitVec 5) (w : BitVec 1) (e m : BitVec 3) (addr v : Nat), s.issuesC gd →
    let r := BitVec.ofNat 256 v
    (s.txact = false → (s.begin 6).resolve true .load (s.g a) 32 32 = .mem addr none → addrSpm addr = true →
        s.isLocal addr = true → (s.begin 6).readPlace addr 32 = (u, some v) →
      (∀ used used', u.tile.eng.fifo0.length < 8 → r.extractLsb' 192 64 = (0x05 : Word) <<< 56 →
        let ctrl : Word := r.extractLsb' 128 64
        ctrl.toNat / 2 ^ 37 % 8 = 0 → ctrlStrm ctrl = false →
        u.checkRange .load (r.extractLsb' 64 64) (ctrlLen ctrl) [] = .ok used →
        u.checkRange .store (r.extractLsb' 0 64) (ctrlLen ctrl) used = .ok used' →
        u.releaseWaits = false → (u.release 3).tile.path.failures = [] →
        CompletesC (.epush gd a 0) s ((u.release 3).pushCmd (.copy (r.extractLsb' 0 64) (r.extractLsb' 64 64) ctrl 0 used')))
      ∧ (∀ (sf df : Format) used used', u.tile.eng.fifo1.length < 8 →
        let queued (d : BitVec 256) : State := (u.release 4).pushSw d false 0
        let passes (d : BitVec 256) : Prop := u.collectiveCheck d = .ok (sf, df)
          ∧ u.checkRange .load (descSrc d) (formatBytes sf (descCount d).toNat) [] = .ok used
          ∧ u.checkRange .store (descDst d) (formatBytes df (descCount d).toNat) used = .ok used'
        (passes r → u.releaseWaits = false → (u.release 4).tile.path.failures = [] → CompletesC (.epush gd a 1) s (queued r))
        ∧ (passes (withOp r 0) → u.rowsPending = false → CompletesC (.swrb gd a) s (queued (withOp r 0)))
        ∧ (passes (withOp r 1) → u.rowsPending = false → CompletesC (.swmx gd a) s (queued (withOp r 1))))
      ∧ (r.extractLsb' 32 224 = (0x11 : BitVec 224) <<< 216 → u.tile.seq.queue.length < 8 → u.releaseWaits = false →
        (u.release 0).tile.path.failures = [] →
        CompletesC (.epush gd a 2) s ((u.release 0).setSeq { (u.release 0).tile.seq with
          queue := (u.release 0).tile.seq.queue ++ [.marker (r.extractLsb' 0 32)] })))
    ∧ (∀ (h : e.toNat < 3), s.boundPort 4 (e.setWidth 4) = none →
      (∀ x rest, s.tile.eng.res.get ⟨e.toNat, h⟩ = x :: rest →
        CompletesC (.epop gd d w e) s ((((s.begin 6).setEng { s.tile.eng with
          res := s.tile.eng.res.set e.toNat rest h }).acquire).setG d x))
      ∧ (s.tile.eng.res.get ⟨e.toNat, h⟩ = [] → DoneC (.epop gd d 1 e) s 6 (s.setG d 0).tile.regs))
    ∧ (s.txact = false → m ≠ 0 → (∀ i : Fin 3, m.getLsbD i.val = true → s.boundPort 4 (BitVec.ofNat 4 i.val) = none) →
      s.tile.power.state = .run →
      let ready : BitVec 3 := s.readyMask m
      (ready ≠ 0 → DoneC (.waite gd d m) s 0 (s.setG d (ready.setWidth 64)).tile.regs)
        ∧ ∀ i : Fin 3, ready.getLsbD i.val = (m.getLsbD i.val && !(s.tile.eng.res.get i).isEmpty))

/-! ### The execute half -/

/-- R66, R118 to R120, R123 and Table 5.2: ANOP does nothing; each integer instruction computes every lane from the same lanes of
its sources, and only VADDS and VSUBS raise flags. -/
def Obligations.IntegerLaneResults : Prop :=
  ∀ (s : State) (gd : Guard) (d a b : BitVec 5) (t : BitVec 3), accepts intTypes t = true → s.quiet →
    let w := laneBits t
    let x := laneOf w (s.rowAt a)
    let y := laneOf w (s.rowAt b)
    let two (i : BitVec 5 → BitVec 5 → BitVec 5 → BitVec 3 → Instr) (f : BitVec w → BitVec w → BitVec w) : Prop :=
      LanesA (i d a b t) s [a, b] d w 3 fun k => ((f (x k) (y k)).toNat, 0)
    let one (i : Instr) (f : BitVec w → BitVec w) : Prop := LanesA i s [a] d w 3 fun k => ((f (x k)).toNat, 0)
    let lo : Int := -2 ^ (w - 1)
    let hi : Int := 2 ^ (w - 1) - 1
    let clamped (i : Instr) (f : Int → Int → Int) : Prop := LanesA i s [a, b] d w 3 fun k =>
      let z := f (x k).toInt (y k).toInt
      ((BitVec.ofInt w (max lo (min hi z))).toNat, if z < lo ∨ hi < z then flSAT ||| flOF else 0)
    (s.guardA gd = true → DoneA (.anop gd) s s 3 0)
    ∧ (s.issuesA gd [a, b] [d] [] →
        two (.vadd gd) (fun x y => x + y) ∧ two (.vsub gd) (fun x y => x - y) ∧ two (.vmul gd) (fun x y => x * y)
        ∧ two (.vmulh gd) (fun x y => (x.signExtend (2 * w) * y.signExtend (2 * w)).extractLsb' w w)
        ∧ two (.vmin gd) (fun x y => if x.slt y then x else y) ∧ two (.vmax gd) (fun x y => if x.slt y then y else x)
        ∧ two (.vand gd) (fun x y => x &&& y) ∧ two (.vor gd) (fun x y => x ||| y) ∧ two (.vxor gd) (fun x y => x ^^^ y)
        ∧ two (.vshl gd) (fun x y => x <<< (y.toNat % w)) ∧ two (.vshr gd) (fun x y => x >>> (y.toNat % w))
        ∧ two (.vsra gd) (fun x y => x.sshiftRight (y.toNat % w))
        ∧ clamped (.vadds gd d a b t) (fun x y => x + y) ∧ clamped (.vsubs gd d a b t) (fun x y => x - y))
    ∧ (s.issuesA gd [a] [d] [] →
        one (.vabs gd d a t) (fun x => if x.slt 0 then -x else x) ∧ one (.vneg gd d a t) (fun x => -x))

/-- R124 to R127, Tables 5.3 to 5.5: the floating-point, compare, test and special-function words work lane by lane on the exact
values of their operands, rounded once in the mode of FCSR, and OR the flags of their lanes. -/
def Obligations.FloatAndCompareLaneResults : Prop :=
  ∀ (s : State) (gd : Guard) (d a b : BitVec 5) (t : BitVec 3) (q : BitVec 3), s.quiet →
    let w := laneBits t
    let x (k : Nat) : Nat := (laneOf w (s.rowAt a) k).toNat
    let y (k : Nat) : Nat := (laneOf w (s.rowAt b) k).toNat
    let z (k : Nat) : Nat := (laneOf w (s.rowAt d) k).toNat
    let f := fmtOf t
    let val (c : Nat) : Ext := f.read s.ftz c
    let rounded (k : Nat) (r : Ext × Flags) : Nat × Flags :=
      ((f.convert s.ftz (s.modeAt s.rm k) r.1).1, (f.convert s.ftz (s.modeAt s.rm k) r.1).2 ||| r.2)
    let rd (k : Nat) : Bool := s.modeAt s.rm k == .rd
    let two (i : Instr) (f : Nat → Nat × Flags) : Prop := LanesA i s [a, b] d w 3 f
    let ones (b : Bool) : Nat := if b then 2 ^ w - 1 else 0
    let cmp (i : Instr) (c : Cond) : Prop :=
      (accepts floatTypes t = true → two i fun k => (ones (c.onExt (val (x k)) (val (y k))),
        if (val (x k)).isSig || (val (y k)).isSig then flNV else 0))
      ∧ (accepts intTypes t = true → c ≠ .ord → c ≠ .uno → two i fun k =>
          (ones (c.onInt (laneOf w (s.rowAt a) k).toInt (laneOf w (s.rowAt b) k).toInt), 0))
    (accepts floatTypes t = true → s.issuesA gd [a, b] [d] (s.drawRegs s.rm) →
        two (.fadd gd d a b t) (fun k => rounded k (Ext.add (rd k) (val (x k)) (val (y k))))
        ∧ two (.fsub gd d a b t) (fun k => rounded k (Ext.add (rd k) (val (x k)) (val (y k)).neg))
        ∧ two (.fmul gd d a b t) (fun k => rounded k (Ext.mul (val (x k)) (val (y k)))))
    ∧ (accepts floatTypes t = true → isPort d = false → s.issuesA gd [a, b, d] [d] (s.drawRegs s.rm) →
        two (.ffma gd d a b t) fun k =>
          let p := Ext.mul (val (x k)) (val (y k))
          let r := Ext.add (rd k) p.1 (val (z k))
          rounded k (r.1, r.2 ||| p.2))
    ∧ (accepts floatTypes t = true → s.issuesA gd [a, b] [d] [] →
        two (.fmin gd d a b t) (fun k => fminmaxLane f s.ftz false (x k) (y k))
        ∧ two (.fmax gd d a b t) (fun k => fminmaxLane f s.ftz true (x k) (y k)))
    ∧ (accepts floatTypes t = true → s.issuesA gd [a] [d] [] →
        LanesA (.fabs gd d a t) s [a] d w 3 (fun k => fsignLane f s.ftz false (x k))
        ∧ LanesA (.fneg gd d a t) s [a] d w 3 (fun k => fsignLane f s.ftz true (x k)))
    ∧ (s.issuesA gd [a, b] [d] [] →
        cmp (.vcmpEq gd d a b t) .eq ∧ cmp (.vcmpNe gd d a b t) .ne ∧ cmp (.vcmpLt gd d a b t) .lt ∧ cmp (.vcmpLe gd d a b t) .le
        ∧ cmp (.vcmpGt gd d a b t) .gt ∧ cmp (.vcmpGe gd d a b t) .ge ∧ cmp (.vcmpOrd gd d a b t) .ord
        ∧ cmp (.vcmpUno gd d a b t) .uno)
    ∧ (accepts allTypes t = true → s.issuesA gd [a] [] [] →
        DoneA (.vtestAny gd q a t) s ((s.popAll [a]).setQ q (decide (∃ k < 512 / w, x k ≠ 0))) 3 0
        ∧ DoneA (.vtestAll gd q a t) s ((s.popAll [a]).setQ q (decide (∀ k < 512 / w, x k ≠ 0))) 3 0)
    ∧ (t = 5 → s.issuesA gd [a] [d] [] →
        let one (i : Instr) (g : Bool → Ext → Nat × Flags) : Prop := LanesA i s [a] d 32 4 fun k => g s.ftz (val (x k))
        one (.frcp gd d a t) sfuRcp ∧ one (.frsq gd d a t) sfuRsq ∧ one (.fsqrt gd d a t) sfuSqrt
        ∧ one (.fexp2 gd d a t) sfuExp2 ∧ one (.flog2 gd d a t) sfuLog2 ∧ one (.ftanh gd d a t) sfuTanh)

/-- R124, R125, R44 and R45: a sum and a product are exact; FMIN and FMAX return the smaller and the larger of their operands, -0
below +0, and the canonical NaN when either is a NaN, and raise NV alone, for a signalling NaN; FABS and FNEG of a lane that is not a
NaN differ from it in the sign bit alone. Under FTZ a subnormal operand is first a zero of its own sign. -/
def Obligations.FloatOperationsAreExact : Prop :=
  let val : Ext → ℚ
    | .fin neg m e => (if neg then -1 else 1) * m * (2 : ℚ) ^ e
    | _ => 0
  (∀ (rd n n' : Bool) (m m' : Nat) (e e' : Int),
      let a : Ext := .fin n m e
      let b : Ext := .fin n' m' e'
      (∃ k p j, Ext.add rd a b = (.fin k p j, 0)) ∧ val (Ext.add rd a b).1 = val a + val b
        ∧ (∃ k p j, Ext.mul a b = (.fin k p j, 0)) ∧ val (Ext.mul a b).1 = val a * val b
        ∧ (a.lt b = true ↔ val a < val b) ∧ (a.eq b = true ↔ val a = val b))
  ∧ (∀ (t : BitVec 3) (x y : Nat) (ftz : Bool), accepts floatTypes t = true → x < 2 ^ laneBits t → y < 2 ^ laneBits t →
      let f := fmtOf t
      let top := 2 ^ (laneBits t - 1)
      let read (c : Nat) : Nat := if ftz = true ∧ c / 2 ^ f.frac % 2 ^ f.ebits = 0 then c / top * top else c
      let key (c : Nat) : Int := if c < top then (c : Int) else (top : Int) - 1 - c
      let nan (c : Nat) : Prop := (f.decode c).isNan = true
      let raised (c : Bool) : Flags := if c then flNV else 0
      let low := fminmaxLane f ftz false x y
      let high := fminmaxLane f ftz true x y
      (¬nan x → ¬nan y →
        low = (if key (read x) ≤ key (read y) then read x else read y, 0)
          ∧ high = (if key (read x) ≤ key (read y) then read y else read x, 0))
      ∧ (nan x ∨ nan y → f.nanCode = some low.1 ∧ f.nanCode = some high.1
          ∧ low.2 = raised ((f.decode x).isSig || (f.decode y).isSig) ∧ high.2 = raised ((f.decode x).isSig || (f.decode y).isSig))
      ∧ (¬nan x → fsignLane f ftz false x = (read x % top, 0) ∧ fsignLane f ftz true x = ((read x + top) % (2 * top), 0))
      ∧ (nan x → f.nanCode = some (fsignLane f ftz false x).1 ∧ f.nanCode = some (fsignLane f ftz true x).1
          ∧ (fsignLane f ftz false x).2 = raised (f.decode x).isSig ∧ (fsignLane f ftz true x).2 = raised (f.decode x).isSig))

/-- R128 to R130, R136: VCVT converts the lanes that both types have, VQNT writes the 32 values of its source as a record or as
codes, VDQ rounds the 32 elements once to the destination type, and none writes anything else. -/
def Obligations.ConversionResults : Prop :=
  ∀ (s : State) (gd : Guard) (d a k : BitVec 5) (r : BitVec 2) (t u : BitVec 3) (f : Format), s.quiet →
    (accepts allTypes t = true → accepts allTypes u = true → s.issuesA gd [a] [d] (s.drawRegs (cvtRm s r)) →
      LanesA (.vcvt gd d a r u t) s [a] d (laneBits u) 3 fun e =>
        if e < laneCount t then
          laneConvert u s.ftz (s.modeAt (cvtRm s r) e) (laneValue t s.ftz (laneOf (laneBits t) (s.rowAt a) e).toNat)
        else (0, 0))
    ∧ (accepts floatTypes t = true → quantFormat k = some f →
      let second (x : BitVec 5) : List (BitVec 5) := if t = 5 then [x, x + 1] else [x]
      ((t = 5 → pairOk a = true) → s.issuesA gd (second a) [d] (s.drawRegs s.rm) →
        let x (i : Nat) : Ext := laneValue t s.ftz (if i < laneCount t then (laneOf (laneBits t) (s.rowAt a) i).toNat
          else (laneOf (laneBits t) (s.rowAt (a + 1)) (i - laneCount t)).toNat)
        let res := quantise f s.ftz (s.modeAt s.rm) ((List.range 32).map x)
        DoneA (.vqnt gd d a k t) s ((s.popAll (second a)).writeRow d (BitVec.ofNat 512 res.1)) 3 res.2)
      ∧ ((t = 5 → pairOk d = true) → s.issuesA gd [a] (second d) (s.drawRegs s.rm) →
        let e (i : Nat) : Nat × Flags := laneConvert t s.ftz (s.modeAt s.rm i) (dequantise f (s.rowAt a).toNat i)
        ∃ lo hi : Row, (∀ i < laneCount t, (laneOf (laneBits t) lo i).toNat = (e i).1 % 2 ^ laneBits t)
          ∧ (t = 5 → ∀ i < 16, (laneOf 32 hi i).toNat = (e (16 + i)).1 % 2 ^ 32)
          ∧ DoneA (.vdq gd d a k t) s
              (let v := (s.popAll [a]).writeRow d lo
               if t = 5 then v.writeRow (d + 1) hi else v) 3 (flagsOf 32 e)))

/-- R126, R130 to R135 and Table 5.6: select, pack, the fixed reduction tree, ranking, the permutes, the random words and the move;
VTOPK writes the permutation that puts the lanes in rank order. -/
def Obligations.RowMoveResults : Prop :=
  ∀ (s : State) (gd : Guard) (d a b : BitVec 5) (t : BitVec 3) (h l : BitVec 5) (c : BitVec 2), s.quiet →
    let w := laneBits t
    let n := laneCount t
    let x := s.rowAt a
    let y := s.rowAt b
    let lane (r : Row) (k : Nat) : Nat := (laneOf w r k).toNat
    let row (i : Instr) (reads : List (BitVec 5)) (r : Row) : Prop := DoneA i s ((s.popAll reads).writeRow d r) 3 0
    (isPort d = false → s.issuesA gd [a, b, d] [d] [] →
        row (.vsel gd d a b) [a, b] ((s.rowAt d &&& x) ||| (~~~s.rowAt d &&& y)))
    ∧ (s.issuesA gd [a, b] [d] [] → row (.vpack gd d a b) [a, b] (y.extractLsb' 0 256 ++ x.extractLsb' 0 256)
        ∧ (accepts allTypes t = true → LanesA (.vshuf gd d a b t) s [a, b] d w 3 fun k => (lane x (lane y k % n), 0))
        ∧ (accepts [2, 5] t = true → ∃ r : Row, row (.vtopk gd d a b t) [a, b] r
            ∧ let pos (k : Nat) : Nat := lane r k
              let rank (p : Nat) : Ranked := { key := topKey t (lane x p), tag := (laneOf 32 y p).toNat, pos := p }
              (∀ k < 16, pos k < 16) ∧ ∀ j k, j < k → k < 16 → (rank (pos j)).before (rank (pos k)) = true))
    ∧ (s.issuesA gd [a] [d] [] →
        row (.vmov gd d a) [a] x
        ∧ (h.toNat < 2 → row (.vunpk gd d a h) [a] ((x.extractLsb' (256 * h.toNat) 256).setWidth 512))
        ∧ (accepts allTypes t = true → l.toNat < n → LanesA (.vbcst gd d a l t) s [a] d w 3 fun _ => (lane x l.toNat, 0))
        ∧ (accepts intTypes t = true → LanesA (.vidx gd d a t) s [a] d w 3 fun k => (lane x 0 + k, 0))
        ∧ (t = 2 → LanesA (.vrng gd d a c t) s [a] d 32 3 fun k =>
            let m := mjx (x.extractLsb' 0 64 + BitVec.ofNat 64 k) (s.tile.ctx.seeds.extractLsb' 0 32) (x.extractLsb' 64 32) s.tile.ctx.seedk
            ((if c = 0 then m.w0 else if c = 1 then m.w1 else if c = 2 then m.w2 else m.w3).toNat, 0))
        ∧ (accepts allTypes t = true →
            let reduced (i : Instr) (op : Nat → Nat → Nat × Flags) : Prop :=
              let r := tree op (Nat.log2 n) ((List.range n).map (lane x))
              DoneA i s ((s.popAll [a]).writeRow d (BitVec.ofNat 512 (r.1.headD 0 % 2 ^ w))) 3 r.2
            reduced (.vrsum gd d a t) (fun x y => match laneFloat t with
              | some f => faddLane f s.ftz .rne x y
              | none => ((x + y) % 2 ^ w, 0))
            ∧ reduced (.vrmax gd d a t) (fun x y => match laneFloat t with
              | some f => fminmaxLane f s.ftz true x y
              | none => (maxLane w x y, 0))
            ∧ reduced (.vrmin gd d a t) (fun x y => match laneFloat t with
              | some f => fminmaxLane f s.ftz false x y
              | none => (minLane w x y, 0))))
    ∧ (accepts allTypes t = true → isPort d = false → l.toNat ≤ n → s.issuesA gd [a, d] [d] [] →
        LanesA (.vslide gd d a l t) s [a] d w 3 fun k =>
          (if k + l.toNat < n then lane (s.rowAt d) (k + l.toNat) else lane x (k + l.toNat - n), 0))

/-- R141 to R149: MCFG reads the configuration, and takes an image that keeps every rule; MSWP chooses the bank; MLDB writes one
slot of one bank; MMA adds one row product to each accumulator word of its rows; MACZ and MRD clear and read accumulators. -/
def Obligations.MatrixWordResults : Prop :=
  ∀ (s : State) (gd : Guard) (d a : BitVec 5) (o : BitVec 2) (b comp v half clr : BitVec 1) (slot : BitVec 7) (k : BitVec 3)
    (j : BitVec 4) (m : BitVec 16), s.quiet → s.borrowed = false → s.guardA gd = true →
    let cfg := s.tile.matrix.cfg
    let acc := s.tile.regs.acc
    let es := s.tile.ports.inq.get k.toFin
    let popped (n : Nat) : State :=
      s.setPorts { s.tile.ports with inq := s.tile.ports.inq.set k.toNat (es.drop n) k.isLt }
    (s.issuesA gd [28] [d] [] → DoneA (.mcfg gd d 28) s (s.writeRow d cfg) 3 0)
    ∧ (∀ fa fb x, a ≠ 28 → s.issuesA gd [a] [d] [] →
        let new := s.rowAt a
        new &&& ~~~(cfgRw ||| cfgRo) = 0 → formatOf (cfgFmta new) = some fa → formatOf (cfgFmtb new) = some fb →
        matrixClass fa = some x → matrixClass fb = some x → 1 ≤ cfgArows new → cfgArows new ≤ 4 →
        (cfgKbeg new).toNat ≤ (cfgKptr new).toNat → (cfgKptr new).toNat ≤ (cfgKend new).toNat → (cfgKend new).toNat ≤ 84 →
        DoneA (.mcfg gd d a) s (((s.popAll [a]).setMatrix { s.tile.matrix with
          cfg := (new &&& cfgRw) ||| (cfg &&& cfgRo) }).writeRow d cfg) 3 0)
    ∧ (o ≠ 3 →
        let on := if o = 0 then !cfg.getLsbD 56 else o == 2
        DoneA (.mswp gd o) s (s.setMatrix { s.tile.matrix with
          cfg := if on then cfg ||| ((1 : Row) <<< 56) else cfg &&& ~~~((1 : Row) <<< 56) }) 3 0)
    ∧ (∀ cols, slot.toNat ≤ 84 → (comp = 1 → compFormats.contains (cfgFmtb cfg).toNat = true) → s.exeKind (inOperand k) ≠ 0 →
        8 ≤ es.length → (∀ e ∈ es.take 8, e.poison = none) → mldbCols (comp == 1) 0 (es.take 8) = .ok cols →
        Answers (.mldb gd b slot comp k) s fun t =>
          (∀ i c, cols[i]? = some c → bankCol (t.tile.matrix.bank b) slot.toNat i = { row := c.row % 2 ^ 512, side := c.side % 2 ^ 64 })
          ∧ (∀ x, x < 576 * slot.toNat ∨ 576 * slot.toNat + 576 ≤ x →
              (t.tile.matrix.bank b).read x = (s.tile.matrix.bank b).read x)
          ∧ t.tile.matrix.bank (1 - b) = s.tile.matrix.bank (1 - b) ∧ t.tile.matrix.cfg = cfg
          ∧ t.tile.ports = (popped 8).tile.ports ∧ t.tile.regs = s.tile.regs ∧ t.mem = s.mem
          ∧ t.tile.front = s.retireA.tile.front ∧ t.tile.ctx = { s.tile.ctx with energy := s.energyA 3 })
    ∧ (mldbCols false 0 (es.take 8) = .ok ((es.take 8).map fun e => { row := e.row.toNat, side := e.side.toNat % 2 ^ 64 }))
    ∧ (slot.toNat ≤ 84 → (v = 1 → slot = 0) → 1 ≤ cfgArows cfg → cfgArows cfg ≤ 4 → s.exeKind (inOperand k) ≠ 0 →
        cfgArows cfg ≤ es.length → (∀ e ∈ es.take (cfgArows cfg), e.poison = none) → s.hub.errors.bad = [] → s.hub.errors.soft = [] →
        let used := if v = 1 then (cfgKptr cfg).toNat else slot.toNat
        let old := acc.get j.toFin
        let word (i c : Nat) : Nat × Flags :=
          let e := es.getD i { row := 0, side := 0 }
          rowStep (cfgFormatOf (cfgFmta cfg)) (cfgFormatOf (cfgFmtb cfg)) s.ftz (accWord old (8 * i + c))
            { row := e.row.toNat, side := e.side.toNat % 2 ^ 64 } (bankCol (s.tile.matrix.bank (cfgSel cfg)) used c)
        ∃ new : BitVec 1024,
          (∀ i < 4, ∀ c < 8, accWord new (8 * i + c) = if i < cfgArows cfg then (word i c).1 % 2 ^ 32 else accWord old (8 * i + c))
          ∧ DoneA (.mma gd j v slot k) s (((popped (cfgArows cfg)).setRegs { s.tile.regs with
              acc := acc.set j.toNat new j.isLt }).setMatrix { s.tile.matrix with cfg := mmaStep cfg (v == 1) }) 5
              (flagsOf (8 * cfgArows cfg) fun x => word (x / 8) (x % 8)))
    ∧ (∃ new : Vector (BitVec 1024) 16, (∀ i : Fin 16, new.get i = if m.getLsbD i.val then 0 else acc.get i)
        ∧ DoneA (.macz gd m) s (s.setRegs { s.tile.regs with acc := new }) 3 0)
    ∧ (s.issuesA gd [] [d] [] →
        let x := acc.get j.toFin
        let left : BitVec 1024 := if clr = 0 then x else if half = 1 then (x.extractLsb' 0 512).setWidth 1024
          else x.extractLsb' 512 512 ++ (0 : BitVec 512)
        DoneA (.mrd gd d j half clr) s ((s.setRegs { s.tile.regs with acc := acc.set j.toNat left j.isLt }).writeRow d
          (if half = 1 then x.extractLsb' 512 512 else x.extractLsb' 0 512)) 3 0)

/-- R12, R20, R21, R33, R71, R77, R100, R111, R120: what stops an A-word at issue leaves everything in place; a pop takes the
oldest entry and a push adds a row; an enabled flag traps behind the completed word; a repeat captures, reissues and ends. That EVAL
names the port read where both ports of a word are unbound is the model's choice (log 30), and so are the 0 in RITER and RPOS of a
repeat that has ended (log 67). -/
def Obligations.ExecuteHalfRules : Prop :=
  ∀ (s : State) (gd : Guard) (d a b : BitVec 5) (t : BitVec 3),
    (s.guardA gd = true →
      ((outPort a).isSome || (inPort d).isSome → exec (.vmov gd d a) s = s.trap true 0x02 s.aEval)
      ∧ (outPort a = none → inPort d = none →
        (s.unbound a = true → exec (.vmov gd d a) s = (s.charge 3).trap true 0x08 (a.setWidth 64))
        ∧ (s.unbound a = false → s.unbound d = true → exec (.vmov gd d a) s = (s.charge 3).trap true 0x08 (d.setWidth 64))
        ∧ (s.unbound a = false → s.unbound d = false →
          ((s.notReady a || s.notReady d) = true →
            exec (.vmov gd d a) s = .next (s.setFront { s.tile.front with xst := .port }))
          ∧ (∀ c p, s.notReady a = false → s.notReady d = false → s.regError a = none → s.poisonAt a = some (c, p) →
            exec (.vmov gd d a) s = (s.charge 3).trap true c p))))
    ∧ (∀ i : Fin 8, (s.popAll [a, b]).tile.ports.inq.get i =
        if inPort a = some i ∨ inPort b = some i then (s.tile.ports.inq.get i).tail else s.tile.ports.inq.get i)
    ∧ (∀ x : Row, (∀ i : Fin 4, (s.writeRow d x).tile.ports.outq.get i =
          if outPort d = some i then s.tile.ports.outq.get i ++ [x] else s.tile.ports.outq.get i)
        ∧ (∀ r : BitVec 4, (s.writeRow d x).v r = if vReg d = some r then x else s.v r) ∧ (s.writeRow d x).mem = s.mem
        ∧ (s.writeRow 28 x = s))
    ∧ (∀ row fl, accepts intTypes t = true → s.issuesA gd [a, b] [d] [] → s.txact = false → s.committed = false →
        (∀ k < laneCount t, (laneOf (laneBits t) row k).toNat
          = (satLane (laneBits t) ((laneOf (laneBits t) (s.rowAt a) k).toInt + (laneOf (laneBits t) (s.rowAt b) k).toInt)).1) →
        fl = flagsOf (laneCount t) (fun k =>
          satLane (laneBits t) ((laneOf (laneBits t) (s.rowAt a) k).toInt + (laneOf (laneBits t) (s.rowAt b) k).toInt)) →
        fl &&& s.tile.ctx.fcsr.extractLsb' 16 6 ≠ 0 →
        let u := s.doneA ((s.popAll [a, b]).writeRow d row) 3 fl
        u.midTransfer = false → u.loopPending = false →
        exec (.vadds gd d a b t) s = .next (u.takeTrap true 0x0B (fl.setWidth 64)))
    ∧ (∀ it, s.tile.front.rpt.ract = true → s.headA = some it →
        let r := s.tile.front.rpt
        let r' := s.retireA.tile.front.rpt
        (r.riter = 0 → r'.words.get r.rpos.toFin = it.word ∧ r'.addrs.get r.rpos.toFin = it.addr
          ∧ (r.rpos.toNat + 1 < r.rn.toNat → r'.rpos = r.rpos + 1 ∧ r'.riter = 0 ∧ r'.ract = true)
          ∧ (r.rpos.toNat + 1 = r.rn.toNat → r'.rpos = 0 ∧ (r.rcnt = 0 → r'.ract = false) ∧ (r.rcnt ≠ 0 → r'.ract = true ∧ r'.riter = 1)))
        ∧ (r.riter ≠ 0 → it.word = r.words.get r.rpos.toFin ∧ s.retireA.tile.front.aq = s.tile.front.aq
          ∧ (r.rpos.toNat + 1 = r.rn.toNat → (r.riter = r.rcnt → r'.ract = false) ∧ (r.riter ≠ r.rcnt → r'.riter = r.riter + 1))))

/-! ### Tile instructions -/

/-- R151 to R153, Table 6.7: a tile instruction is placed in the queue with its 64 bits, its address and the CSRs sampled; TSYNC
waits until the sequencer is idle or stopped and releases; TSYNC.DROP discards a held report in supervisor mode; a report not yet
taken traps. -/
def Obligations.TileWordResults : Prop :=
  ∀ (s : State) (gd : Guard) (hd ha hb hc mode : BitVec 4) (param : BitVec 32), s.issuesC gd →
    let word (top : BitVec 6) (hd ha hb hc mode : BitVec 4) : Word :=
      param ++ (2 : BitVec 2) ++ top ++ hd ++ ha ++ hb ++ hc ++ gd.neg ++ gd.pred ++ mode
    let x := s.tile.ctx
    let placed (i : Instr) (w : Word) : Prop := CompletesC i s ((s.begin 7).setSeq { s.tile.seq with
      queue := s.tile.seq.queue ++ [.insn { insn := w, addr := s.tile.front.apc, seedk := x.seedk, seeds := x.seeds, srfix := x.srfix
                                            rm := x.fcsr.extractLsb' 0 3, ftz := x.fcsr.getLsbD 24 }] })
    (s.txact = false → s.tile.seq.held = none → s.tile.seq.queue.length < 8 → s.caughtUp = true →
      placed (.tshape gd param) (word 0 0 0 0 0 0) ∧ placed (.tbind gd hd ha mode param) (word 1 hd ha 0 0 mode)
      ∧ placed (.tmma gd hd ha hb hc mode param) (word 2 hd ha hb hc mode) ∧ placed (.tmm gd hd ha hb mode param) (word 3 hd ha hb 0 mode)
      ∧ placed (.tew gd hd ha hb mode param) (word 4 hd ha hb 0 mode) ∧ placed (.tcvt gd hd ha mode param) (word 5 hd ha 0 0 mode)
      ∧ placed (.tred gd hd ha mode param) (word 6 hd ha 0 0 mode) ∧ placed (.ttopk gd hd ha hc mode param) (word 7 hd ha 0 hc mode)
      ∧ placed (.tcopy gd hd ha param) (word 8 hd ha 0 0 0) ∧ placed (.tfill gd hd mode param) (word 9 hd 0 0 0 mode)
      ∧ placed (.ttrans gd hd ha mode param) (word 10 hd ha 0 0 mode) ∧ placed (.tdrop gd hd ha hc mode param) (word 11 hd ha 0 hc mode)
      ∧ placed (.tcoll gd hd ha mode param) (word 13 hd ha 0 0 mode))
    ∧ (s.txact = false → s.tile.seq.held = none → s.tile.power.state = .run →
      (s.seqIdle = true ∨ s.tile.seq.stopped = true → s.rowsPending = false →
        CompletesC (.tsync gd mode 0) s ((s.begin 7).release mode.toNat))
      ∧ (s.seqIdle = false → s.tile.seq.stopped = false → s.tile.front.ast ≠ .asleep →
        exec (.tsync gd mode 0) s = .next (((s.begin 7).stall .wait).enterPower .hold)))
    ∧ (∀ r, s.calm → s.tile.seq.held = some r → r.taken = false → s.sup = false →
      exec (.tsync gd mode param) s = .next (((s.begin 7).setSeq { s.tile.seq with held := some { r with taken := true } }).takeTrap
        false r.cause r.value))
    ∧ (s.sup = true → s.txact = false → ∀ r, s.tile.seq.held = some r → CompletesC (.tsyncDrop gd 0) s ((s.begin 7).setSeq { s.tile.seq with
        held := none, queue := if r.head then s.tile.seq.queue.tail else s.tile.seq.queue }))
    ∧ (s.sup = false → s.calm → exec (.tsyncDrop gd param) s = .next (s.takeTrap false 0x02 s.bundle))

/-- R152, R154 to R156, R158, R274, R289: nothing starts or commits while a context switch runs, and nothing starts while the
sequencer stalls at a write-blocked page; the head of the queue starts when nothing runs and the sequencer is not stopped, a TMMA or
TMM taking the matrix unit, and without one a part of a TILE packet; its commit writes every output byte and nothing else, ORs its
flags into FCSR and removes it; an enabled flag or a fault stops the sequencer, and the borrowed matrix unit comes back; a weight word
that went bad makes a TMMA or TMM fail with SOFT_ERROR. -/
def Obligations.TileSequencerResults : Prop :=
  (∀ (s s' : State) (i : SeqInsn) (rest : List SeqEntry) (x : Staged), s.tile.seq.running = none → s.tile.seq.queue = .insn i :: rest →
      let e := s.tileEnv i
      (s.tile.seq.stopped = true → exec .tileInsnStart s = .next s)
      ∧ (s.tile.seq.stopped = false → s.switching = false → s.seqStalls = false →
        (e.top = 0 → exec .tileInsnStart s = .next (s.setSeq { s.tile.seq with
          running := some (.grant (grantOf none e.param)), blocked := none }))
        ∧ (e.top ≠ 13 → s.stage e = (s', some x) →
          exec .tileInsnStart s = .next (let u := if i.borrows then s'.storeMatrix.clearWeights else s'
            u.setSeq { u.tile.seq with running := some x, blocked := none }))
        ∧ (e.top ≠ 13 → s.stage e = (s', none) → exec .tileInsnStart s = .next s')
        ∧ (e.top = 13 → exec .tileInsnStart s = .next (s.startColl e))))
  ∧ (∀ (s : State) (n : Nat) (u : ChildUnit),
      (s.switching = true → exec .tileInsnStart s = .next s ∧ exec .tileInsnCommit s = .next s)
      ∧ (s.seqStalls = true → exec .tileInsnStart s = .next s)
      ∧ (∀ t, (s.stallSeq t).seqStalls = true)
      ∧ (s.switching = false → s.seqStalls = false → s.nextChild = some (n, u) → exec .tileInsnStart s = .next (s.startChild n u)))
  ∧ (∀ (s : State) (i : SeqInsn) (rest : List SeqEntry) (bs : List StagedByte) (fl : BitVec 6) (rows : Nat),
      s.tile.seq.running = some (.outputs bs fl rows) → s.tile.seq.queue = .insn i :: rest → i.borrows = false → s.switching = false → s.weightUpset rows = none →
      (bs.map fun b => b.addr).Nodup → s.hub.errors.bad = [] → s.tile.path.posted = [] →
      (∀ b ∈ bs, addrSpm b.addr = true ∧ s.isLocal b.addr = true ∧ inStaging (addrOff b.addr) = false) →
      Answers .tileInsnCommit s fun t =>
        (∀ b ∈ bs, t.mem.read b.addr = (s.mem.read b.addr &&& ~~~b.mask) ||| (b.bits &&& b.mask))
        ∧ (∀ a, (∀ b ∈ bs, b.addr ≠ a) → t.mem.read a = s.mem.read a)
        ∧ t.tile.ctx = { s.tile.ctx with fcsr := s.tile.ctx.fcsr ||| (fl.setWidth 64 <<< 8) }
        ∧ t.tile.seq.queue = rest ∧ t.tile.seq.running = none ∧ t.tile.regs = s.tile.regs ∧ t.tile.front = s.tile.front
        ∧ (fl &&& s.tile.ctx.fcsr.extractLsb' 16 6 = 0 → t.tile.seq.held = s.tile.seq.held ∧ t.tile.seq.stopped = s.tile.seq.stopped)
        ∧ (fl &&& s.tile.ctx.fcsr.extractLsb' 16 6 ≠ 0 → t.tile.seq.stopped = true
            ∧ t.tile.seq.held = some { cause := 0x0B, value := fl.setWidth 64, head := false, taken := false }))
  ∧ (∀ (s : State) (i : SeqInsn) (rest : List SeqEntry) (bs : List StagedByte) (fl : BitVec 6) (rows : Nat) (slot : BitVec 7) (j : Fin 8),
      s.tile.seq.running = some (.outputs bs fl rows) → s.tile.seq.queue = .insn i :: rest → i.borrows = true → s.switching = false →
      s.weightUpset rows = some (slot, j) →
      exec .tileInsnCommit s = .next (s.returnMatrix.setSeq { s.returnMatrix.tile.seq with
        running := none, stopped := true
        held := some { cause := 0x14, value := weightEval 0 slot j.val, head := true, taken := false } }))
  ∧ (∀ (s : State) (i : SeqInsn) (rest : List SeqEntry) (r : BitVec 4) (h : BitVec 32) (g : Word) (c : BitVec 8) (v : Word),
      s.tile.seq.queue = .insn i :: rest → s.switching = false →
      let left : State := s.setSeq { s.tile.seq with queue := rest, running := none }
      (s.tile.seq.running = some (.handle r h) →
        exec .tileInsnCommit s = .next (left.setRegs { s.tile.regs with h := s.tile.regs.h.set r.toNat h r.isLt }))
      ∧ (s.tile.seq.running = some (.grant g) → Answers .tileInsnCommit s fun t =>
          t = left.setMatrix { s.tile.matrix with cfg := t.tile.matrix.cfg } ∧ cfgGrant t.tile.matrix.cfg = g
            ∧ t.tile.matrix.cfg.extractLsb' 0 128 = s.tile.matrix.cfg.extractLsb' 0 128)
      ∧ (s.tile.seq.running = some (.failed c v) → exec .tileInsnCommit s = .next ((if i.borrows then s.returnMatrix else s).setSeq
          { s.tile.seq with
            running := none, stopped := true, held := some { cause := c, value := v, head := true, taken := false } })))

/-- R254, R258, R259, R263 to R265, R274, R289: a part of a level 5 instruction that this tile's sequencer has run commits its bytes
and its flags while another part runs on, and units that go on write their derived records; one of another tile is computed when its
turn comes, and then commits, faults, or stalls at a write-blocked page; a fault adds a record with its cause and value to the log
and, under the ignore policy, drops the part in hand, and under the drop policy every part of the instruction; a report whose KDONE
no fault of a tile leaves comes from none. Writing the records changes the staging windows alone. -/
def Obligations.ChildUnitResults : Prop :=
  ∀ (s : State) (n level : Nat) (c : Ctx) (r : TileRun) (u : ChildUnit) (coord : BitVec 24), s.ctxOf n = some c → c.run = some r →
    r.insns ≠ [] → c.ended = none →
    (currentUnit r.units (fun x => x.tile == coord) = some u →
      (r.hasRun s.own u = false → exec (.childComplete n 2 coord) s = .next s)
      ∧ (r.hasRun s.own u = true → u.fault = none → r.kparts = 0 → u.state = 3 ∨ r.collective = true →
        u.flags &&& r.fcsr.extractLsb' 16 6 = 0 → (∃ x ∈ r.units, x.runs = true ∧ x.path ≠ u.path) →
        exec (.childComplete n 2 coord) s = .next (((s.hubCommit u.bytes).updCtx n fun c => { c with run := c.run.map fun _ =>
          { r with flags := r.flags ||| u.flags
                   units := r.units.map fun (x : ChildUnit) => if x.path = u.path then { x with state := 1 } else x } }).stageUnits n))
      ∧ (∀ v cause value t bytes flags, r.hasRun s.own u = true → u.fault = none → u.state ≠ 3 → r.collective = false →
        let ran := s.runPart (s.partEnv c r u) u
        (ran = (v, .ok (bytes, flags)) → exec (.childComplete n 2 coord) s
          = .next ((v.commitUnit c r { u with bytes := bytes, flags := flags }).goOn n))
        ∧ (ran = (v, .error (.fault cause value)) → exec (.childComplete n 2 coord) s
          = .next ((v.levelFault n (u.fails 2 cause value (v.kdoneAt u cause value))).goOn n))
        ∧ (ran = (v, .error (.blocked t)) → exec (.childComplete n 2 coord) s = .next (v.putUnit n { u with blocked := some t })))
      ∧ (∀ cause value, r.hasRun s.own u = true → u.fault = some (cause, value) → exec (.childComplete n 2 coord) s
          = .next ((s.levelFault n (u.fails 2 cause value (s.kdoneAt u cause value))).goOn n)))
    ∧ (let t := s.stageUnits n
      t.tile.regs = s.tile.regs ∧ t.tile.front = s.tile.front
        ∧ (∀ a, ¬(addrSpm a = true ∧ inStaging (addrOff a) = true) → t.mem.read a = s.mem.read a)
        ∧ ∃ c' r', t.ctxOf n = some c' ∧ c'.run = some r' ∧ r'.log = r.log ∧ r'.flags = r.flags ∧ r'.insns = r.insns
          ∧ r'.units.map (fun (v : ChildUnit) => (v.path, v.state, v.bytes)) = r.units.map fun (v : ChildUnit) => (v.path, v.state, v.bytes))
    ∧ (∀ (x : Rcb) (cause : BitVec 8) (value : Word) (child kdone : BitVec 32), 2 ≤ level → level ≤ 4 →
      let f := u.fails level cause value kdone.toNat
      let here (v : ChildUnit) : Bool := if level = 2 then v.tile == coord else if level = 3 then v.strip == (s.stripNo coord).toNat
        else v.strip / 64 == (coordDie coord).toNat
      let gone (policy : BitVec 2) (v : ChildUnit) : Bool :=
        v.under (if policy = 0 then u.path else f.pathAt level) && (v.state == 0 || (v.state == 3 && v.fault.isSome))
      currentUnit r.units here = some u →
      (level = 2 → u.kdoneOk cause value kdone.toNat = false → exec (.childFaultReport n level coord cause value child kdone) s = .next s)
      ∧ ((level = 2 → u.kdoneOk cause value kdone.toNat = true) →
        effectiveRcb c.rcbs level (s.unitCoord f level) = some x → x.policy = 0 ∨ x.policy = 2 →
        (∃ v ∈ r.units, v.runs = true ∧ gone x.policy v = false) → (∀ m q, s.tile.seq.running ≠ some (.child m q)) →
        Answers (.childFaultReport n level coord cause value child kdone) s fun t =>
          ∃ c' r' rec_, t.ctxOf n = some c' ∧ c'.run = some r' ∧ r'.log = r.log ++ [rec_] ∧ r'.nlog = r.nlog + 1 ∧ r'.dropped = r.dropped
            ∧ rec_.words[1]? = some value ∧ (rec_.words.headD 0).extractLsb' 0 8 = cause
            ∧ r'.units.map (fun (v : ChildUnit) => (v.path, v.state))
              = r.units.map (fun (v : ChildUnit) => (v.path, if gone x.policy v then 2 else v.state))
            ∧ t.tile.regs = s.tile.regs
            ∧ ∀ a, ¬(addrSpm a = true ∧ inStaging (addrOff a) = true) → t.mem.read a = s.mem.read a))

/-! ### Contexts -/

/-- R36, R197, R198, R248, R249, R311, R316, R317, R322, R323, R328: how contexts end, a dynamic one when the all-asleep detector
finds every tile asleep, and how a task is dispensed or withheld. -/
def Obligations.ContextEndResults : Prop :=
  ∀ (s : State) (n : Nat) (c : Ctx), s.ctxOf n = some c → c.ended = none →
    let ends (i : Instr) (status : BitVec 8) (value epc : Word) (coord : BitVec 24) : Prop := Answers i s fun t =>
      (∃ c', t.ctxOf n = some c' ∧ c'.ended = some (status, value, epc, coord))
        ∧ ∀ m ≠ n, t.ctxOf m = s.ctxOf m
    (s.tile.res.ctx = n → s.saveOver = true → ends .saveTimeout 0x16 s.tile.res.cxb 0 s.own
        ∧ Answers .saveTimeout s fun t => t.tile.wait = .load)
    ∧ (s.saveOver = false → exec .saveTimeout s = .next s)
    ∧ (c.disagrees = true → c.saving = false → ends (.computeBarrierComplete n) 0x49 0 0 0)
    ∧ (∀ p k, c.disagrees = false → c.allJoined = true → s.tile.res.ctx = n → s.tile.wait = .sstep .joined p k → k.toNat % 2 ^ 16 = 0 →
        exec (.computeBarrierComplete n) s = .next (s.setWait (.sstep .ran p k)))
    ∧ (c.run = none → c.running = true → c.saving = false → c.det = true → (∀ t ∈ c.tiles, t ∈ c.halted) →
        ends (.contextComplete n) 0 0 0 0)
    ∧ (c.run = none → c.running = true → c.saving = false → c.det = false → c.heldRecs = [] → s.nothingInFlight c = true →
        s.allAsleep c = true →
        (∀ t ∈ c.tiles, t ∈ c.idle) → (∀ x ∈ c.queues, (readTaskQueue s.mem x.2).head = (readTaskQueue s.mem x.2).tail) →
        ends (.contextComplete n) 0 0 0 0)
    ∧ (c.hung s.cycle = true → s.hub.snap.frozen = false →
        (c.saving = false → ends (.hangWatchdogExpire n) 0x48 0 0 0)
        ∧ (c.saving = true → exec (.hangWatchdogExpire n) s
            = .next (s.updCtx n fun c => { c with doomed := some (c.doomed.getD (0x48, 0, 0, 0)) })))
    ∧ (c.hung s.cycle = true ↔ c.hwd ≠ 0 ∧ c.parked = none ∧ c.doomed = none
        ∧ c.hwd.toNat * 2400000 ≤ (s.cycle - c.watched).toNat)
    ∧ (∀ cause value epc, s.tile.res.ctx = n → c.saving = false → s.tile.res.report = some (cause, value, epc) →
        ends (.tileLevelFaultReport s.own cause value) cause value epc s.own)
    ∧ (∀ (desc a : Nat), c.queues.find? (fun x => x.1 == s.own) = some (s.own, desc) → c.det = false → c.parked = none →
        s.own ∈ c.idle → s.own ∉ c.heldRecs → s.hub.errors.bad = [] →
        let u := s.dieRead desc 64
        let q := readTaskQueue s.mem desc
        q.head ≠ q.tail →
        (u.withheld c s.own = true → exec (.taskDispense n s.own) s = .next (u.noteDispenser c s.own))
        ∧ (u.withheld c s.own = false → u.taskSlot q q.head = some a →
          let v := (((u.noteDispenser c s.own).dieRead a 32).watch n).otherWrite (desc + 16) 4 (q.head + 1).toNat 7 0
          exec (.taskDispense n s.own) s = .next ((v.setRes { s.tile.res with
            held := s.tile.res.held ++ [(n, ptrAdd q.base (BitVec.ofNat 64 (32 * (q.head.toNat % 2 ^ q.logn))), s.mem.readWords a 4)] }).updCtx
              n fun c => { c with heldRecs := addOnce c.heldRecs s.own })))

/-- R88, R111, R180, R191, R214 to R216, R279, R288, R296 to R299, R383: accesses of other agents, answers, rejections and timeouts, evictions,
page walks, soft errors and scrubbing. -/
def Obligations.MemorySystemResults : Prop :=
  (∀ (s : State) (agent : BitVec 24) (addr v cmp : Word) (size : AccessSize) (op rlv : BitVec 3),
      let a := addr.toNat % 2 ^ 54
      let n := sizeBytes size
      let rest (t : State) (mem : Memory) : Prop := t.mem = mem ∧ t.tile.regs = s.tile.regs ∧ t.tile.front = s.tile.front
      let stored (v : Nat) : Memory := if addrSpm a && inStaging (addrOff a) then s.mem else s.mem.writeNat a n v
      (s.remoteOk a n = false → ∀ op, exec (.remoteAccess agent op addr size) s = .next s)
      ∧ (s.remoteOk a n = true → s.hub.errors.bad = [] →
        (Answers (.remoteAccess agent .load addr size) s fun t => rest t s.mem)
        ∧ (Answers (.remoteAccess agent (.store v rlv) addr size) s fun t => rest t (stored (v.toNat % 2 ^ (8 * n))))
        ∧ (4 ≤ n → Answers (.remoteAccess agent (.atomic op v cmp rlv) addr size) s fun t =>
            rest t (match atomicNew op (8 * n) (s.mem.readNat a n) (v.toNat % 2 ^ (8 * n)) (cmp.toNat % 2 ^ (8 * n)) with
              | some x => stored x
              | none => s.mem))))
  ∧ (∀ (s : State) (i : Nat) (p : Posted) (ptr : Word) (ok : Bool),
      let held (t : State) (x : Word) : State := t.setPath { t.tile.path with failures := t.tile.path.failures ++ [(0x04, x)] }
      (s.tile.wait = .remote → exec (.remoteAnswer ok) s = .next (s.setWait (if ok then .answered else .rejected))
        ∧ exec (.remoteTimeout .access) s = .next (s.setWait .rejected))
      ∧ (s.tile.path.posted[i]? = some p → p.addr < hostBase →
        let t := held (s.setPath { s.tile.path with posted := s.tile.path.posted.eraseIdx i }) p.ptr
        exec (.postedStoreReject i) s = .next t ∧ exec (.remoteTimeout (.posted i)) s = .next t)
      ∧ (s.tile.net.sent[i]? = some ptr → exec (.remoteTimeout (.message i)) s = .next (held
          ((s.setNet { s.tile.net with sent := s.tile.net.sent.eraseIdx i }).setCtx { s.tile.ctx with mallow := s.tile.ctx.mallow + 1 }) ptr)))
  ∧ (∀ (s : State) (line : Nat),
      (s.findLine line = none → exec (.l1Eviction line) s = .next s)
      ∧ (∀ l, s.findLine line = some l → s.hub.errors.bad = [] → s.hub.errors.soft = [] → Answers (.l1Eviction line) s fun t =>
          t.findLine line = none ∧ t.tile.regs = s.tile.regs ∧ t.tile.front = s.tile.front
          ∧ (∀ i < 64, t.mem.read (l.addr + i) = if l.dirty.getLsbD i then l.data.extractLsb' (8 * i) 8 else s.mem.read (l.addr + i))
          ∧ (∀ a, a < l.addr ∨ l.addr + 64 ≤ a → t.mem.read a = s.mem.read a)))
  ∧ (∀ (s : State) (p : Word), s.tile.path.walk = some p →
      let runs (t : State) : State := if s.tile.front.ast = .asleep then t else t.setFront { s.tile.front with ast := .run }
      let u := s.walkReads s.own s.tile.res.root (ptrVa p)
      u.mem = s.mem ∧ u.tile.regs = s.tile.regs ∧ u.tile.path = s.tile.path
      ∧ (∀ t, s.walkTables s.tile.res.ctxid s.tile.res.root (ptrVa p) = some t → exec .pageWalkComplete s = .next (runs (u.setPath { s.tile.path with
          walk := none, tcache := (t :: s.tile.path.tcache).take 64, pinned := t :: s.tile.path.pinned })))
      ∧ (s.walkTables s.tile.res.ctxid s.tile.res.root (ptrVa p) = none → exec .pageWalkComplete s = .next (runs (u.setPath { s.tile.path with
          walk := none, walkFail := some p }))))
  ∧ (∀ (s : State) (p : ErrorPlace),
      let e := s.hub.errors
      (s.errorPlaceOk p = true → p ∉ e.bad → p ∉ e.soft →
        exec (.softErrorInStoredBits p true) s = .next (s.setErrors { e with soft := p :: e.soft })
          ∧ exec (.softErrorInStoredBits p false) s = .next (s.setErrors { e with bad := p :: e.bad }))
      ∧ (p ∈ e.bad → p ∉ e.log → exec (.scrubRead p) s = .next (s.setErrors { e with log := e.log ++ [p] }))
      ∧ (p ∉ e.bad → p ∈ e.soft → exec (.scrubRead p) s = .next (s.setErrors { e with
          soft := e.soft.filter (fun x => x != p), corrected := countCorrected e.corrected (memoryOf p) })))

/-! ### Guards, and words with no meaning -/

/-- R75 to R78, Table 3.7: a word that fails a check of its encoding traps ILLEGAL_ENCODING with the word, whatever its guard; one
that is only unassigned traps ILLEGAL_INSTR, and retires when its guard does not hold. -/
def Obligations.UnassignedWords : Prop :=
  ∀ (s : State) (w : Word), s.calm → s.queueFull = false → s.committed = false →
    let guard : Guard := if w.extractLsb' 30 2 = 2 then { neg := w.extractLsb' 7 1, pred := w.extractLsb' 4 3 }
      else { neg := w.extractLsb' 29 1, pred := w.extractLsb' 26 3 }
    let aguard : Guard := { neg := w.extractLsb' 31 1, pred := w.extractLsb' 28 3 }
    exec (.unassignedEncoding false true w) s = .next (s.takeTrap false 0x01 w)
    ∧ (s.guardC guard = true → exec (.unassignedEncoding false false w) s = .next (s.takeTrap false 0x02 w))
    ∧ (s.guardC guard = false →
        DoneC (.unassignedEncoding false false w) s (if w.extractLsb' 30 2 = 2 then 7 else 0) s.tile.regs)
    ∧ (s.tile.front.rpt.ract = false →
        exec (.unassignedEncoding true true w) s = .next (s.takeTrap true 0x01 (w &&& 0xFFFFFFFF))
        ∧ (s.guardA aguard = true → exec (.unassignedEncoding true false w) s = .next (s.takeTrap true 0x02 (w &&& 0xFFFFFFFF))))
    ∧ (s.guardA aguard = false → DoneA (.unassignedEncoding true false w) s s 3 0)

/-- R9, R75, R76, R370: a word of the access half or a tile instruction whose guard does not hold completes with nothing changed
but ENERGY, whatever it is, and whatever its operands hold; an A-word whose guard does not hold leaves its half likewise. -/
def Obligations.GuardedOffWordsDoNothing : Prop :=
  (∀ (i : Instr) (s : State) (w0 w1 : Nat), decodeBundle w0 w1 = .ok i → s.queueFull = false → s.tile.wait = .idle →
      s.tile.res.leaderNext = none → s.tile.res.ungang = false →
      s.guardC (if w0 / 2 ^ 30 % 4 = 2 then { neg := BitVec.ofNat 1 (w0 / 2 ^ 7), pred := BitVec.ofNat 3 (w0 / 2 ^ 4) }
        else { neg := BitVec.ofNat 1 (w0 / 2 ^ 29), pred := BitVec.ofNat 3 (w0 / 2 ^ 26) }) = false →
      ∃ cls, DoneC i s cls s.tile.regs)
  ∧ (∀ (i : Instr) (s : State) (w : Nat), decodeA w = .ok i →
      s.guardA { neg := BitVec.ofNat 1 (w / 2 ^ 31), pred := BitVec.ofNat 3 (w / 2 ^ 28) } = false → ∃ cls, DoneA i s s cls 0)

/-! ### Messages, barriers and tasks -/

/-- R189 to R195, Table 7.9: MBW fills the message buffer; SEND takes an allowance and puts its message on its way, or answers
0 when there is none; RECV pops a word or reads 0; WAITM takes the arrival flag; MSTAT reads the status. -/
def Obligations.MessageInstructionResults : Prop :=
  ∀ (s : State) (gd : Guard) (d a b : BitVec 5) (m pd : BitVec 3), s.issuesC gd →
    let p := s.g a
    let x := s.g b
    let nw := x.toNat % 16
    let dreg : BitVec 5 := x.extractLsb' 4 5
    let less : State := (s.begin 6).setCtx { (s.begin 6).tile.ctx with mallow := s.tile.ctx.mallow - 1 }
    let arrival : Arrival :=
      if dreg = 0 then .message (msgHeader nw 0 s.own (p.extractLsb' 0 27)) (s.tile.regs.m.toList.take nw)
      else .deposit (msgHeader 1 dreg s.own (p.extractLsb' 0 27)) (s.tile.regs.m.get 0)
    DoneC (.mbw gd m a) s 6 { s.tile.regs with m := s.tile.regs.m.set m.toNat (s.g a) m.isLt }
    ∧ (∀ c, s.txact = false → x.toNat < 512 → 1 ≤ nw → nw ≤ 8 → (dreg = 0 ∨ nw = 1) → s.sendTarget p = some c →
        (s.mallow = 0 → DoneC (.send gd pd a b) s 6 (s.setP pd false).tile.regs)
        ∧ (s.mallow ≠ 0 → c ≠ s.own →
            CompletesC (.send gd pd a b) s ((less.setNet { s.tile.net with sent := s.tile.net.sent ++ [p] }).setP pd true))
        ∧ (s.mallow ≠ 0 → c = s.own →
            CompletesC (.send gd pd a b) s ((less.setNet { s.tile.net with
              sent := s.tile.net.sent ++ [p], waiting := s.tile.net.waiting ++ [⟨s.tile.res.cxb, arrival⟩] }).setP pd true)))
    ∧ (s.boundPort 5 0 = none →
        (s.tile.net.inbox = [] → DoneC (.recv gd d) s 6 (s.setG d 0).tile.regs)
        ∧ (∀ w rest, s.tile.net.inbox = w :: rest →
            CompletesC (.recv gd d) s (((s.begin 6).setNet { s.tile.net with
              inbox := rest
              lead := if s.tile.net.lead ≠ 0 then s.tile.net.lead - 1 else w.toNat / 2 ^ 59 % 16 }).setG d w)))
    ∧ (s.txact = false → s.tile.net.arrived = true → s.tile.power.state = .run →
        CompletesC (.waitm gd) s ((s.begin 6).setNet { s.tile.net with arrived := false }))
    ∧ DoneC (.mstat gd d) s 6 (s.setG d (BitVec.ofNat 64 (s.tile.net.inbox.length
        + (if s.tile.net.arrived then 2 ^ 15 else 0) + s.mallow * 2 ^ 16
        + (if (s.boundPort 5 0).isSome then 2 ^ 20 else 0)))).tile.regs

/-- R189, R191, R192, R228, Tables 7.8 and 8.5: what arrives lands in order where there is room, a deposit whose register DEPMASK
admits in the register, a scope miss as a pending cause merged with one that pends, and each sets the arrival flag but the last;
an accepted message, of those to one tile the oldest, gives its allowance back. -/
def Obligations.ArrivalsLand : Prop :=
  ∀ (s : State) (sender : BitVec 24) (tag : BitVec 27) (data : List Word) (r : BitVec 5) (v line : Word) (tsc rq : BitVec 3),
    s.tile.net.waiting = [] → s.tile.net.spillTo = none → s.midInstruction = false → s.tile.wait = .idle → s.homeless = false →
    let lands (x : List Word) : State := s.setNet { s.tile.net with inbox := s.tile.net.inbox ++ x, arrived := true }
    let header (nw : Nat) (dreg : BitVec 5) : Word :=
      (1 : BitVec 1) ++ BitVec.ofNat 4 nw ++ dreg ++ sender ++ (0 : BitVec 3) ++ tag
    (1 ≤ data.length → data.length ≤ 8 → s.tile.net.inbox.length + 1 + data.length ≤ 64 →
        exec (.messageArrival sender tag data) s = .next (lands (header data.length 0 :: data)))
    ∧ (r ≠ 0 → s.tile.ctx.depmask.getLsbD r.toNat = false → s.tile.net.inbox.length + 2 ≤ 64 →
        exec (.depositArrival sender tag r v) s = .next (lands [header 1 r, v]))
    ∧ (r ≠ 0 → s.tile.ctx.depmask.getLsbD r.toNat = true → s.sup = false →
        exec (.depositArrival sender tag r v) s = .next ((lands []).setG r v))
    ∧ (exec (.scopeMissMessage line tsc rq) s = .next (s.setPend { s.tile.pend with
        scopeMiss := some (mergeMiss s.tile.pend.scopeMiss ((line &&& 0x003FFFFFFFFFFFC0) ||| (tsc.setWidth 64 <<< 3) ||| rq.setWidth 64)) }))
    ∧ (s.tile.net.sent = [] → exec .allowanceReturn s = .next s)
    ∧ (s.tile.net.sent ≠ [] → ∃ i p, s.tile.net.sent[i]? = some p
        ∧ (∀ q ∈ s.tile.net.sent.take i, s.sendTarget q ≠ s.sendTarget p)
        ∧ exec .allowanceReturn s = .next ((s.setNet { s.tile.net with sent := s.tile.net.sent.eraseIdx i }).setCtx
          { s.tile.ctx with mallow := s.tile.ctx.mallow + 1 }))

/-- R197, R198, R237, R246, R310, R325, R358, R359: a tile of a deterministic context joins the compute barrier when nothing is in
flight; the records of every tile have landed, its release value is set, 2 µs ahead at least, or 5 µs when a tile of the context is in
GATED or WAKING, and wakes it, and is reached, and the SSTEP completes in the next compute phase or halts with what it wrote at the
homes; a rejected record traps behind it, unless the execute half holds a trap, which comes first. A cut is answered by the greatest K,
and stops a tile that holds the context at its next SSTEP, or has stopped one that left before it. That a tile reported asleep counts
as GATED is the model's choice (log 61). -/
def Obligations.SuperstepProgress : Prop :=
  (∀ (s : State) (gd : Guard) (e : BitVec 1) (a b : BitVec 5) (addr : Nat), s.issuesC gd → s.tile.wait = .idle → s.sup = false →
      s.det = true → s.txact = false → (s.g b).toNat < 2 ^ 16 → s.hub.errors.bad = [] →
      ((s.g b).toNat = 0 ∨ ((s.begin 0).resolve true .load (s.g a) 16 (16 * (s.g b).toNat) = .mem addr none ∧ addrSpm addr = true
        ∧ s.isLocal addr = true ∧ (s.begin 0).firstFault addr (s.g b).toNat 0 = none)) →
      s.tile.seq.held = none → s.takesPreempt = false → s.seqIdle = true → (e = 1 → s.caughtUp = true) →
      s.enginesIdle = true → s.mallow = 8 → s.tile.power.state = .run → s.releaseWaits = false →
      ((s.begin 0).release 3).tile.path.failures = [] →
      exec (.sstep gd e a b) s = .next (((s.begin 0).release 3).joinBarrier (e == 1) (s.g a) (s.g b)))
  ∧ (∀ (s : State) (ends : Bool) (p n : Word),
      let t := s.joinBarrier ends p n
      t.tile.wait = .sstep .joined p n ∧ t.cph = false ∧ t.tile.regs = s.tile.regs ∧ t.mem = s.mem
        ∧ t.tile.front.apc = s.tile.front.apc)
  ∧ (∀ (s : State) (ctx : Nat) (cycle p n : Word), s.tile.res.ctx = ctx →
      (s.tile.wait = .sstep .ran p n → s.allLanded ctx = true → Answers (.exchangeLanded ctx) s fun t =>
        t.tile.wait = .sstep .landed p n ∧ t.tile.ctx.step = s.tile.ctx.step + 1 ∧ t.tile.regs = s.tile.regs ∧ t.mem = s.mem)
      ∧ (s.tile.wait = .sstep .ran p n → s.allLanded ctx = false → exec (.exchangeLanded ctx) s = .next s)
      ∧ (s.tile.wait = .sstep .landed p n → Answers (.barrierRelease ctx cycle) s fun t =>
        let place := s.own.toNat % 32 + 32 * (s.own.toNat / 32 % 32)
        let off := s.tile.power.state = .gated ∨ s.tile.power.state = .waking
          ∨ ∃ c, s.ctxOf ctx = some c ∧ ∃ x ∈ c.asleep, x ≠ s.own
        let least := s.cycle.toNat + (if off then 12000 else 4800)
        let value := if cycle.toNat < least then BitVec.ofNat 64 least else cycle
        t.tile.wait = .sstep (.releasing (value + BitVec.ofNat 64 (place * (s.tile.ctx.stagger.toNat % 2 ^ 16)))) p n
          ∧ t.tile.power.state = (if s.tile.power.state = .gated then .waking else if s.tile.power.state = .hold then .run
              else s.tile.power.state)
          ∧ t.tile.regs = s.tile.regs ∧ t.mem = s.mem))
  ∧ (∀ (s : State) (at_ p n : Word), s.tile.wait = .sstep (.releasing at_) p n →
      exec .staggerExpire s = .next (if at_.toNat ≤ s.cycle.toNat then s.setWait (.sstep .released p n) else s))
  ∧ (∀ (s : State) (gd : Guard) (a b : BitVec 5) (p n : Word), s.tile.wait = .sstep .released p n → s.tile.res.rejected = none →
      s.tile.power.state = .run →
      CompletesC (.sstep gd 0 a b) s ((s.setWait .idle).setStatusBit 6 true)
        ∧ (Answers (.sstep gd 1 a b) s fun t => t.tile.front.ast = .halted ∧ t.tile.front.xst = .halted
          ∧ t.tile.regs = s.tile.regs ∧ t.tile.path.posted = [] ∧ (∀ l ∈ t.tile.path.l1, l.dirty = 0)
          ∧ (s.tile.path.posted = [] → (∀ l ∈ s.tile.path.l1, l.dirty = 0) → t.mem = s.mem)))
  ∧ (∀ (s : State) (gd : Guard) (e : BitVec 1) (a b : BitVec 5) (p n v : Word), s.tile.wait = .sstep .released p n →
      s.tile.res.rejected = some v → s.tile.power.state = .run →
      let u := ((s.setWait .idle).setStatusBit 6 (e == 0)).retire
      exec (.sstep gd e a b) s = .next (if s.tile.front.xtrap = none
        then (u.setRes { u.tile.res with rejected := none }).takeTrap false 0x04 v else u))
  ∧ (∀ (s : State) (ctx : Nat) (c : Ctx) (answers : List Nat), s.ctxOf ctx = some c → c.det = true →
      Answers (.cutRequest ctx answers) s fun t => ∃ k c', s.cutAnswer c ≤ k ∧ (∀ n ∈ answers, n ≤ k)
        ∧ (k = s.cutAnswer c ∨ k ∈ answers) ∧ t.ctxOf ctx = some c' ∧ c'.cut = some k
        ∧ (s.holds ctx = true → t.tile.res.cut = some k ∧ t.tile.pend.preempt = some 0 ∧ c'.stopped = [])
        ∧ (s.holds ctx = false → t.tile = s.tile
            ∧ c'.stopped = if s.own ∈ c.before ∧ s.cutAnswer c = k then [s.own] else [])
        ∧ t.tile.regs = s.tile.regs ∧ t.mem = s.mem)

/-- R199, R201: BARJ arrives at a barrier in the scratchpad, writes the new barrier word, puts what it saw into gd and waits;
run again behind a new generation, it completes with bit 63 of gd cleared. SLEEP falls asleep, its limit ends it, and it
completes with the events that ended it. The last of N arrivals starts the next generation of a barrier with no arrivals, any
other counts itself; the generation is 31 bits and bit 63 stays 0. -/
def Obligations.BarjAndSleep : Prop :=
  (∀ (s : State) (gd : Guard) (d a b : BitVec 5) (addr : Nat), s.issuesC gd → s.txact = false → s.tile.path.tx = none →
      s.tile.wait = .idle ∨ s.tile.wait = .barj → s.tile.front.ast ≠ .asleep → s.tile.power.state ≠ .gated → d ≠ 0 → 0 < (s.g b).toNat → (s.g b).toNat < 2 ^ 16 → s.rowsPending = false → s.tile.path.l1 = [] →
      s.reachesSpm .atomic (s.g a) 8 addr →
      let now := s.mem.readNat addr 8
      ((s.g d).getLsbD 63 = false → Answers (.barj gd d a b) s fun t =>
        s.storesOnly t addr 8 (barrierNext (s.g b).toNat now) ∧ t.tile.front.ast = .wait ∧ t.tile.front.apc = s.tile.front.apc
          ∧ t.tile.regs = (s.setG d (BitVec.ofNat 64 (2 ^ 63 + now % 2 ^ 63))).tile.regs)
      ∧ ((s.g d).getLsbD 63 = true → now / 2 ^ 32 % 2 ^ 31 ≠ (s.g d).toNat / 2 ^ 32 % 2 ^ 31 → s.tile.power.state = .run →
        Answers (.barj gd d a b) s fun t => t.mem = s.mem ∧ t.tile.front.movedFrom s.tile.front
          ∧ t.tile.regs = (s.setG d (s.g d &&& 0x7FFFFFFFFFFFFFFF)).tile.regs))
  ∧ (∀ (s : State) (gd : Guard) (d a : BitVec 5), s.issuesC gd → s.txact = false → s.tile.wait = .idle →
      let n := (s.g a).toNat % 2 ^ 32
      Answers (.sleep gd d a) s fun t => t.tile.wait = .sleep false false false
          (if n = 0 then none else some (s.cycle + BitVec.ofNat 64 n))
        ∧ t.tile.front.ast = .asleep ∧ t.tile.regs = s.tile.regs ∧ t.mem = s.mem)
  ∧ (∀ (s : State) (ar re li : Bool) (u : Option Word) (gd : Guard) (d a : BitVec 5), s.tile.wait = .sleep ar re li u →
      (∀ w, u = some w → w.toNat ≤ s.cycle.toNat → exec .sleepLimitReached s = .next (s.setWait (.sleep ar re true u)))
      ∧ ((ar || re || li) = true → s.tile.power.state = .run →
        CompletesC (.sleep gd d a) s ((s.setWait .idle).setG d
          (BitVec.ofNat 64 ((if ar then 1 else 0) + (if re then 2 else 0) + (if li then 4 else 0))))))
  ∧ (∀ (n old : Nat), 1 ≤ n → n < 2 ^ 16 → old < 2 ^ 63 →
    let w := barrierNext n old
    w < 2 ^ 63
      ∧ (old % 2 ^ 32 + 1 < n → w = old + 1)
      ∧ (n ≤ old % 2 ^ 32 + 1 → w % 2 ^ 32 = 0 ∧ w / 2 ^ 32 = (old / 2 ^ 32 + 1) % 2 ^ 31))

/-- R202 to R204, R322: TSPAWN sends its record to a task queue and answers whether it was appended; an append writes the record
behind the last and counts TAIL, or refuses a full queue; TJOIN adds to a join block; TDONE ends the task once every store it posted
has been performed, and counts its join block down: at 1 it sends the continuation to the queue that the block names, and a block that
is 0 traps ACCESS_FAULT. -/
def Obligations.TaskInstructionResults : Prop :=
  (∀ (s u : State) (gd : Guard) (d a b : BitVec 5) (addr v desc : Nat), s.issuesC gd → s.tile.wait = .idle → s.det = false →
      s.txact = false → (s.begin 6).resolve true .load (s.g a) 32 32 = .mem addr none → addrSpm addr = true →
      s.isLocal addr = true → (s.begin 6).readPlace addr 32 = (u, some v) →
      u.resolve true .store (s.g b) 64 64 = .mem desc none → desc < hostBase → u.rowsPending = false →
      exec (.tspawn gd d a b) s = .next (((u.release 3).setWait (.append (meshPtr desc) (recordDwords (BitVec.ofNat 256 v)))).stall
        .resource))
  ∧ (∀ (s : State) (gd : Guard) (d a b : BitVec 5) (ok : Bool), s.tile.wait = .appendAnswer ok →
      CompletesC (.tspawn gd d a b) s ((s.setWait .idle).setG d (if ok then 1 else 0)))
  ∧ (∀ (s : State) (desc : Word) (record : List Word) (a : Nat), s.tile.wait = .append desc record →
      let base := desc.toNat % 2 ^ 54
      let u := s.dieRead base 64
      let q := readTaskQueue s.mem base
      u.mem = s.mem ∧ u.tile.regs = s.tile.regs
      ∧ (2 ^ q.logn ≤ (q.tail - q.head).toNat → exec (.taskAppend desc record) s = .next (u.setWait (.appendAnswer false)))
      ∧ ((q.tail - q.head).toNat < 2 ^ q.logn → u.taskSlot q q.tail = some a →
        exec (.taskAppend desc record) s = .next (((u.putWords a record).otherWrite (base + 20) 4 (q.tail + 1).toNat 7 0).setWait
          (.appendAnswer true))))
  ∧ (∀ (s : State) (gd : Guard) (d a b : BitVec 5) (addr : Nat), s.issuesC gd → s.txact = false → s.tile.path.tx = none →
      s.tile.wait = .idle → s.rowsPending = false → s.tile.path.l1 = [] →
      s.resolve true .atomic (s.g a) 64 8 = .mem addr none → addrSpm addr = true → s.isLocal addr = true →
      inStaging (addrOff addr) = false → s.hub.errors.bad = [] → s.tile.path.posted = [] →
      let old := s.mem.readNat addr 8
      Answers (.tjoin gd d a b) s fun t => t.tile.regs = (s.setG d (BitVec.ofNat 64 old)).tile.regs
        ∧ s.storesOnly t addr 8 ((old + (s.g b).toNat) % 2 ^ 64) ∧ t.tile.front.movedFrom s.tile.front)
  ∧ (∀ (s : State) (gd : Guard) (a : BitVec 5), s.issuesC gd → s.sup = false → s.txact = false → s.tile.seq.held = none →
      s.caughtUp = true → s.seqIdle = true → s.enginesIdle = true → s.releaseWaits = false →
      let u := ((s.begin 6).flushPosted fun _ => true).release 3
      let p := s.g a
      u.tile.path.failures = [] →
      (p = 0 → exec (.tdone gd a) s = .next u.endTask)
      ∧ (∀ addr, p ≠ 0 → u.resolve true .atomic p 64 64 = .mem addr none → u.resolve true .atomic p 64 8 = .mem addr none →
          addrSpm addr = true → s.isLocal addr = true → inStaging (addrOff addr) = false → inStaging (addrOff (addr + 7)) = false →
          s.tile.path.tx = none → u.hub.errors.bad = [] →
        let old := u.mem.readNat addr 8
        (old = 0 → s.tile.front.xtrap = none → ∃ v : State, exec (.tdone gd a) s = .next (v.takeTrap false 0x04 p)
          ∧ v.mem = u.mem ∧ v.tile.regs = s.tile.regs ∧ v.tile.csr = s.tile.csr ∧ v.tile.front = u.tile.front)
        ∧ (old ≠ 0 → Answers (.tdone gd a) s fun t =>
          u.storesOnly t addr 8 (old - 1) ∧ t.dwt = true ∧ t.tile.front.apc = s.tile.front.apc + 8 ∧ t.tile.regs = s.tile.regs
            ∧ (1 < old → t.hub.fe.pushes = u.hub.fe.pushes)
            ∧ (∀ d, old = 1 → ptrVirtual (u.mem.readWord (addr + 8)) = false →
                u.reach [] .store (u.mem.readWord (addr + 8)) 64 = .mem d none →
                t.hub.fe.pushes = u.hub.fe.pushes ++ [(s.tile.res.ctx, meshPtr d, u.mem.readWords (addr + 32) 4)]))))
  ∧ (∀ (s : State), let t := s.endTask
      t.dwt = true ∧ t.tile.front.apc = s.tile.front.apc + 8 ∧ t.tile.front.latch = none ∧ t.tile.regs = s.tile.regs ∧ t.mem = s.mem
        ∧ ∀ x ∈ s.hub.fe.ctxs, x.id = s.tile.res.ctx → ∃ y ∈ t.hub.fe.ctxs, y.id = x.id ∧ s.own ∈ y.idle)

/-- R205, R206, R367 to R369, Table 1.14: a strip grants a request that breaks no condition of R367, with the next identifier and
the power and time asked for, or answers WHY; a second request of the holder gets the same identifier; SPRL asks and then gives
gd the answer; SPRX ends the lease that it names; a lease whose time has run out expires. -/
def Obligations.LeaseResults : Prop :=
  (∀ (s : State) (gd : Guard) (d a b : BitVec 5), s.issuesC gd → s.txact = false → s.tile.wait = .idle →
      exec (.sprl gd d a b) s = .next (((s.begin 0).setWait (.lease (s.g a) (s.g b))).stall .resource))
  ∧ (∀ (s : State) (gd : Guard) (d a b : BitVec 5) (v : Word), s.tile.wait = .leaseAnswer v →
      CompletesC (.sprl gd d a b) s ((s.setWait .idle).setG d v))
  ∧ (∀ (s : State) (tile : BitVec 24) (ctx : Nat) (power duration : Word), s.tile.wait = .idle →
      let i := s.stripNo tile
      let x := s.strip i
      let why := s.leaseWhy tile ctx power duration
      (x.st = 1 → x.holder = ctx → s.answerLease tile ctx power duration = (s, x.id.setWidth 64))
      ∧ (¬(x.st = 1 ∧ x.holder = ctx) → why ≠ 0 → s.answerLease tile ctx power duration = (s, BitVec.ofNat 64 (why * 2 ^ 16)))
      ∧ (¬(x.st = 1 ∧ x.holder = ctx) → why = 0 →
          Answers (.leaseRequest tile ctx power duration) s fun t =>
            (t.strip i).st = 1 ∧ (t.strip i).id = s.hub.power.nextId ∧ (t.strip i).extra.toNat = power.toNat
              ∧ (t.strip i).rem.toNat = duration.toNat ∧ (t.strip i).holder = ctx ∧ (t.strip i).granted = s.cycle
              ∧ t.hub.power.nextId ≠ 0 ∧ t.tile.regs = s.tile.regs ∧ t.mem = s.mem
              ∧ s.leasedPower + power.toNat ≤ (min s.hub.power.pcap.toNat s.hub.power.gceil.toNat - s.hub.power.prej.toNat) * 16))
  ∧ (∀ (s : State) (power duration : Word), s.tile.wait = .lease power duration →
      Answers (.leaseRequest s.own s.tile.res.ctx power duration) s fun t =>
        t.tile.wait = .leaseAnswer (s.answerLease s.own s.tile.res.ctx power duration).2
          ∧ t.tile.regs = s.tile.regs ∧ t.mem = s.mem)
  ∧ (∀ (s : State) (gd : Guard) (d a : BitVec 5), s.issuesC gd → s.txact = false →
      let x := s.strip s.ownStrip
      (s.holdsLease x = true → x.id = (s.g a).extractLsb' 0 16 →
        CompletesC (.sprx gd d a) s (((s.begin 0).endLease s.ownStrip).setG d 1))
      ∧ (¬(s.holdsLease x = true ∧ x.id = (s.g a).extractLsb' 0 16) → DoneC (.sprx gd d a) s 0 (s.setG d 0).tile.regs)
      ∧ ((s.endLease s.ownStrip).strip s.ownStrip).st = 0)
  ∧ (∀ (s : State) (i : BitVec 8), (s.strip i).st = 1 → s.remaining (s.strip i) = 0 →
      Answers (.leaseExpire i) s fun t => (t.strip i).st = 2 ∧ (t.strip i).rem = 0 ∧ (∀ j ≠ i, j ≠ s.ownStrip → t.strip j = s.strip j)
        ∧ (i = s.ownStrip → s.holdsLease (s.strip i) = true → s.tile.pend.lease = none →
            s.tile.wait ≠ .load → t.tile.pend.lease = some (BitVec.ofNat 64 ((s.strip i).id.toNat + 2 * 2 ^ 16)))
        ∧ t.tile.regs = s.tile.regs ∧ (s.tile.wait ≠ .load → t.mem = s.mem))

/-- R209, R210, R370: GANG with every member of its aligned group there forms the gang, leader at place 0; with fewer it waits; in
supervisor mode it traps uncharged, and inside a gang, or where a member that waits asks for another size, charged; an UNGANG whose
guard holds at one member, and a break, end the gang. -/
def Obligations.GangResults : Prop :=
  ∀ (s : State) (gd : Guard) (c : BitVec 2), s.issuesC gd → s.txact = false →
    let n := 2 ^ (c.toNat + 1)
    let place := s.own.toNat % 32 % n
    (s.sup = false → s.grole = 0 → s.gangDiffers c = false → s.tile.wait = .idle →
      (n ≤ s.gangCount c + 1 → CompletesC (.gang gd c) s ((s.begin 0).formGang c))
      ∧ (s.gangCount c + 1 < n → exec (.gang gd c) s = .next (((s.begin 0).setWait (.gang c)).stall .resource)))
    ∧ (c.toNat < 3 → (s.formGang c).grole = (if place = 0 then 1 else 2)
        ∧ (s.formGang c).tile.csr.status.extractLsb' 18 2 = c
        ∧ (s.formGang c).tile.csr.status.extractLsb' 20 3 = BitVec.ofNat 3 place)
    ∧ (∀ (gd' : Guard) (c' : BitVec 2), s.tile.wait = .gang c → n ≤ s.gangCount c + 1 →
        CompletesC (.gang gd' c') s ((s.setWait .idle).formGang c))
    ∧ (s.calm → s.tile.wait = .idle →
        (s.sup = true → exec (.gang gd c) s = .next (s.takeTrap false 0x02 s.bundle))
        ∧ (s.sup = false → s.grole ≠ 0 ∨ s.gangDiffers c = true → exec (.gang gd c) s = .next ((s.begin 0).takeTrap false 0x02 s.bundle)))
    ∧ (∀ gd' : Guard, s.guardC gd' = false →
        (s.tile.res.ungang = false → s.straight → Answers (.ungang gd') s fun t => t.grole = s.grole ∧ t.tile.front = s.frontAfter)
        ∧ (s.tile.res.ungang = true → Answers (.ungang gd') s fun t => t.grole = 0 ∧ t.tile.regs = s.tile.regs ∧ t.mem = s.mem))
    ∧ (Answers (.ungang gd) s fun t => t.grole = 0 ∧ t.tile.res.leaderNext = none ∧ t.tile.regs = s.tile.regs ∧ t.mem = s.mem
        ∧ t.tile.front.movedFrom s.tile.front)
    ∧ (s.grole ≠ 0 → s.tile.pend.gangBreak = none → ∀ (g : BitVec 3) (k : BitVec 8),
        (s.breakGang g k).grole = 0 ∧ (s.breakGang g k).tile.pend.gangBreak = some (BitVec.ofNat 64 (g.toNat + k.toNat * 256)))

/-! ### Traps and context switch -/

/-- R14, R35, R36, Tables 1.2, 1.10: a trap in task mode saves both progress words, the loop, the repeat, STATUS with FH and the
half states, the predicates and the registers in the workspace, whose reserved bytes become zero and whose CXB and g0 slot stay,
writes ECAUSE, EVAL and EWP, takes SWP's workspace and its registers, goes to EVEC in supervisor mode with IE and DWT clear, and
leaves no A-word, no loop and no gang. A trap in supervisor mode halts both halves, latches the tile's snapshot set and goes to the front end as a tile-level
fault with the progress word of the half that faulted; the registers, memory and the CSRs stay. Which half states the latched
STATUS shows is not stated (log 25). -/
def Obligations.TrapEntry : Prop :=
  (∀ (s : State) (fh : Bool) (cause : BitVec 8) (value : Word), s.sup = false → s.tile.wait = .idle →
    let t := s.takeTrap fh cause value
    let ws := s.ownAddr (s.tile.csr.wp.toNat % 2 ^ 19)
    let half := t.mem.readWord (ws + 0x530)
    t.tile.csr.ecause = cause.setWidth 64 ∧ t.tile.csr.eval = value ∧ t.tile.csr.ewp = s.tile.csr.wp ∧ t.tile.csr.wp = s.tile.csr.swp
      ∧ t.sup = true ∧ t.ie = false ∧ t.dwt = false ∧ t.det = s.det ∧ t.cph = s.cph ∧ t.grole = 0
      ∧ t.tile.front.apc = s.tile.csr.evec ∧ t.tile.front.latch = none ∧ t.tile.front.aq = [] ∧ t.tile.front.loop.lact = false
      ∧ t.tile.front.rpt.ract = false ∧ t.tile.front.ast = .run ∧ t.tile.front.xst = .run ∧ t.tile.front.xtrap = none
      ∧ t.mem.readWord (ws + 0x508) = s.tile.front.apc ∧ t.mem.readWord (ws + 0x510) = s.xpc
      ∧ t.mem.readWord (ws + 0x518) = s.tile.front.loop.word ∧ t.mem.readWord (ws + 0x520) = s.tile.front.loop.lbeg
      ∧ t.mem.readWord (ws + 0x528) = s.tile.front.rpt.word
      ∧ half.getLsbD 0 = false ∧ half.getLsbD 1 = s.ie ∧ half.getLsbD 2 = s.dwt ∧ half.getLsbD 4 = fh ∧ half.getLsbD 5 = s.det
      ∧ half.getLsbD 6 = s.cph ∧ half.extractLsb' 8 4 = (halfCode s.tile.front.ast).setWidth 4
      ∧ half.extractLsb' 12 4 = (halfCode s.tile.front.xst).setWidth 4 ∧ half.extractLsb' 16 48 = 0 ∧ half.getLsbD 3 = false
      ∧ (∀ r : BitVec 5, r ≠ 0 → t.mem.readWord (ws + 8 * r.toNat) = s.g r)
      ∧ (∀ r : BitVec 4, t.mem.readRow (ws + 0x100 + 64 * r.toNat) = s.v r)
      ∧ t.mem.read (ws + 0x500) = (s.tile.regs.p ||| 1) ∧ t.mem.read (ws + 0x501) = (s.tile.regs.q ||| 1)
      ∧ (∀ i < 6, t.mem.read (ws + 0x502 + i) = 0)
      ∧ (∀ x, x < ws + 8 ∨ ws + 0x538 ≤ x → t.mem.read x = s.mem.read x)
      ∧ (∀ r : BitVec 5, r ≠ 0 → t.g r = t.mem.readWord (s.ownAddr (s.tile.csr.swp.toNat % 2 ^ 19) + 8 * r.toNat))
      ∧ (s.tile.front.ordered = none → t.tile.ports = s.tile.ports) ∧ t.tile.matrix = s.tile.matrix ∧ t.tile.ctx = s.tile.ctx ∧ t.tile.eng = s.tile.eng
      ∧ t.tile.regs.c = s.tile.regs.c ∧ t.tile.regs.h = s.tile.regs.h ∧ t.tile.regs.acc = s.tile.regs.acc ∧ t.tile.regs.m = s.tile.regs.m)
  ∧ (∀ (s : State) (fh : Bool) (cause : BitVec 8) (value : Word), s.sup = true → s.tile.wait = .idle →
    let t := s.takeTrap fh cause value
    t.tile.front.ast = .halted ∧ t.tile.front.xst = .halted ∧ t.tile.res.report = some (cause, value, if fh then s.xpc else s.tile.front.apc)
      ∧ t.tile.front.apc = s.tile.front.apc ∧ t.tile.regs = s.tile.regs ∧ t.mem = s.mem ∧ t.tile.csr = s.tile.csr
      ∧ ∃ st : Word, st &&& 0xFFFFFFFFFFFF00FF = s.statusImage false &&& 0xFFFFFFFFFFFF00FF
        ∧ assocGet s.snapIndex t.hub.snap.sets = some [s.cycle ||| ((1 : Word) <<< 63), s.tile.front.apc, s.xpc, st,
          s.tile.csr.ecause, s.tile.csr.eval, s.tile.csr.wp, s.tile.ctx.energy])

/-- R37, R239, R242, R249: TRET in supervisor mode, with its A-words issued, resumes the context of the workspace at EWP when it is
the resident one and no CHECKPOINT waits for its save, and otherwise first saves the resident one and then loads the other, giving
the save up when its timer has run out; the resumed context has its progress, its loop, its repeat and its STATUS as the workspace
holds them. In task mode TRET is ILLEGAL_INSTR (R31). That a CHECKPOINT saves a context that is alone on its tile is log 56, and that
bits [2:0] of a saved progress word are taken as they stand is log 62. -/
def Obligations.TrapReturn : Prop :=
  (∀ (s : State) (gd : Guard), s.issuesC gd → s.tile.wait = .idle → s.sup = true → s.jumps →
      (s.wsCxb s.tile.csr.ewp = s.tile.res.cxb → s.mustSave = false →
        exec (.tret gd) s = .next ((s.begin 0).returned s.tile.csr.ewp))
      ∧ (s.wsCxb s.tile.csr.ewp ≠ s.tile.res.cxb ∨ s.mustSave = true → exec (.tret gd) s = .next (s.begin 0).startSave))
  ∧ (∀ (s : State) (gd : Guard), s.issuesC gd → s.tile.wait = .idle → s.sup = false → s.calm →
      exec (.tret gd) s = .next (s.takeTrap false 0x02 s.bundle))
  ∧ (∀ (s : State) (ws : Word),
      let t := s.returned ws
      let m := (s.writeBack (s.tile.csr.wp.toNat % 2 ^ 19)).mem
      let b := s.ownAddr (ws.toNat % 2 ^ 19)
      t.mem = m ∧ t.tile.csr.wp = ws ∧ t.tile.front.apc = m.readWord (b + 0x508)
        ∧ t.tile.csr.status = m.readWord (b + 0x530) &&& statusMask
        ∧ t.tile.front.loop.lcnt = (m.readWord (b + 0x518)).extractLsb' 32 32
        ∧ t.tile.front.loop.lact = (m.readWord (b + 0x518)).getLsbD 0
        ∧ t.tile.front.loop.llen = (m.readWord (b + 0x518)).extractLsb' 12 20
        ∧ t.tile.front.loop.lbeg = m.readWord (b + 0x520)
        ∧ t.tile.front.rpt.word = m.readWord (b + 0x528) &&& 0xFFFFFFF800000001
        ∧ t.tile.front.ast = (if t.dwt then .wait else .run) ∧ t.tile.front.xst = .run ∧ t.tile.front.xtrap = none
        ∧ t.tile.power.state = (if t.dwt then .hold else .run)
        ∧ (∀ r : BitVec 5, r ≠ 0 → t.g r = m.readWord (b + 8 * r.toNat))
        ∧ (∀ r : BitVec 4, t.v r = m.readRow (b + 0x100 + 64 * r.toNat))
        ∧ t.tile.wait = .idle ∧ t.tile.ports = s.tile.ports ∧ t.tile.matrix = s.tile.matrix)
  ∧ (∀ (s : State) (gd : Guard), s.tile.wait = .save →
      (s.saveOver = false → s.saveReady = true → exec (.tret gd) s = .next s.endSave)
      ∧ (s.saveOver = false → s.saveReady = false → exec (.tret gd) s = .next (s.stall .resource))
      ∧ (s.saveOver = true → exec (.tret gd) s = exec .saveTimeout s))
  ∧ (∀ (s : State) (ws : Word), s.tile.wait = .load → s.tile.power.state = .run ∨ s.tile.power.state = .hold → s.loadFrom = some ws →
      let v := if s.tile.power.state = .hold then s.enterPower .run else s
      let w := v.setCsr { s.tile.csr with ewp := ws }
      let cxb := s.wsCxb ws
      (∀ u, w.loadLocal cxb = some u →
        exec .contextLoad s = .next (((u.setNet { u.tile.net with spillTo := if cxb = 0 then none else some cxb }).drainAll cxb
          2048).returned ws))
      ∧ (w.loadLocal cxb = none →
        exec .contextLoad s = .next ((w.setRes { s.tile.res with ctx := s.ctxByCxb cxb, cxb := 0 }).haltWith false 0x04 cxb)))
  ∧ (∀ (s : State), (s.ctxOf (s.ctxByCxb (s.wsCxb s.tile.csr.ewp))).all (fun c => c.parked.isNone) = true →
      s.loadFrom = some s.tile.csr.ewp)
  ∧ (∀ (s : State), s.tile.wait ≠ .load → exec .contextLoad s = .next s)

/-- R236, R241, R247, R248, Table 9.2: PREEMPT and the snapshot cause become pending with their values; the first eligible pending
cause is taken at a boundary and pends no more; every tile asleep with nothing in flight makes ALL_ASLEEP pend. -/
def Obligations.AsynchronousCauses : Prop :=
  ∀ (s : State),
    exec .preemptRequest s = .next (s.setPend { s.tile.pend with preempt := some (s.tile.pend.preempt.getD 0) })
    ∧ (s.tile.csr.snapArmed = true → s.tile.csr.snapAt = s.cycle → s.cycle ≠ 0 → s.tile.pend.snapshot = none → s.tile.wait ≠ .load →
        Answers .snapatMatch s fun t => t.tile.csr.snapAt = 0 ∧ t.tile.csr.snapArmed = false ∧ t.tile.regs = s.tile.regs
          ∧ t.mem = s.mem ∧ t.tile.pend.snapshot = some ((1 : BitVec 1) ++ s.cycle.extractLsb' 0 63)
          ∧ assocGet s.snapIndex t.hub.snap.sets = some s.snapshotSet)
    ∧ (∀ c v rest, s.asyncCause = some (c, v, rest) → s.atBoundary = true →
        (s.txact = false → s.tile.power.state = .run → exec .asyncTrap s = .next ((s.setPend rest).takeTrap false c v))
        ∧ (s.txact = true → s.caughtUp = true → s.tile.power.state = .run →
          exec .asyncTrap s = .next (((s.setPend rest).txAbort 5 c).takeTrap false c v))
        ∧ (s.txact = false → s.tile.power.state = .hold →
          exec .asyncTrap s = .next (((s.enterPower .run).setPend rest).takeTrap false c v))
        ∧ (s.txact = false → s.tile.power.state = .gated → exec .asyncTrap s = .next s.wakeUp ∧ s.wakeUp.tile.power.state = .waking))
    ∧ (∀ n c, s.ctxOf n = some c → s.allAsleep c = true → s.nothingInFlight c = true → lowestTile c.tiles = s.own →
        s.tile.wait ≠ .load →
        exec (.allAsleepDetect n) s = .next (s.setPend { s.tile.pend with allAsleep := some (s.tile.pend.allAsleep.getD s.cycle) }))
    ∧ (s.ie = false → s.tile.pend.gangBreak = none → s.tile.pend.lease = none → s.tile.pend.capBreach = none →
        s.tile.pend.scopeMiss = none → s.asyncCause = none)
    ∧ (∀ v, s.tile.pend.gangBreak = some v → s.asyncCause = some (0x13, v, { s.tile.pend with gangBreak := none }))

/-! ### Power -/

/-- R355 to R371: what a strip and the package do about temperature, heat, caps and clocks, and what a tile does about its power
state and its energy, each at the time that the rules give it; ENERGY adds up in its low 48 bits, and says in bit 63 that it has
overflowed. That a thermal sample, an update of the heat store and the end of HOLD are events, which do nothing before their time, is the
model's form (log 1); the codes of the clamps are free values (log 6), and which way the firmware moves its own when the cap changes is
the model's (log 57). -/
def Obligations.PowerOperations : Prop :=
  (∀ (s : State) (i : BitVec 8),
    let keeps (t : State) : Prop := t.tile.regs = s.tile.regs ∧ (s.tile.wait ≠ .load → t.mem = s.mem)
    (∀ (temp power : BitVec 16),
      let x := s.strip i
      let held := 2400000 ≤ (s.cycle - x.turned).toNat
      let four := (temp :: x.recent).take 4
      120000 ≤ (s.cycle - x.sampled).toNat → Answers (.thermalSample i temp power) s fun t =>
        (t.strip i).temp = temp ∧ (t.strip i).pwr = power ∧ (t.strip i).sampled = s.cycle ∧ (t.strip i).recent = four ∧ keeps t
        ∧ (∀ j ≠ i, t.strip j = s.strip j)
        ∧ (x.thr = false → held → x.tthr.toInt ≤ temp.toInt →
            (t.strip i).thr = true ∧ (x.tcnt ≠ BitVec.allOnes 32 → (t.strip i).tcnt = x.tcnt + 1) ∧ (x.st = 1 → (t.strip i).st = 3))
        ∧ (x.thr = false → temp.toInt < x.tthr.toInt → (t.strip i).thr = false)
        ∧ (x.thr = true → ((t.strip i).thr = false ↔ held ∧ four.length = 4 ∧ ∀ y ∈ four, y.toInt ≤ x.tthr.toInt - 48)))
    ∧ (∀ (mw : BitVec 32),
      (2400000 ≤ (s.cycle - s.hub.power.heatAt).toNat → Answers (.heatStoreUpdate mw) s fun t =>
        t.hub.power.quj = min (s.hub.power.quj + mw.toNat - s.hub.power.prej.toNat * 1000) 75000000000 ∧ t.hub.power.heatAt = s.cycle
          ∧ t.csrRead 0x30 = BitVec.ofNat 64 (t.hub.power.quj * 1024 / 75000000000) ∧ t.leaseWord.getLsbD 3 = t.hub.power.refz
          ∧ (s.hub.power.refz = false → (t.hub.power.refz = true ↔ 71250000000 ≤ t.hub.power.quj)
            ∧ (71250000000 ≤ t.hub.power.quj → t.hub.power.refzAt = s.cycle ∧ ∀ j, (t.strip j).st ≠ 1))
          ∧ (s.hub.power.refz = true → t.hub.power.refzAt = s.hub.power.refzAt
            ∧ (t.hub.power.refz = false ↔ t.hub.power.quj ≤ 15000000000
              ∧ 30000 * 2400000 ≤ (s.cycle - s.hub.power.refzAt).toNat))
          ∧ keeps t)
      ∧ ((s.cycle - s.hub.power.heatAt).toNat < 2400000 → exec (.heatStoreUpdate mw) s = .next s))
    ∧ (∀ (cap : BitVec 12),
      let new := min 3000 (max 500 cap.toNat)
      Answers (.pcapWrite cap) s fun t =>
        let room := (min new s.hub.power.gceil.toNat - s.hub.power.prej.toNat) * 16
        t.hub.power.pcap.toNat = new ∧ t.leasedPower ≤ room
          ∧ (∀ j, (t.strip j).gov = (s.strip j).gov ∧ ((s.strip j).clamp.toNat ≤ 9 → (t.strip j).clamp.toNat ≤ 9)
            ∧ (new ≤ s.hub.power.pcap.toNat → (s.strip j).clamp.toNat ≤ (t.strip j).clamp.toNat)
            ∧ (s.hub.power.ppwr.toNat ≤ new → (t.strip j).clamp.toNat ≤ (s.strip j).clamp.toNat))
          ∧ (s.leasedPower ≤ room → ∀ j, t.strip j = { s.strip j with clamp := (t.strip j).clamp })
          ∧ keeps t)
    ∧ (Answers .governorTrip s fun t => t.hub.power.clamp = true ∧ t.hub.power.below = none
        ∧ (∀ j, (t.strip j).clamp = (s.strip j).clamp ∧ (t.strip j).capl = true ∧ (t.strip j).gov.toNat ≤ 9
          ∧ ((s.strip j).held.toNat < 9 → (s.strip j).held.toNat < (t.strip j).gov.toNat))
        ∧ (s.hub.power.clamp = true → t.hub.power.nclamp = s.hub.power.nclamp)
        ∧ (s.hub.power.clamp = false → s.hub.power.nclamp ≠ BitVec.allOnes 16 → t.hub.power.nclamp = s.hub.power.nclamp + 1) ∧ keeps t)
    ∧ (∀ since, s.hub.power.clamp = true → s.hub.power.ppwr.toNat < min s.hub.power.pcap.toNat s.hub.power.gceil.toNat →
        s.hub.power.below = some since → 2400000 ≤ (s.cycle - since).toNat → Answers .governorRelease s fun t =>
          t.hub.power.clamp = false ∧ (∀ j, t.strip j = { s.strip j with gov := 0 }) ∧ keeps t)
    ∧ ((∀ since, s.hub.power.below = some since → (s.cycle - since).toNat < 2400000) → exec .governorRelease s = .next s)
    ∧ (s.hub.power.ppwr.toNat < min s.hub.power.pcap.toNat s.hub.power.gceil.toNat →
        s.settleClock.hub.power.below = some (s.hub.power.below.getD s.cycle))
    ∧ (min s.hub.power.pcap.toNat s.hub.power.gceil.toNat ≤ s.hub.power.ppwr.toNat → s.settleClock.hub.power.below = none)
    ∧ (∀ (w : BitVec 16) (since : Word), s.tile.power.armed = true → s.tile.power.slowFrom = some since →
        2400000 ≤ (s.cycle - since).toNat → s.tile.pend.capBreach = none → s.tile.wait ≠ .load →
        exec (.capBreachDetect w) s = .next ((s.setPower { s.tile.power with armed := false, fastFrom := none }).setPend { s.tile.pend with
          capBreach := some (BitVec.ofNat 64 (w.toNat + s.tile.ctx.pgrant.toNat % 2 ^ 16 * 2 ^ 16)) }))
    ∧ (s.tile.power.state = .hold → 48000 ≤ (s.cycle - s.tile.power.since).toNat →
        (∀ a r l u, s.tile.wait = .sleep a r l u → u = none) → Answers .holdExpire s fun t =>
          t.tile.power.state = .gated ∧ t.tile.path.tcache = [] ∧ t.tile.path.l1 = [] ∧ t.tile.regs = s.tile.regs
            ∧ t.tile.front = if s.tile.front.ast = .halted ∨ s.tile.front.started = false then s.tile.front
              else { s.tile.front with ast := .asleep })
    ∧ (s.tile.power.state ≠ .hold ∨ (s.cycle - s.tile.power.since).toNat < 48000 → exec .holdExpire s = .next s)
    ∧ (s.tile.power.state = .waking → s.runsAt ≤ s.cycle.toNat →
        exec .tilePowerUp s = .next (s.setPower { s.tile.power with state := .run, since := s.cycle }))
    ∧ (1024 * 480 ≤ s.tile.power.resident → exec .energyTick s = .next ((s.setPower { s.tile.power with
          resident := s.tile.power.resident - 1024 * 480 }).setCtx { s.tile.ctx with
            energy := chargeEnergy s.tile.ctx.energy (s.tile.csr.ews.toNat % 2 ^ 32) }))
    ∧ (Answers (.railLevelReached i) s fun t =>
        let x := s.strip i
        let mine : Prop := i = s.ownStrip ∧ s.running = true
        let y := t.strip i
        t.tile = s.tile ∧ t.mem = s.mem ∧ (∀ j ≠ i, t.strip j = s.strip j)
          ∧ (mine → y.vlvl = railLevel (faster x.want (faster x.code s.codeWanted)) ∧ y.code = faster s.tile.power.code y.others)
          ∧ (¬mine → y.vlvl = railLevel (faster x.want x.code) ∧ y.code = y.others)
          ∧ y.others = if x.others.toNat ≤ x.want.toNat ∨ (railLevel x.want).toNat ≤ y.vlvl.toNat then x.want else x.others)
    ∧ (s.switching = false → s.running = true →
        s.recode.tile.power.code = if s.tile.power.code.toNat ≤ s.codeWanted.toNat
            ∨ (railLevel s.codeWanted).toNat ≤ (s.strip s.ownStrip).vlvl.toNat then s.codeWanted else s.tile.power.code))
  ∧ (∀ (e : Word) (x : Nat),
    let n := e.toNat % 2 ^ 48
    (n + x < 2 ^ 48 → (chargeEnergy e x).toNat % 2 ^ 48 = n + x ∧ (chargeEnergy e x).getLsbD 63 = e.getLsbD 63)
      ∧ (2 ^ 48 ≤ n + x → (chargeEnergy e x).toNat % 2 ^ 48 = 2 ^ 48 - 1 ∧ (chargeEnergy e x).getLsbD 63 = true))

/-! ### The front end -/

/-- R305 to R311, R318, R326, R327, Tables 15.1 to 15.6: NOTIFY, mapping and evicting queues, how packets start, are stopped and
complete, the hub watchdog, and the end of a quantum. That the handler that holds a parked context goes on with the next one at the
end of a quantum is the model's reading (log 48), and so is that a VEC of 2048 and more sends no message (log 58). -/
def Obligations.QueueAndPacketRules : Prop :=
  ∀ (s : State) (q : BitVec 10),
    let x := s.queue q
    (∀ type u k, s.opens q type u k → s.hub.fe.shoot = none →
      (u.queue q).head = x.head + 1 ∧ k ∈ (u.queue q).started ∧ u.mem = s.mem ∧ u.tile.regs = s.tile.regs
      ∧ (∀ i, packetEvent q type i → k.refusedWith x.priv ≠ 0 → exec i s = .next (u.finishWith q k.idx (k.refusedWith x.priv) 0))
      ∧ (typeMasks type = none → exec (.unassignedType q) s = .next (u.finishWith q k.idx 0x41 0)))
    ∧ (∀ s' c type i, s.startable x = some none → s.visited x = true → s.hub.fe.shoot = none → s.nextPacket x = (s', .error c) →
      packetEvent q type i →
      exec i s = .next ((s'.begin_ x { idx := x.head, words := [], since := s.cycle, phase := .running, ctx := 0, blocked := none,
                                        met := false }).finishWith q x.head c x.nextPtr))
    ∧ (∀ k status value, k ∈ x.started → k.open_ = true → (s.finishWith q k.idx status value).hasEnded q k status value)
    ∧ (∀ tail, s.hub.boot.mini = false →
      let others := s.hub.fe.kept.filter fun y => y.1 != q
      let u := s.setFe { s.hub.fe with kept := others }
      let y := { x with tail := tail }
      let waits := s.wakeDown = true ∨ (s.hub.fe.fbact = true ∧ x.slot = none)
      (waits → exec (.notify q tail) s = .next (s.setFe { s.hub.fe with kept := others ++ [(q, tail)] }))
      ∧ (¬waits → tail = x.tail → exec (.notify q tail) s = .next u)
      ∧ (¬waits → tail ≠ x.tail → x.err = 0 → x.slot.isSome = true → exec (.notify q tail) s = .next (u.putQueue
        (if 2 ^ y.rlogn < (y.tail - y.head).toNat then { y with err := 0x40 } else y)))
      ∧ (∀ s' d, ¬waits → tail ≠ x.tail → x.err = 0 → x.slot = none → u.readDescriptor q = (s', some d) →
        let z := { y with desc := d, head := (d.getD 5 0).setWidth 32, ctail := (d.getD 5 0).extractLsb' 32 32 }
        s'.descriptorOk z = true → z.en = true → z.tooFar = false → Answers (.notify q tail) s fun t => t = (s'.putQueue z).enwake q ∧ q ∈ t.hub.fe.wake))
    ∧ (∀ slot rest s' d, s.hub.fe.fbact = false → s.wakeDown = false → s.wakeHead = some q → s.freeSlots = slot :: rest →
      (s.unwake q).readDescriptor q = (s', some d) →
      let z := { x with desc := d, slot := some slot, head := (d.getD 5 0).setWidth 32, ctail := (d.getD 5 0).extractLsb' 32 32
                        started := [], last := s'.hub.fe.clock }
      s'.descriptorOk { x with desc := d } = true → z.en = true → z.tooFar = false → exec .queueMap s = .next (s'.putQueue z))
    ∧ (s.hub.fe.fbact = false → s.wakeDown = false → s.hub.fe.wake ≠ [] → s.freeSlots = [] → s.victim = some x → x.q = q →
      x.started = [] → x.head = x.tail → Answers .queueEvict s fun t => t = s.unmap x ∧ (t.queue q).slot = none)
    ∧ (∀ type u k, s.starts q type u k →
      let done := if (k.word 1).toNat % 8 ≠ 0 then u.finishWith q k.idx 0x03 (k.word 1) else u
      (type = 4 → exec (.signal q) s = .next done) ∧ (type = 5 → exec (.wait q) s = .next done))
    ∧ (∀ k rest a leaf, x.started = k :: rest → k.type = 4 → k.open_ = true → k.blocked = none →
      s.hubAt x.space .atomic (k.word 1) 8 8 = .mem a leaf → s.hub.errors.bad = [] →
      let v := if (k.word 3).getLsbD 0 then (s.mem.readNat a 8 + (k.word 2).toNat) % 2 ^ 64 else (k.word 2).toNat
      Answers (.signalPerform q) s fun t => s.storesOnly t a 8 v ∧ t.hasEnded q k 0 0)
    ∧ (∀ k, x.waiting = some k →
      (k.met = true → exec (.waitSatisfied q) s = .next (s.finishWith q k.idx 0 0))
      ∧ (∀ s' l, k.met = false → s.hubRead x.space (k.word 1) 8 = (s', .ok l) →
        let a := bytesNat l
        let b := (k.word 2).toNat
        let c := (k.word 3).toNat % 4
        let holds := (c = 0 ∧ a = b) ∨ (c = 1 ∧ a ≠ b) ∨ (c = 2 ∧ b ≤ a) ∨ (c = 3 ∧ a < b)
        (holds → exec (.waitSatisfied q) s = .next (s'.finishWith q k.idx 0 0)) ∧ (¬holds → exec (.waitSatisfied q) s = .next s'))
      ∧ (let tmo := (k.word 4).toNat % 2 ^ 32
        (tmo ≠ 0 → tmo * 2400 ≤ (s.cycle - k.since).toNat → exec (.waitTimeout q) s = .next (s.finishWith q k.idx 0x4A 0))
        ∧ (tmo = 0 ∨ (s.cycle - k.since).toNat < tmo * 2400 → exec (.waitTimeout q) s = .next s)))
    ∧ (∀ idx k status coord value epc, s.packetsDown = false → (∀ y ∈ s.hub.fe.queues, y.stopping = false) → x.pkt idx = some k →
      k.phase = .finished status coord value epc → s.ctxOf k.ctx = none →
      (k.cmpl = false → status = 0 → Answers (.packetComplete q idx) s fun t => (t.queue q).ctail = x.ctail
        ∧ (t.queue q).started = x.started.filter (fun k => k.idx != idx) ∧ t.mem = s.mem)
      ∧ (∀ l, (k.cmpl = true ∨ status ≠ 0) → s.hub.errors.bad = [] → l.Nodup →
        s.hubRange x.space .store (hubAdd (x.word 2) (32 * (x.ctail.toNat % 2 ^ x.clogn))) 32 = .ok l →
        Answers (.packetComplete q idx) s fun t => (t.queue q).ctail = x.ctail + 1
          ∧ (t.queue q).started = x.started.filter (fun k => k.idx != idx)
          ∧ l.map t.mem.read = bytesOf (k.record status coord value epc) ∧ (∀ a ∉ l, t.mem.read a = s.mem.read a)
          ∧ let vec := (x.word 1).extractLsb' 32 16
            let sends : Prop := k.cmpl = true ∧ k.wantsIrq = true ∧ x.irq = true ∧ vec.toNat < 2048
            (sends → t.hub.fe.msix = s.hub.fe.msix ++ [vec]) ∧ (¬sends → t.hub.fe.msix = s.hub.fe.msix)))
    ∧ ((s.hub.boot.image = none ∨ s.hub.boot.bootok = true) →
      exec .hubWatchdogExpire s = .next (s.setFe { s.hub.fe with fbact := true, visit := 0 }))
    ∧ (s.hub.boot.image.isSome = true → s.hub.boot.bootok = false → exec .hubWatchdogExpire s = .next (s.failStart 0x08))
    ∧ (Answers .buckRebootDone s fun t => t.hub.fe.fbact = false ∧ t.tile.regs = s.tile.regs ∧ (s.wakeDown = false → t.hub.fe.kept = []))
    ∧ (∀ silent, s.hub.fe.fbact = false →
      exec (.kidHeartbeatCheck silent) s = .next (s.setFe { s.hub.fe with kidDown := s.hub.fe.kidDown ||| silent }))
    ∧ (∀ core : BitVec 3, Answers (.kidCoreRestarted core) s fun t => t.hub.fe.kidDown = s.hub.fe.kidDown &&& ~~~((1 : BitVec 6) <<< core.toNat)
        ∧ (t.wakeDown = false → t.hub.fe.fbact = false → t.hub.fe.kept = []) ∧ t.tile.regs = s.tile.regs)
    ∧ (∀ c, s.hub.fe.fbact = false → s.switching = false → ¬(s.tile.res.ctx = 0 ∧ s.tile.wait = .idle ∧ s.tile.front.ast = .halted) →
      s.quantumOver = true → s.nextCtx = some c →
      let u := (s.setCsr { s.tile.csr with escr := c.wp }).setRes { s.tile.res with quantum := s.cycle }
      let parked : Prop := ∃ d, s.ctxOf s.tile.res.ctx = some d ∧ d.parked.isSome = true
      (parked ∧ s.sup = true → exec .quantumEnd s = .next (u.setCsr { u.tile.csr with ewp := c.wp }))
      ∧ (¬(parked ∧ s.sup = true) →
        exec .quantumEnd s = .next (u.setPend { s.tile.pend with preempt := some (s.tile.pend.preempt.getD 0) })))
    ∧ (s.quantumOver = false → s.tile.res.ctx ≠ 0 → exec .quantumEnd s = .next s)
    ∧ (s.hub.fe.fbact = true → exec .quantumEnd s = .next s)
    ∧ (s.hub.fe.fbact = false → s.switching = false → s.tile.res.ctx = 0 → s.tile.wait = .idle → s.tile.front.ast = .halted →
      exec .quantumEnd s = .next s.takeNext)

/-- R290, R300, R312 to R321, Tables 15.5, 15.7: what the packets LAUNCH, TILE, COPY, CHECKPOINT, SHOOT, KILL, PFR and QSTOP do
once they have started, and how a LAUNCH is admitted. That a CHECKPOINT's context is saved by the tile alone, and waits there for its packet, is
log 56, and that the registers of a tile that holds no context are not first written to its workspace is log 53. -/
def Obligations.PacketOperations : Prop :=
  ∀ (s u : State) (q : BitVec 10) (k : Pkt),
    let x := u.queue q
    let ended (t : State) (n : Nat) (status : BitVec 8) (value epc : Word) (coord : BitVec 24) : Prop :=
      ∃ c', t.ctxOf n = some c' ∧ c'.ended = some (status, value, epc, coord)
    (s.starts q 1 u k → ∀ v rcbs, u.rcbArray x.space (k.word 6) = (v, rcbs) →
      (v.launchStatus x k rcbs ≠ 0 → exec (.launch q) s = .next (v.finishWith q k.idx (v.launchStatus x k rcbs) 0))
      ∧ (v.launchStatus x k rcbs = 0 → Answers (.launch q) s fun t => { k with phase := .waiting } ∈ (t.queue q).started
        ∧ t.hub.fe.launches = u.hub.fe.launches ++ [(q, k.idx, rcbs.getD [])]))
    ∧ (∀ rcbs r, s.firstLaunch = some (q, k.idx, rcbs) → (s.queue q).pkt k.idx = some k → rcbs.head? = some r →
      let tiles := s.rectangle r
      let space := (s.queue q).space
      let n := s.hub.fe.nextCtx
      (s.admissible k tiles = false → exec .launchAdmit s = .next s)
      ∧ (∀ l1 l2, s.admissible k tiles = true → k.placesOk = true → s.hub.errors.bad = [] →
        s.hubRange space .load (k.word 1) k.codeLen = .ok l1 → s.hubRange space .load (k.word 3) k.dataLen = .ok l2 →
        Answers .launchAdmit s fun t =>
          (∃ c ∈ t.hub.fe.ctxs, c.id = n ∧ c.queue = q ∧ c.lidx = k.idx ∧ c.tiles = tiles ∧ c.det = k.isDet ∧ c.ended = none
            ∧ c.idle = (if k.isDet then [] else tiles))
          ∧ t.hub.fe.nextCtx = n + 1 ∧ t.hub.fe.launches = s.hub.fe.launches.erase (q, k.idx, rcbs)
          ∧ (∀ tile ∈ tiles, ∀ i < k.codeLen, t.mem.read (coordBase tile + k.codeDst + i) = s.mem.read (l1.getD i 0))
          ∧ (∀ tile ∈ tiles, ∀ i < k.dataLen, t.mem.read (coordBase tile + k.dataDst + i) = s.mem.read (l2.getD i 0))
          ∧ (s.own ∈ tiles → s.tile.res.ctx = 0 → s.tile.wait = .idle →
            t.tile.res.ctx = n ∧ t.tile.csr.status = (if k.isDet then 0x62 else 0x06) ∧ t.tile.csr.wp.toNat = k.wsOff
              ∧ (∀ g, t.g g = 0) ∧ (∀ v, t.v v = 0) ∧ t.tile.front.ast = (if s.tile.power.state = .gated then .asleep else .wait) ∧ t.tile.front.aq = []
              ∧ t.tile.ctx.pgrant = ((effectiveRcb rcbs 2 s.own).map Rcb.pgrant).getD 0 ∧ t.tile.ctx.mallow = 8)))
    ∧ (s.starts q 2 u k → ∀ u1 u2 u3 rcbs block code, (k.word 2).toNat % 2 ^ 16 ≠ 0 → (k.word 1).toNat % 8 = 0 →
      (k.word 3).toNat % 64 = 0 → (k.word 7).toNat % 32 = 0 → u.rcbArray x.space (k.word 6) = (u1, rcbs) →
      tileRcbOk x (rcbs.getD []) = true → u1.hubRead x.space (k.word 3) 128 = (u2, .ok block) → blockOk (dwordsOf 16 block) = true →
      u2.hubRead x.space (k.word 1) (8 * ((k.word 2).toNat % 2 ^ 16)) = (u3, .ok code) →
      let c := u3.tileCtx x k (rcbs.getD []) (dwordsOf 16 block) (dwordsOf ((k.word 2).toNat % 2 ^ 16) code)
      let v := u3.updPkt q k.idx fun k => { k with ctx := c.id }
      exec (.tile q) s = .next ((v.setFe { v.hub.fe with nextCtx := c.id + 1, ctxs := v.hub.fe.ctxs ++ [c] }).goOn c.id))
    ∧ (∀ n c r, s.ctxOf n = some c → c.run = some r → c.ended = none → r.insns = [] →
      ended (s.goOn n) n (if r.dropped then 0x15 else 0) 0 0 0)
    ∧ (s.starts q 3 u k →
      let n := (k.word 3).toNat % 2 ^ 40
      (∀ srcs dsts : List Nat, u.hubRange x.space .load (k.word 2) n = .ok srcs → u.hubRange x.space .store (k.word 1) n = .ok dsts →
        (∀ a ∈ srcs, a ∉ dsts) → dsts.Nodup → u.hub.errors.bad = [] → u.checkpointing dsts = false →
        Answers (.copy q) s fun t => dsts.map t.mem.read = srcs.map s.mem.read ∧ (∀ a ∉ dsts, t.mem.read a = s.mem.read a)
          ∧ t.hasEnded q k 0 0 ∧ t.tile.regs = s.tile.regs)
      ∧ (∀ c v, u.hubRange x.space .load (k.word 2) n = .error (some (c, v)) → exec (.copy q) s = .next (u.finishWith q k.idx c v))
      ∧ (∀ srcs : List Nat, u.hubRange x.space .load (k.word 2) n = .ok srcs → u.hubRange x.space .store (k.word 1) n = .error none →
        Answers (.copy q) s fun t => t.mem = s.mem ∧ { k with blocked := u.blockerOf x.space (k.word 1) n } ∈ (t.queue q).started))
    ∧ (s.starts q 6 u k →
      (u.ctxNamed k = none → exec (.checkpoint q) s = .next (u.finishWith q k.idx 0x40 0))
      ∧ (∀ c, u.ctxNamed k = some c → u.ctxOf c.id = some c → Answers (.checkpoint q) s fun t =>
        (∃ c', t.ctxOf c.id = some c' ∧ c'.parked.isSome = true ∧ c'.ended = none)
          ∧ (c.det = false → u.holds c.id = true → t.tile.pend.preempt.isSome = true) ∧ t.mem = s.mem ∧ t.tile.regs = s.tile.regs))
    ∧ (s.starts q 0x10 u k → s.hub.fe.shoot = none → exec (.shoot q) s = .next (u.setFe { u.hub.fe with shoot := some {
        ctxid := (k.word 1).extractLsb' 0 12, all := (k.word 1).getLsbD 12, base := k.word 2, count := (k.word 3).extractLsb' 0 32
        acks := 0, queue := q, idx := k.idx } }))
    ∧ (∀ (x : Shootdown) (die : BitVec 2), s.hub.fe.shoot = some x → s.hub.fe.fbact = false →
      let y := { x with acks := x.acks ||| ((1 : BitVec 4) <<< die.toNat) }
      (s.tile.csr.pcoord.extractLsb' 10 2 ≠ die →
        (y.acks ≠ 15 → exec (.shootdownDieAck die) s = .next (s.setFe { s.hub.fe with shoot := some y }))
        ∧ (y.acks = 15 → exec (.shootdownDieAck die) s = .next (((s.setFe { s.hub.fe with shoot := none }).freeStalls x).finishWith x.queue x.idx 0 0)))
      ∧ (s.tile.csr.pcoord.extractLsb' 10 2 = die → s.shootBusy x = false → Answers (.shootdownDieAck die) s fun t =>
        (∀ e ∈ t.tile.path.tcache, x.covers e = false) ∧ (∀ e ∈ t.tile.path.pinned, x.covers e = false)
          ∧ t.hub.fe.shoot = (if y.acks = 15 then none else some y) ∧ t.tile.regs = s.tile.regs))
    ∧ (s.starts q 0x11 u k →
      (u.ctxNamed k = none → exec (.kill q) s = .next (u.finishWith q k.idx 0x40 0))
      ∧ (∀ c, u.ctxNamed k = some c → u.ctxOf c.id = some c → c.saving = true → Answers (.kill q) s fun t => t.hasEnded q k 0 0
        ∧ t.ctxOf c.id = some { c with doomed := some (c.doomed.getD (0x46, 0, 0, 0)) } ∧ t.tile = u.tile)
      ∧ (∀ c, u.ctxNamed k = some c → u.ctxOf c.id = some c → c.saving = false → Answers (.kill q) s fun t =>
        ended t c.id 0x46 0 0 0 ∧ t.hasEnded q k 0 0 ∧ ∀ m ≠ c.id, t.ctxOf m = u.ctxOf m))
    ∧ (s.starts q 0x12 u k →
      (u.ctxNamed k = none → exec (.pfr q) s = .next (u.finishWith q k.idx 0x40 0))
      ∧ (∀ c, u.ctxNamed k = some c → u.ctxOf c.id = some c →
        (c.parked = none → exec (.pfr q) s = .next (u.finishWith q k.idx 0x40 0))
        ∧ (∀ value epc coord, c.parked = some (value, epc, coord) → Answers (.pfr q) s fun t => t.hasEnded q k 0 0
          ∧ ((k.word 3).getLsbD 0 = false → ∃ c', t.ctxOf c.id = some c' ∧ c'.parked = none ∧ c'.ended = none)
          ∧ ((k.word 3).getLsbD 0 = true → c.saving = false → ended t c.id 0x05 value epc coord))))
    ∧ (s.starts q 0x13 u k →
      let stopped : BitVec 10 := (k.word 1).extractLsb' 0 10
      let y := u.queue stopped
      (y.slot = none → Answers (.qstop q) s fun t => (t.queue stopped).err = 0 ∧ (t.queue stopped).slot = none)
      ∧ (y.slot.isSome = true → (∃ z ∈ y.started, z.stops stopped = false) →
        exec (.qstop q) s = .next ((u.unwake stopped).putQueue { y with stopping := true })))

/-! ### Sweut -/

/-- R331, R338 to R349: how stations rendezvous, start, accept or resend groups, and end a collective; R342: the counts of the
planes add up to the sum of the codes. When a station reads SRC is the model's free choice (log 1), and what a station leaves that
withdraws from a complete rendezvous is the model's (log 36). -/
def Obligations.SweutCollectiveRules : Prop :=
  (∀ (s : State) (a station : BitVec 4) (group : BitVec 12) (reason : BitVec 4) (f : JoinFields),
    let x := s.att a
    let found := x.groups.find? fun r => r.first.group == group && !r.complete
    let others := x.groups.filter fun r => r.first.group != group || r.complete
    let size (m : BitVec 16) : Nat := ((List.range 16).filter m.getLsbD).length
    let rejected (i : Instr) (r : Rendezvous) (joined : BitVec 16) (why : BitVec 4) : Prop :=
      Answers i s fun t => (t.att a).groups = x.groups.filter (fun y => y != r) ∧ t.tile = s.tile ∧ t.mem = s.mem
        ∧ (joined.getLsbD x.stn.toNat = false → (t.att a).coll = x.coll)
        ∧ (joined.getLsbD x.stn.toNat = true → ∀ c, s.joinedFor a group = some c →
          ∃ col, (t.att a).coll = some col ∧ col.ended = some why ∧ col.members = 0)
    (∀ c, station = x.stn → x.up = true → x.leads = false → s.swCmd a = some c → c.phase = .queued → x.coll = none →
      joinFields c.desc = f →
      let v := s.setSwPhase c .joined
      ∃ w, (w = v ∨ ∃ v' src, v.sourceOf c = (v', src) ∧ w = v'.setAtt a { v'.att a with early := some src })
        ∧ exec (.join a station f) s = .next (w.postFlit a 0x10 x.lead))
    ∧ (station ≠ x.stn → x.up = true → x.leads = true → f.group = group →
      (found = none → exec (.join a station f) s = .next (s.setAtt a { x with
        groups := others ++ [{ first := f, joined := (1 : BitVec 16) <<< station.toNat, since := s.cycle, complete := f.writers == 1 }] }))
      ∧ (∀ r, found = some r →
        let joined := r.joined ||| ((1 : BitVec 16) <<< station.toNat)
        (r.first = f → exec (.join a station f) s = .next (s.setAtt a { x with
          groups := others ++ [{ r with joined := joined, complete := size joined == f.writers.toNat }] }))
        ∧ (r.first ≠ f → rejected (.join a station f) r joined 5)))
    ∧ (x.leads = false → exec (.reject a group reason) s = .next (s.endJoined a group reason))
    ∧ (x.leads = true → exec (.reject a group reason) s = .next s)
    ∧ (∀ c, s.joinedFor a group = some c →
      ∃ col, ((s.endJoined a group reason).att a).coll = some col ∧ col.ended = some reason ∧ col.members = 0)
    ∧ (let late (r : Rendezvous) : Bool := r.first.group == group && decide (2400 * max 1 x.jtmo.toNat ≤ (s.cycle - r.since).toNat)
      (∀ r, x.leads = true → x.groups.find? late = some r → rejected (.joinTimeout a group) r r.joined 6)
      ∧ (x.leads = false ∨ x.groups.find? late = none → exec (.joinTimeout a group) s = .next s))
    ∧ (∀ r, x.leads = true → station ≠ x.stn →
      x.groups.find? (fun r => r.first.group == group && r.joined.getLsbD station.toNat) = some r →
      let j := r.joined &&& ~~~((1 : BitVec 16) <<< station.toNat)
      let rest := x.groups.filter fun y => y != r
      (rest.find? fun y => y.first.group == group && !y.complete) = none →
      exec (.withdraw a group station) s = .next ((s.setAtt a { x with
        groups := rest ++ (if j = 0 then [] else [{ r with joined := j, complete := false }]) }).postFlit a 0x14 station))
    ∧ (x.leads = false → station = x.stn → (s.joinedFor a group).isSome = true → x.withdrawing = none →
      let v := s.postFlit a 0x13 x.lead
      exec (.withdraw a group station) s = .next (v.setAtt a { v.att a with withdrawing := some group }))
    ∧ (∀ c, x.withdrawing = some group → s.joinedFor a group = some c →
      ((x.early.bind Prod.snd = none) → (c.tile = false ∨ c.owner ≠ 0) →
        exec (.withdrawn a group) s = .next ((s.setSwPhase c .queued).setAtt a { x with early := none, withdrawing := none }))
      ∧ (∀ src cause, x.early = some (src, some cause) → Answers (.withdrawn a group) s fun t => t.tile = s.tile ∧ t.mem = s.mem
        ∧ ∃ col, (t.att a).coll = some col ∧ col.ended = some 0 ∧ col.srcFail = some cause ∧ col.members = 0))
    ∧ (∀ (members : BitVec 16) (frame : BitVec 48),
      let kept := x.groups.filter fun r => r.first.group != group || !r.complete
      let ready := x.leads = false ∨ ((∃ r, x.groups.find? (fun r => r.first.group == group && r.complete) = some r ∧ r.joined = members)
        ∧ x.busy = [] ∧ frame.toNat = ((s.frame a).toNat + 2 * x.acklag.toNat + 15) / 8 * 8 % 2 ^ 48)
      (x.up = false ∨ frame.toNat % 8 ≠ 0 ∨ ¬ready → exec (.start a group members frame) s = .next s)
      ∧ (∀ c, x.up = true → frame.toNat % 8 = 0 → ready → s.joinedFor a group = some c → members.getLsbD x.stn.toNat = true →
        let g := joinFields c.desc
        let u := if x.leads then s.postFlit a 0x11 15 else s
        let v := u.setAtt a { u.att a with groups := kept, busy := x.busy ++ [(group, frame)] }
        Answers (.start a group members frame) s fun t => ∃ col, (t.att a).coll = some col ∧ col.fields = g ∧ col.members = members
          ∧ col.frame = frame ∧ col.begun = false ∧ col.ended = none ∧ col.pending = g.groups g.isBlock
          ∧ (∀ l fail, x.early = some (l, fail) → col.src = l ∧ col.srcFail = fail ∧ t.mem = s.mem)
          ∧ (∀ w l fail, x.early = none → v.sourceOf c = (w, (l, fail)) → col.src = l ∧ col.srcFail = fail ∧ t.mem = w.mem)
          ∧ col.dark = col.srcFail.isSome ∧ (t.att a).busy = x.busy ++ [(group, frame)] ∧ (t.att a).groups = kept)))
  ∧ (∀ (s : State) (a : BitVec 4) (w : BitVec 3) (g slot : Nat) (lit : Bool) (counts : List (List Nat))
      (ownReads : List (List (Option Nat))) (c : Collective),
    let x := s.busNow a
    let now := s.frame a
    let r := c.readGroup g counts ownReads
    let failed : Bool := lit || r.bad x.wlim.toNat c.fields.writers.toNat
    let n := (assocGet g c.fails).getD 0 + 1
    x.coll = some c → c.ended = none → c.nextField = some (slot, w, g) →
    (c.age now < slotTime (slot + 1) / 64 → exec (.acknowledgementField a w g lit counts ownReads) s = .next (s.setAtt a x))
    ∧ (slotTime (slot + 1) / 64 ≤ c.age now →
      (failed = true → Answers (.acknowledgementField a w g lit counts ownReads) s fun t => t.mem = s.mem ∧ t.tile = s.tile
        ∧ ∃ c', (t.att a).coll = some c' ∧ assocGet g c'.fails = some n ∧ c'.unsent = c.unsent
          ∧ (∀ r l, (c.lane w).batches = (slot, g :: r) :: l → (r = [] → g ∈ c'.resend) ∧ (r ≠ [] → g ∈ (c'.lane w).late))
          ∧ c'.ended = (if 8 ≤ n then some 7 else if c'.stuck now then some 8 else none)
          ∧ (3 ≤ c.runs.get w.toFin + 1 → c'.marked.getLsbD w.toNat = true
            ∧ (c'.ended = none → ((t.att a).waves.get w.toFin).state = 1)))
      ∧ (∀ s', failed = false → c.exponent = false → c.srcFail = none → c.tile = false → c.out = [] → c.blocked = none →
        (s.setAtt a x).writeResults (c.results g r) = (s', [], none) →
        Answers (.acknowledgementField a w g lit counts ownReads) s fun t =>
          t.mem = s'.mem ∧ ∃ c', (t.att a).coll = some c' ∧ c'.unsent = c.unsent ∧ c'.out = []
            ∧ (∀ r l, (c.lane w).batches = (slot, g :: r) :: l → (r ≠ [] → c'.resend = c.resend)
              ∧ (r = [] → ∀ h, h ∈ c'.resend ↔ h ∈ c.resend ∨ h ∈ (c.lane w).late))
            ∧ c'.runs.get w.toFin = 0
            ∧ (c'.pending = [] → (∀ v : BitVec 3, (c'.lane v).batches = []) → c'.ended = some 0)
            ∧ (c'.pending ≠ [] → c'.ended = if c'.stuck now then some 8 else none))))
  ∧ (∀ (s : State) (a : BitVec 4) (c : Collective) (cmd : SwCmd) (reason : BitVec 4),
    let x := s.busNow a
    x.coll = some c → (s.setAtt a x).collCmd a = some cmd → c.tile = false → c.ended = some reason → c.out = [] → c.blocked = none →
    s.tile.eng.held.get 1 = none → (s.tile.eng.res.get 1).length < 8 →
    let status : BitVec 8 := c.srcFail.getD (if reason = 0 then 0 else 0x12)
    Answers (.collectiveEnd a) s fun t => (t.att a).coll = none
      ∧ t.tile.eng.fifo1 = s.tile.eng.fifo1.filter (fun y => y.order != cmd.order)
      ∧ t.tile.eng.res.get 1 = s.tile.eng.res.get 1 ++ [(1 : BitVec 1) ++ status.extractLsb' 0 7 ++ (0 : BitVec 24) ++ descTag cmd.desc]
      ∧ (t.att a).busy = x.busy
      ∧ (if reason = 0 ∧ c.srcFail = none then c.members ≠ 0 → (t.att a).done = satInc x.done ∧ (t.att a).nfail = x.nfail
         else if reason = 0 ∧ c.members = 0 then (t.att a).done = x.done ∧ (t.att a).nfail = x.nfail
         else (t.att a).done = x.done ∧ (t.att a).nfail = satInc16 x.nfail ∧ (t.att a).reason = reason ∧ (t.att a).lfGroup = c.fields.group)
      ∧ t.tile.regs = s.tile.regs ∧ t.mem = s.mem)
  ∧ (∀ (s : State) (a : BitVec 4), let x := s.busNow a
      (∀ b r, x.coll = none → x.busy = b :: r → (s.frame a - b.2).toNat < 2 ^ 47 →
        Answers (.collectiveEnd a) s fun t => (t.att a).busy = r ∧ (b.2, s.frame a) ∈ (t.att a).past ∧ (t.att a).coll = none
          ∧ t.tile = s.tile ∧ t.mem = s.mem)
      ∧ (x.coll = none → x.busy = [] → exec (.collectiveEnd a) s = .next (s.setAtt a x)))
  ∧ (∀ (n : Nat) (codes : List (BitVec n)), 0 < n →
      sumOf n ((List.range n).map fun k => (codes.filter fun c => c.getLsbD k).length) = (codes.map BitVec.toInt).sum)

/-- R332, R335 to R337, R346, R350, Tables 16.1, 16.3: flits, retries, wavelengths, training and the end of a segment. The
frame at which a retrained wavelength returns is the model's free choice behind ACKLAG + 8 frames (log 6). -/
def Obligations.SweutLinkRules : Prop :=
  ∀ (s : State) (a : BitVec 4) (w : BitVec 3),
    let x := s.att a
    let y := s.attNow a
    let now := s.frame a
    let same (t : State) : Prop := t.tile = s.tile ∧ t.mem = s.mem ∧ ∀ b ≠ a, t.att b = s.att b
    (∀ (src : BitVec 4) (errors : List Nat) (wait : BitVec 48) (payload : List Byte),
      let part := (y.streams.get src.toFin).part
      (y.up = false ∨ src = y.stn ∨ part.length < 48 → exec (.flit a src errors wait payload) s = .next (s.setAtt a y))
      ∧ (y.up = true → src ≠ y.stn → 48 ≤ part.length →
        (∀ i : Fin 8, (y.waves.get i).bits + 384 < 2 ^ 24 ∧ (y.waves.get i).bere.toNat < y.berth.toNat) →
        let fixed := fecCorrect ((part.take 48).map Prod.snd)
        Answers (.flit a src errors wait payload) s fun t => same t ∧ ((t.att a).streams.get src.toFin).part = part.drop 48 ∧ (t.att a).actw = y.actw
          ∧ (fixed = none → (t.att a).accepted = y.accepted ∧ (t.att a).expect = y.expect ∧ (t.att a).expectAll = y.expectAll
            ∧ (src, false, y.expect.get src.toFin) ∈ (t.att a).retries)
          ∧ (∀ l, fixed = some l →
            let kind := (l.getD 0 0).toNat
            let dst := (l.getD 1 0).toNat % 16
            let seq := l.getD 2 0
            let len := (l.getD 3 0).toNat
            let all : Bool := dst == 15 && decide (0x11 ≤ kind ∧ kind ≤ 0x19)
            let known := kind ∈ flitKinds ∧ len ≤ 32 ∧ (all = true ∨ dst = y.stn.toNat)
            let due := if all then y.expectAll.get src.toFin else y.expect.get src.toFin
            (¬known → (t.att a).accepted = y.accepted ∧ (t.att a).expect = y.expect ∧ (t.att a).expectAll = y.expectAll)
            ∧ (known → seq ≠ due → (t.att a).accepted = y.accepted ∧ (t.att a).expect = y.expect ∧ (t.att a).expectAll = y.expectAll
              ∧ ((seq - due).toNat < 128 → (src, all, due) ∈ (t.att a).retries)
              ∧ (128 ≤ (seq - due).toNat → (t.att a).retries = y.retries))
            ∧ (known → seq = due → (t.att a).accepted = y.accepted ++ [l.take (4 + len)]
              ∧ (if all then (t.att a).expectAll.get src.toFin else (t.att a).expect.get src.toFin) = seq + 1
              ∧ (if all then (t.att a).expect = y.expect else (t.att a).expectAll = y.expectAll)
              ∧ ∀ r ∈ (t.att a).retries, ¬(r.1 = src ∧ r.2.1 = all)))))
    ∧ (∀ (station : BitVec 4) (seq : BitVec 8),
      let again := (x.sent.filter fun l => (l.getD 1 0).extractLsb' 0 4 == station).dropWhile fun l => l.getD 2 0 != seq
      let part := (x.streams.get x.stn.toFin).part
      let half := if part = [] ∨ fill part = true then 0 else 1
      Answers (.retryFlit a station seq) s fun t => same t ∧ (t.att a).accepted = x.accepted ∧ (t.att a).sendSeq = x.sendSeq
        ∧ (t.att a).sending = x.sending.take half ++ again ++ x.sending.drop half
        ∧ (t.att a).sent = x.sent.filter fun l => !again.contains l)
    ∧ (exec (.swlfClr a) s = .next (s.setAtt a { x with nfail := 0, lfGroup := 0, reason := 0 }))
    ∧ (∀ frame : BitVec 48, y.changes = [] →
      let rest := y.actw &&& ~~~((1 : BitVec 8) <<< w.toNat)
      let come := (now - frame).toNat < 2 ^ 47
      (y.actw.getLsbD w.toNat = true → rest ≠ 0 → Answers (.retire a w frame) s fun t => same t ∧ (t.att a).up = y.up
        ∧ (come → (t.att a).actw = rest ∧ (t.att a).changes = [] ∧ ((t.att a).waves.get w.toFin).state = 2)
        ∧ (¬come → (t.att a).actw = y.actw ∧ (t.att a).changes = [(w, false, frame)] ∧ (t.att a).waves = y.waves)
        ∧ ∀ c, y.coll = some c → (t.att a).coll = some { c with retired := c.retired ++ [(w, frame)] })
      ∧ (y.actw.getLsbD w.toNat = true → rest = 0 → exec (.retire a w frame) s = .next (s.segmentDown a))
      ∧ (y.actw.getLsbD w.toNat = false → exec (.retire a w frame) s = .next (s.setAtt a y))
      ∧ (y.up = true → y.actw.getLsbD w.toNat = false → Answers (.reinstate a ⟨w, frame⟩) s fun t => same t ∧ (t.att a).coll = y.coll
        ∧ (come → (t.att a).actw = y.actw ||| ((1 : BitVec 8) <<< w.toNat) ∧ (t.att a).changes = []
          ∧ ((t.att a).waves.get w.toFin).state = 0)
        ∧ (¬come → (t.att a).actw = y.actw ∧ (t.att a).changes = [(w, true, frame)] ∧ (t.att a).waves = y.waves))
      ∧ (y.up = false ∨ y.actw.getLsbD w.toNat = true → exec (.reinstate a ⟨w, frame⟩) s = .next (s.setAtt a y)))
    ∧ (∀ (delay : BitVec 8) (wlim acklag : BitVec 4),
      let v := y.waves.get w.toFin
      (y.up = false ∨ wlim = 0 ∨ acklag.toNat < 4 → exec (.retrainDone a ⟨w, delay, wlim, acklag⟩) s = .next (s.setAtt a y))
      ∧ (y.up = true → wlim ≠ 0 → 4 ≤ acklag.toNat → Answers (.retrainDone a ⟨w, delay, wlim, acklag⟩) s fun t =>
        let v' := (t.att a).waves.get w.toFin
        same t ∧ v'.retr = satInc16 v.retr ∧ v'.ldly = delay ∧ v'.trained = (v.state == 1)
          ∧ v'.state = (if v.state = 2 ∧ y.actw.getLsbD w.toNat = true then 0 else v.state) ∧ (t.att a).actw = y.actw
          ∧ ((∀ b ∈ y.busy, 2 ^ 47 ≤ (now - b.2).toNat) → (t.att a).wlim = wlim ∧ (t.att a).acklag = acklag ∧ (t.att a).newLim = none)
          ∧ ((∃ b ∈ y.busy, (now - b.2).toNat < 2 ^ 47) →
            (t.att a).wlim = y.wlim ∧ (t.att a).acklag = y.acklag ∧ (t.att a).newLim = some (wlim, acklag))
          ∧ (y.actw.getLsbD w.toNat = true ∨ (∃ c ∈ y.changes, c.1 = w) → (t.att a).changes = y.changes ∧ (t.att a).sending = y.sending)
          ∧ (y.actw.getLsbD w.toNat = false → (∀ c ∈ y.changes, c.1 ≠ w) →
            (∃ k : BitVec 48, k.toNat < 64
              ∧ (t.att a).changes = y.changes ++ [(w, true, now + BitVec.ofNat 48 ((t.att a).acklag.toNat + 8) + k)])
            ∧ ∃ l, (t.att a).sending = y.sending ++ [l] ∧ l.getD 0 0 = 0x19 ∧ (l.getD 1 0).extractLsb' 0 4 = 15)))
    ∧ (∀ (stn nstn lead : BitVec 4) (actw : BitVec 8) (wlim acklag : BitVec 4) (delays : List (BitVec 8)),
      (wlim = 0 ∨ acklag.toNat < 4 ∨ actw = 0 ∨ nstn = 0 ∨ stn.toNat < lead.toNat →
        exec (.linkTraining a stn nstn lead actw wlim acklag delays) s = .next s)
      ∧ (wlim ≠ 0 → 4 ≤ acklag.toNat → actw ≠ 0 → nstn ≠ 0 → lead.toNat ≤ stn.toNat →
        Answers (.linkTraining a stn nstn lead actw wlim acklag delays) s fun t => same t ∧ (t.att a).up = true ∧ (t.att a).stn = stn
          ∧ (t.att a).nstn = nstn ∧ (t.att a).lead = lead ∧ (t.att a).actw = actw ∧ (t.att a).changes = []
          ∧ (∀ i : Fin 8, ((t.att a).waves.get i).state = (if actw.getLsbD i.val then 0 else 3)
            ∧ (i.val < delays.length → ((t.att a).waves.get i).ldly = delays.getD i.val 0))
          ∧ ((x.up = true ∧ ∀ b ∈ x.busy, 2 ^ 47 ≤ (now - b.2).toNat) ∨ x.busy = [] → (t.att a).wlim = wlim ∧ (t.att a).acklag = acklag)
          ∧ (x.up = true → (∃ b ∈ x.busy, (now - b.2).toNat < 2 ^ 47) →
            (t.att a).wlim = x.wlim ∧ (t.att a).acklag = x.acklag ∧ (t.att a).newLim = some (wlim, acklag))))
    ∧ (∀ later,
      let v := x.waves.get w.toFin
      (240000000 ≤ (s.cycle - v.trimmed).toNat → Answers (.launchDelayTrim a w later) s fun t => same t
        ∧ (t.att a).waves.get w.toFin = { v with ldly := v.ldly + (if later then 1 else -1), trimmed := s.cycle })
      ∧ ((s.cycle - v.trimmed).toNat < 240000000 → Answers (.launchDelayTrim a w later) s fun t => same t ∧ t.att a = x))
    ∧ (Answers (.segmentDown a) s fun t => same t ∧ (t.att a).up = false ∧ (t.att a).actw = 0 ∧ (t.att a).groups = []
        ∧ (t.att a).sending = [] ∧ (t.att a).grants = [] ∧ (t.att a).changes = []
        ∧ (∀ i : Fin 8, ((t.att a).waves.get i).state = 3)
        ∧ (∀ c, x.coll = some c → (t.att a).coll = some { c with ended := some (c.ended.getD 9) })
        ∧ (∀ c, s.swCmd a = some c → c.phase = .joined → x.coll = none → ∃ c', (t.att a).coll = some c' ∧ c'.ended = some 9)
        ∧ (t.att a).busy = [] ∧ (t.att a).newLim = none)

/-! ### Start-up, host registers, snapshots, access counters -/

/-- R379 to R387, R392, R393, Tables 21.3, 21.4, 21.6, 21.7: a reset of the device, the image that it starts, the keys that the boot
ROM derives, minimal mode, recovery, the package identity, the host windows, the fused SVN and attestation. The model's choices among
this: the order and the offsets of the report's fields (log 12), the windows kept at a function-level reset (log 49), the handler's
SWP, EVEC and bytes, which are opaque (log 21), and the values that a reset leaves where the spec gives none (logs 3 and 5). -/
def Obligations.StartUpRules : Prop :=
  ∀ (s : State),
    let b := s.hub.boot
    (Answers .deviceReset s fun t => t.tile.regs = State.reset.tile.regs ∧ t.tile.csr = { State.reset.tile.csr with pcoord := s.tile.csr.pcoord }
        ∧ t.tile.front = State.reset.tile.front ∧ t.mem = s.outsideMem ∧ t.hub.fe = State.reset.hub.fe ∧ t.hub.power = State.reset.hub.power
        ∧ t.hub.boot.svn = b.svn ∧ t.hub.boot.flash = b.flash ∧ t.hub.boot.secret = b.secret ∧ t.hub.boot.bootok = false
        ∧ t.hub.boot.device = some (keysOf b.secret none) ∧ t.hub.boot.alias_ = some (keysOf b.secret (some t.hub.boot.measurement))
        ∧ t.hub.boot.lock = State.reset.hub.boot.lock
        ∧ (b.fscnt = 3 → t.hub.boot.mini = true ∧ t.hub.boot.image = none ∧ t.hub.boot.reason = b.reason)
        ∧ (b.fscnt ≠ 3 → b.flashBad = false → imageFault b.svn b.flash = none → t.hub.boot.image = some (imageOf b.flash)
          ∧ t.hub.boot.timer = true ∧ t.hub.boot.mini = false ∧ t.hub.boot.fscnt = b.fscnt + 1 ∧ t.hub.boot.reason = b.reason)
        ∧ (b.fscnt ≠ 3 → b.flashBad = true → t.hub.boot.mini = true ∧ t.hub.boot.fscnt = 3 ∧ t.hub.boot.reason = 0x01)
        ∧ (∀ why, b.fscnt ≠ 3 → b.flashBad = false → imageFault b.svn b.flash = some why →
          t.hub.boot.mini = true ∧ t.hub.boot.fscnt = 3 ∧ t.hub.boot.reason = why))
    ∧ (∀ why, s.failStart why = (s.setBoot { b with reason := why }).deviceReset)
    ∧ (∀ svn entry body, b.image = some (svn, entry, body) → b.measurement = sha384 body)
    ∧ (b.timer = true → 4800000000 < (s.cycle - b.timerAt).toNat →
      exec .startTimerExpire s = .next (s.failStart 0x06) ∧ exec .bootokSet s = .next s)
    ∧ (b.timer = false ∨ (s.cycle - b.timerAt).toNat ≤ 4800000000 → exec .startTimerExpire s = .next s)
    ∧ (s.mayBootok = true → Answers .bootokSet s fun t =>
        t.hub.boot = { b with bootok := true, fscnt := 0, timer := false, handler := true }
        ∧ t.tile.regs = s.tile.regs ∧ t.tile.csr = { s.tile.csr with swp := Config.handlerSwp, evec := Config.handlerEvec }
        ∧ (∀ c ∈ s.packageTiles, ∀ i, i < Config.handlerBytes.length → i < 0x800 →
          t.mem.read (coordBase c + 0x77000 + i) = Config.handlerBytes.getD i 0)
        ∧ ∀ a, (∀ c ∈ s.packageTiles, a < coordBase c + 0x77000 ∨ coordBase c + 0x77800 ≤ a) → t.mem.read a = s.mem.read a)
    ∧ (s.mayBootok = false → exec .bootokSet s = .next s)
    ∧ (exec .standbyPowerLoss s = .next (s.setBoot { b with fscnt := 0, reason := 0 }))
    ∧ (∀ len : BitVec 24,
      (b.mini = false → exec (.recovWrite len) s = .next s)
      ∧ (∀ why, b.mini = true → recoveryFault b.svn b.recov len.toNat = some why →
        exec (.recovWrite len) s = .next (s.setBoot { b with reason := 0x09, diag := why }))
      ∧ (b.mini = true → recoveryFault b.svn b.recov len.toNat = none → Answers (.recovWrite len) s fun t =>
        t.hub.boot.flash = b.recov.slice 0 len.toNat ∧ t.hub.boot.svn = b.svn ∧ t.mem = s.outsideMem))
    ∧ (∀ id, (b.pkgSet = false → exec (.pkgidWrite id) s = .next (s.setBoot { b with pkgId := id, pkgSet := true }))
        ∧ (b.pkgSet = true → exec (.pkgidWrite id) s = .next s))
    ∧ (exec .functionLevelReset s = .next (s.setBoot { b with lock := false }))
    ∧ (∀ v : Word, exec (.howlkWrite ⟨true, v⟩) s = .next (s.setBoot { b with lock := b.lock || v.getLsbD 0 })
        ∧ exec (.howlkWrite ⟨false, v⟩) s = .next s)
    ∧ (∀ svn entry body, b.image = some (svn, entry, body) → b.bootok = true →
      exec .fusedSvnRaise s = .next (s.setBoot { b with svn := if b.svn.toNat < svn.toNat then svn else b.svn }))
    ∧ (∀ nonce, b.device = none ∨ b.alias_ = none → exec (.attestRequest nonce) s = .next s)
    ∧ (∀ nonce d k, b.device = some d → b.alias_ = some k → Answers (.attestRequest nonce) s fun t => t.tile = s.tile ∧ t.mem = s.mem
        ∧ t.hub.boot = { b with report := t.hub.boot.report } ∧ t.hub.boot.report.take 32 = natBytes nonce.toNat 32
        ∧ (t.hub.boot.report.drop 32).take 16 = natBytes b.pkgidWord.toNat 8 ++ natBytes b.bootstat.toNat 8
        ∧ (t.hub.boot.report.drop 48).take 48 = natBytes b.measurement.toNat 48
        ∧ let f := s.reportFields nonce
          let cert := Config.certificate d.publics k.publics
          t.hub.boot.report = f ++ k.sign f ++ cert ++ d.sign cert)

/-- R5, R294, R295, R395 to R397, Tables 13.7, 13.8, 18.3, 18.4, 21.2 to 21.5: snapshots of the package, access counters, and the
registers of BAR 0. That registers other than the recovery window take writes in minimal mode is the model's choice (log 59). -/
def Obligations.SnapshotAndRegisterRules : Prop :=
  ∀ (s : State) (d : BitVec 2),
    let n := s.hub.snap
    let u := s.acu d
    let taken (at_ : Word) : State := s.setSnap { n with trig := true, cyc := at_, latchAt := some at_, armed := some s.cycle }
    (∀ c : Word, (c.toNat ≤ s.cycle.toNat → exec (.snaptWrite c) s = .next s)
      ∧ (s.cycle.toNat < c.toNat → n.trig = false → exec (.snaptWrite c) s = .next (taken c))
      ∧ (n.trig = true → n.armed ≠ some s.cycle → exec (.snaptWrite c) s = .next s ∧ exec .snapinEdge s = .next s))
    ∧ (n.pinEn = true → n.trig = false → exec .snapinEdge s = .next (taken (s.cycle + 256)))
    ∧ (n.pinEn = false → exec .snapinEdge s = .next s)
    ∧ (∀ at_, n.latchAt = some at_ → at_.toNat ≤ s.cycle.toNat → Answers .packageSnapshotLatch s fun t =>
        assocGet s.snapIndex t.hub.snap.sets = some s.snapshotSet ∧ t.hub.snap.latchAt = none
          ∧ t.hub.snap.frozen = (n.frozen || n.halt) ∧ t.tile = s.tile ∧ t.mem = s.mem)
    ∧ (exec .snapresRearm s = .next (s.setSnap { n with trig := false }))
    ∧ (exec .snapresResume s = .next (s.setSnap { n with frozen := false }))
    ∧ (exec (.acctlClr d) s = .next (s.setAcu d { u with entries := [], order := [] }))
    ∧ (∀ v : Word, exec (.acrstWrite d v) s = .next (s.setAcu d { u with
        entries := u.entries.filter fun e => !(e.ctxid == v.extractLsb' 0 12 && e.base == (v &&& 0x007FFFFFFFFFF000))
        order := u.order.filter fun x => x != (v.extractLsb' 0 12, v &&& 0x007FFFFFFFFFF000) }))
    ∧ (∀ head : BitVec 32,
      (u.order = [] → exec (.anqhWrite d head) s = .next (s.setAcu d { u with head := head }))
      ∧ (∀ e : AccEntry, u.order = [(e.ctxid, e.base)] → u.entries.find? (fun x => x.is e.ctxid e.base) = some e →
        ({ u with head := head } : AccUnit).room = true → e.base &&& 0x007FFFFFFFFFF000 = e.base → Answers (.anqhWrite d head) s fun t =>
          let a := u.anqb.toNat % 2 ^ 54 + 16 * (u.tail.toNat % 2 ^ u.logn.toNat)
          (t.acu d).tail = u.tail + 1 ∧ (t.acu d).order = [] ∧ (t.acu d).head = head
            ∧ t.mem.readWord a = ((1 : Word) <<< 63) ||| (e.size.setWidth 64 <<< 56) ||| e.base ||| e.ctxid.setWidth 64
            ∧ t.mem.readWord (a + 8) = e.count.setWidth 64 ||| (d.setWidth 64 <<< 32)
            ∧ ∀ x, x < a ∨ a + 16 ≤ x → t.mem.read x = s.mem.read x))
    ∧ (∀ (host : Bool) (off : BitVec 24) (v : Word),
      let o := off.toNat
      let w (t : State) : Prop := exec (.registerWrite off ⟨host, v⟩) s = .next t
      let b := s.hub.boot
      (o % 8 ≠ 0 → w s)
      ∧ (o % 8 = 0 → 0x800000 ≤ o →
        (b.mini = true → w (s.setBoot { b with recov := b.recov.writeWord (o - 0x800000) v })) ∧ (b.mini = false → w s))
      ∧ ((o = 0x18 → w (s.setBoot { b with rtmo := v.extractLsb' 0 16 })) ∧ (o = 0x28 → w (s.setFe { s.hub.fe with qdtb := v }))
        ∧ (o = 0x30 → w (s.setSnap { n with halt := v.getLsbD 26, pinEn := v.getLsbD 25, trapEn := v.extractLsb' 1 23 }))
        ∧ (o = 0x1008 → w (s.setPw { s.hub.power with prej := clampCap (v.extractLsb' 0 12) }))
        ∧ (o = 0x1010 → w (s.setPw { s.hub.power with gceil := clampCap (v.extractLsb' 0 12) }))
        ∧ (∀ i : BitVec 4, b.lock = true ∨ host = false → o = 0x2000 + 16 * i.toNat ∨ o = 0x2008 + 16 * i.toNat → w s)
        ∧ (∀ i : BitVec 4, b.lock = false → host = true →
          (o = 0x2000 + 16 * i.toNat → w (s.setBoot { b with howb := b.howb.set i.toNat (v &&& 0xFFFFFFFFFFFFF001) i.isLt }))
          ∧ (o = 0x2008 + 16 * i.toNat → w (s.setBoot { b with howl := b.howl.set i.toNat (v &&& 0xFFFFFFFFFFFFF000) i.isLt })))
        ∧ (∀ a : BitVec 4, o = 0x10000 + 0x100 * a.toNat → w (s.setAtt a { s.att a with jtmo := v.extractLsb' 32 16 }))
        ∧ (o = 0x100000 * (d.toNat + 1) → w (s.setAcu d { u with en := v.getLsbD 0 }))
        ∧ (o = 0x100000 * (d.toNat + 1) + 8 → w (s.setAcu d { u with thr := v.extractLsb' 0 32 }))
        ∧ (∀ i : Nat, i < 64 → o = 0x100000 * (d.toNat + 1) + 0x1008 + 0x40 * i → Answers (.registerWrite off ⟨host, v⟩) s fun t =>
          let j := BitVec.ofNat 8 (d.toNat * 64 + i)
          (t.strip j).tthr = v.extractLsb' 0 16 ∧ t.tile.regs = s.tile.regs ∧ t.mem = s.mem
            ∧ (t.strip j).tcode = (if (v.extractLsb' 16 4).toNat ≤ 9 then v.extractLsb' 16 4 else (s.strip j).tcode)
            ∧ ∀ k ≠ j, t.strip k = s.strip k)
        ∧ (o = 0x28 → Answers (.registerWrite off ⟨host, v⟩) s fun t => t.readRegister o = v)
        ∧ (∀ i : BitVec 4, b.lock = false → host = true → o = 0x2000 + 16 * i.toNat →
          Answers (.registerWrite off ⟨host, v⟩) s fun t => t.readRegister o = (v &&& 0xFFFFFFFFFFFFF001))
        ∧ (o < 0x1000 → o ∉ [0x00, 0x08, 0x10, 0x18, 0x28, 0x30, 0x40] → s.readRegister o = 0)
        ∧ (o % 8 = 0 → 0x3000 ≤ o → o < 0x10000 → w s)))

/-! ### Discovery -/

/-- R388 to R391, R399 to R404, Tables 22.1, 21.7: discovery of a die: the agent, the fawn packet and its replies, COORD of each
tile, multicast packets, and its end. The move of a tile's bytes with its COORD is the model's (log 13), and so is what the agent's
scratchpad holds besides the listing and the parameter block (log 50). -/
def Obligations.DiscoveryRules : Prop :=
  ∀ (s : State) (d : BitVec 2),
    let c := s.disco d
    (∀ agent : BitVec 10,
      let lowest : Prop := agent ∉ c.fuses ∧ ∀ i : BitVec 10, i.toNat < agent.toNat → i ∈ c.fuses
      (¬lowest → exec (.discoveryStart d agent) s = .next s)
      ∧ (lowest → s.mem.wf = true → Answers (.discoveryStart d agent) s fun t =>
        (t.disco d).active = true ∧ (t.disco d).agent = agent ∧ (t.disco d).fawned = false ∧ (t.disco d).since = s.cycle
        ∧ (t.disco d).fuses = c.fuses
        ∧ (s.tile.csr.pcoord.extractLsb' 10 2 ≠ d → t.tile = s.tile ∧ t.mem = s.mem)
        ∧ (∀ x, x < s.ownAddr 0 ∨ s.ownAddr 0 + 2 ^ 27 ≤ x → x < t.ownAddr 0 ∨ t.ownAddr 0 + 2 ^ 27 ≤ x → t.mem.read x = s.mem.read x)
        ∧ (s.isPhys d agent = true → t.sup = true ∧ t.ie = false ∧ t.tile.csr.wp = 0x7000 ∧ (∀ r, t.g r = 0) ∧ t.tile.front.started = true
            ∧ t.tile.front.apc = 0 ∧ t.tile.power.state = .run ∧ t.own = 0
            ∧ t.mem.readWords 0 discoveryProgram.length = discoveryProgram
            ∧ t.mem.readWord 0xF000 = BitVec.ofNat 64 (s.hub.boot.pkgId.toNat * 2 ^ 12 + d.toNat * 2 ^ 10))
        ∧ (s.isPhys d agent = false → s.tile.csr.pcoord.extractLsb' 10 2 = d → t.tile.front.started = false ∧ t.tile.regs = s.tile.regs)))
    ∧ (c.active = false → exec (.dfawn d) s = .next s ∧ (∀ v, exec (.dcoord d v) s = .next s ∧ exec (.dmoff d v) s = .next s
        ∧ exec (.dmdata d v) s = .next s ∧ exec (.ddone d v) s = .next s) ∧ exec (.discoveryTimeout d) s = .next s)
    ∧ (c.active = true →
      (c.fawned = true → exec (.dfawn d) s = .next s)
      ∧ (c.fawned = false → c.queue = [] → Answers (.dfawn d) s fun t => (t.disco d).fawned = true ∧ (t.disco d).heard = [c.agent]
        ∧ (t.disco d).replied = c.replied ++ [c.agent] ∧ (∃ r, (t.disco d).queue = [r] ∧ r.extractLsb' 0 10 = c.agent) ∧ t.tile = s.tile)
      ∧ (∀ x y : BitVec 5, c.fawned = true →
        (y ++ x ∈ c.heard → exec (.fawnPacket d x y) s = .next s)
        ∧ (∀ r ∈ c.heard, y ++ x ∉ c.heard → neighbours (y ++ x) r = true →
          exec (.fawnPacket d x y) s = .next (s.setDisc d { c with heard := c.heard ++ [y ++ x] })))
      ∧ (∀ reply : BitVec 21, let r := reply.extractLsb' 0 10
        let fusedOk : Prop := reply.getLsbD 10 = true ↔ r ∈ c.fuses
        let tardy : Prop := c.fawned = true ∧ 2400000 ≤ (s.cycle - c.fawnAt).toNat
        (r ∉ c.heard ∨ r ∈ c.replied ∨ ¬fusedOk ∨ tardy → exec (.fawnReply d reply) s = .next s)
        ∧ (r ∈ c.heard → r ∉ c.replied → fusedOk → ¬tardy → Answers (.fawnReply d reply) s fun t => (t.disco d).replied = c.replied ++ [r]
          ∧ (t.disco d).fusedSeen = c.fusedSeen + (if reply.getLsbD 10 then 1 else 0) ∧ t.tile = s.tile
          ∧ (t.disco d).queue = (if c.queue.length < 64 then c.queue ++ [reply] else c.queue)
          ∧ (t.disco d).mesh = (if c.queue.length < 64 then c.mesh else c.mesh ++ [reply])))
      ∧ (∀ v : Word, let idx : BitVec 10 := v.extractLsb' 24 10; let co : BitVec 24 := v.extractLsb' 0 24
        Answers (.dcoord d v) s fun t => (idx, co) ∈ (t.disco d).coords ∧ (∀ p ∈ (t.disco d).coords, p.1 = idx → p.2 = co)
          ∧ (c.packets ≠ [] → (∀ p ∈ c.coords, p.1 ≠ idx) → t.dmdone d = false)
          ∧ (s.isPhys d idx = false → t.tile = s.tile ∧ t.mem = s.mem)
          ∧ (s.isPhys d idx = true → t.own = co ∧ t.tile.regs = s.tile.regs
            ∧ (s.mem.wf = true → ∀ i < 2 ^ 27, t.mem.read (coordBase co + i) = s.mem.read (coordBase s.own + i))))
      ∧ (∀ v : Word, exec (.dmoff d v) s = .next (s.setDisc d { c with dmoff := v.extractLsb' 6 13 ++ (0 : BitVec 6), partial_ := [] }))
      ∧ (∀ v : Word, c.partial_.length < 7 → exec (.dmdata d v) s = .next (s.setDisc d { c with partial_ := c.partial_ ++ [v] }))
      ∧ (∀ v : Word, c.partial_.length = 7 →
        (c.dmoff.toNat + 63 ≤ 0x777FF → Answers (.dmdata d v) s fun t => (t.disco d).partial_ = [] ∧ (t.disco d).dmoff = c.dmoff + 64
          ∧ t.tile = s.tile ∧ ∃ row : Row, (t.disco d).packets = c.packets ++ [(c.dmoff, row, c.coords.map fun p => p.1)]
            ∧ ∀ i < 8, row.extractLsb' (64 * i) 64 = (c.partial_ ++ [v]).getD i 0)
        ∧ (0x777FF < c.dmoff.toNat + 63 → Answers (.dmdata d v) s fun t => (t.disco d).packets = c.packets ∧ (t.disco d).discarded = true
          ∧ t.dmdone d = false))
      ∧ (∀ v : Word,
        let ok := v.getLsbD 11 = false ∧ c.replied.length = 1024 ∧ c.fusedSeen ≤ 32 ∧ (s.cycle - c.since).toNat < 24000000
        (ok → exec (.ddone d v) s = .next (s.setDisc d { c with active := false, fused := v.extractLsb' 0 11, failed := false, done := true }))
        ∧ (¬ok → ∃ u : State, exec (.ddone d v) s = .next (u.failStart 0x07) ∧ u.tile = s.tile ∧ u.hub.boot = s.hub.boot ∧ u.mem = s.mem))
      ∧ (let late := 24000000 ≤ (s.cycle - c.since).toNat
          ∨ (c.fawned = true ∧ ¬(c.replied.length = 1024 ∧ c.fusedSeen ≤ 32) ∧ 2400000 ≤ (s.cycle - c.fawnAt).toNat)
          ∨ s.isPhys d c.agent = false ∨ s.tile.front.ast = .halted
        (late → ∃ u : State, exec (.discoveryTimeout d) s = .next (u.failStart 0x07) ∧ u.tile = s.tile ∧ u.hub.boot = s.hub.boot ∧ u.mem = s.mem)
        ∧ (¬late → exec (.discoveryTimeout d) s = .next s)))
    ∧ (∀ r rest, c.queue = r :: rest → Answers (.dreply d) s fun t => (s.dreply d).2 = (1 : BitVec 1) ++ (0 : BitVec 42) ++ r
        ∧ t.tile = s.tile ∧ t.mem = s.mem
        ∧ (c.mesh = [] → (t.disco d).queue = rest ∧ (t.disco d).mesh = [])
        ∧ (∀ m ms, c.mesh = m :: ms → (t.disco d).queue = rest ++ [m] ∧ (t.disco d).mesh = ms))
    ∧ (c.queue = [] → exec (.dreply d) s = .next s ∧ (s.dreply d).2 = 0)
    ∧ (∀ (idx : BitVec 10) off row l rest co, c.packets = (off, row, l) :: rest → idx ∈ l → c.coords.find? (fun p => p.1 == idx) = some (idx, co) →
      Answers (.multicastPacket d idx) s fun t => s.storesOnly t (coordBase co + off.toNat) 64 row.toNat
        ∧ (t.disco d).packets = (off, row, l.filter fun i => i != idx) :: rest ∧ t.tile.regs = s.tile.regs)

/-! ### Encodings, steps and reset -/

/-- Tables 3.1 to 3.9 and the words of Table 3.12: words written out from the spec's tables decode to the instructions that they
stand for. -/
def Obligations.DecodeWords : Prop :=
  let always : Guard := { neg := 0, pred := 0 }
  decodeBundle 0x00629440 0x008501D0 = .ok (.addi always 5 5 (.fld 64))
    ∧ decodeA 0x008501D0 = .ok (.fadd always 2 16 3 5) ∧ decodeA 0x0073221E = .ok (.vadds always 25 18 4 1)
    ∧ decodeBundle 0 0 = .ok (.nop always) ∧ decodeA 0 = .ok (.anop always)
    ∧ decodeBundle 0x01429BFE 0 = .ok (.bne always 5 6 (.fld 0x3FE))
    ∧ decodeBundle 0x68C38000 0x00123456 = .ok (.ldi { neg := 1, pred := 2 } 7 (.lone 0x00123456))
    ∧ decodeBundle 0x84234013 0 = .ok (.tew { neg := 0, pred := 1 } 2 3 4 3 0)
    ∧ decodeBundle 0b00000110010100000000000000110000 0 = .ok (.frel { neg := 0, pred := 1 } 3)
    ∧ decodeBundle 0b11000000000000000000000000000000 0 = .encoding

/-- R65 to R78: decoding the words of a well-formed instruction gives the instruction back, with every operand at every value
that the encoding admits. -/
def Obligations.EncodeThenDecode : Prop :=
  ∀ i : Instr, i.wf = true → match encode i with
    | .bundle w0 w1 => decodeBundle w0 w1 = .ok i ∧ w0 < 2 ^ 32 ∧ w1 < 2 ^ 32
    | .aWord w => decodeA w = .ok i ∧ w < 2 ^ 32
    | .none => True

/-- R65 to R78, Table 3.7 check 3: what decodes is well-formed, and its words are the words read: no bit of an instruction is
left unread. -/
def Obligations.DecodeThenEncode : Prop :=
  (∀ (w0 w1 : Nat) (i : Instr), w0 < 2 ^ 32 → w1 < 2 ^ 32 → decodeBundle w0 w1 = .ok i →
      i.wf = true ∧ ∃ v1, encode i = .bundle w0 v1 ∧ (w0 / 2 ^ 30 ≠ 0 → v1 = w1))
  ∧ (∀ (w : Nat) (i : Instr), w < 2 ^ 32 → decodeA w = .ok i → i.wf = true ∧ encode i = .aWord w)

/-- R9, R10, R76, R77, R100, R238: where the access half goes on, a step runs the instruction that the bundle in hand, or the one
fetched at APC, decodes to; where the execute half goes on, the instruction that its next A-word decodes to, renumbered in a
repeat. Before it, CYCLE has moved on and what has arrived has settled; a tile that sleeps looks at what it waits for before that
(log 1). -/
def Obligations.StepRunsDecoded : Prop :=
  ∀ (s : State),
    let u := s.ready
    let now := s.settle
    let bundle (w : Word) : Decoded := decodeBundle (w.toNat % 2 ^ 32) (w.toNat / 2 ^ 32)
    let awake : Prop := s.sleeps = false ∨ (now.looks = false ∧ (now.mayGate = false ∨ now.forced.isSome = true))
    let runs (x : State) : Prop := x.asyncNow = false → x.tile.wait ≠ .release → x.conflictNow = false → x.atHandler = false →
      x.loopPending = false → x.dwt = false → x.commitStalls = false →
      (∀ l i, x.tile.front.latch = some l → bundle l.bundle = .ok i → step s = exec i x)
      ∧ (x.tile.front.latch = none → x.tile.res.rejected = none ∨ x.tile.wait ≠ .idle ∨ x.sup = true →
        (∀ v w i, x.fetch = (v, .bundle w) → bundle w = .ok i → step s = exec i (v.latched w))
        ∧ (∀ v w, x.fetch = (v, .bundle w) → bundle w = .encoding → step s = exec (.unassignedEncoding false true w) (v.latched w))
        ∧ (∀ v w, x.fetch = (v, .bundle w) → bundle w = .unassigned → step s = exec (.unassignedEncoding false false w) (v.latched w))
        ∧ (∀ v c y, x.fetch = (v, .trap c y) → step s = v.trap false c y))
    (s.tile.csr.snapArmed = false → s.hub.snap.latchAt = none → s.tile.power.state = .run ∨ s.tile.power.state = .gated →
      u.cycle = s.cycle + (Config.ticks s.free).setWidth 64)
    ∧ (awake → s.inputs = [] → u.forced = none → choose (Config.choice u.free) u.doings = some .access → runs u)
    ∧ (s.sleeps = true → now.looks = true →
      runs { now.setPower { now.tile.power with polled := true } with free := now.free + 1 })
    ∧ (awake → s.inputs = [] → u.forced = none → choose (Config.choice u.free) u.doings = some .issue →
      ∀ it i, u.headA = some it → decodeA it.word.toNat = .ok i →
        step s = exec (if u.tile.front.rpt.riter = 0 then i else renumber u.tile.front.rpt.turn i) u)
    ∧ (∀ d, u.forced = none → u.doings = [d] → choose (Config.choice u.free) u.doings = some d)
    ∧ (∀ a leaf, s.tile.front.ahead = [] → s.fetchPlace s.tile.front.apc = .mem a leaf → s.hub.errors.bad = [] →
      ∃ v, s.fetch = (v, .bundle (s.mem.readWord a)) ∧ v.mem = s.mem ∧ v.tile.regs = s.tile.regs ∧ v.tile.front.apc = s.tile.front.apc)
    ∧ (∀ w, (s.latched w).bundle = w ∧ (s.latched w).tile.front.apc = s.tile.front.apc ∧ (s.latched w).tile.regs = s.tile.regs)

/-- Tables 1.5, 1.8, 1.10, 1.13 to 1.15, 13.7, 16.3, 18.3, 18.4, 21.3 to 21.5: what reset leaves where the spec gives it, and the
canonical form of the memories. -/
def Obligations.ResetState : Prop :=
  let s := State.reset
  s.tile.csr.status = 1 ∧ s.sup = true ∧ s.tile.ctx.fcsr = 0 ∧ s.leaseWord = 0 ∧ s.tile.ctx.pgrant = 0
    ∧ (∀ i : Fin 12, s.tile.ports.acc.get i = ⟨0, 0⟩ ∧ s.tile.ports.exe.get i = ⟨0, 0⟩)
    ∧ (∀ i : Fin 8, s.tile.ports.inq.get i = []) ∧ (∀ i : Fin 4, s.tile.ports.outq.get i = [])
    ∧ (∀ i : BitVec 8, (s.strip i).code = 9 ∧ (s.strip i).tcode = 4 ∧ (s.strip i).tthr = 0x0550 ∧ (s.strip i).st = 0 ∧ (s.strip i).tcnt = 0)
    ∧ (∀ a : BitVec 4, (s.att a).jtmo = 10000 ∧ (s.att a).up = false ∧ (s.att a).actw = 0 ∧ (s.att a).berth = 0xA7C6
        ∧ (s.att a).done = 0 ∧ (s.att a).nfail = 0 ∧ ∀ w : Fin 8, ((s.att a).waves.get w).state = 3)
    ∧ (∀ d : BitVec 2, (s.acu d).en = false ∧ (s.acu d).thr = 0 ∧ (s.acu d).anqb = 0 ∧ (s.acu d).logn = 4 ∧ (s.acu d).tail = 0
        ∧ (s.acu d).head = 0 ∧ (s.acu d).drops = 0)
    ∧ s.hub.power.pcap = 3000 ∧ s.hub.power.prej = 2000 ∧ s.hub.power.gceil = 3000 ∧ s.hub.power.nextId = 1 ∧ s.hub.power.refz = false
    ∧ s.hub.boot.mini = false ∧ s.hub.boot.bootok = false ∧ s.hub.boot.pkgId = 0 ∧ s.hub.boot.pkgSet = false ∧ s.hub.boot.rtmo = 2
    ∧ s.hub.fe.qdtb = 0 ∧ s.hub.fe.fbact = false ∧ s.hub.boot.lock = false ∧ s.hub.snap.trig = false ∧ s.hub.snap.trapEn = 0
    ∧ (∀ i : Fin 16, s.hub.boot.howb.get i = 0 ∧ s.hub.boot.howl.get i = 0)
    ∧ s.canonical

/-- Whatever a step does, from every state whose memories are in canonical form it answers a next state whose memories are: no
step faults and no step refuses. -/
def Obligations.EveryStepAnswersCanonically : Prop :=
  ∀ s : State, s.canonical → ∃ t, step s = .next t ∧ t.canonical
end

