-- ==== Sys2Proof/Laws/Memory.lean ====
section
/-!
SUPPORT. Laws of memory: every operation keeps the canonical form, a read after a write, and memories that read alike are equal.
-/

namespace Sys2Proof.Machine

/-! ### The canonical form -/

@[simp] theorem Memory.wfFrom_nil (lo : Nat) : Memory.wfFrom lo [] = true := rfl

/-- What the canonical form says of a listed byte and of those behind it. -/
theorem Memory.wfFrom_cons (lo a : Nat) (b : Byte) (m : Memory) :
    Memory.wfFrom lo ((a, b) :: m) = true ↔ lo ≤ a ∧ b ≠ Memory.unlisted ∧ Memory.wfFrom (a + 1) m = true := by
  simp [Memory.wfFrom, and_assoc]

theorem Memory.wfFrom_mono {lo lo' : Nat} {m : Memory} (h : lo' ≤ lo) (hm : m.wfFrom lo = true) : m.wfFrom lo' = true := by
  cases m with
  | nil => rfl
  | cons c m =>
    rw [Memory.wfFrom_cons] at hm ⊢
    exact ⟨by omega, hm.2⟩

theorem Memory.wf_of_wfFrom {lo : Nat} {m : Memory} (h : m.wfFrom lo = true) : m.wf = true := Memory.wfFrom_mono (Nat.zero_le _) h

@[simp] theorem Memory.wf_nil : Memory.wf [] = true := rfl

/-- Inserting an address that is not listed keeps the canonical form. -/
theorem Memory.wfFrom_put {m : Memory} : ∀ {lo x : Nat} {y : Byte}, lo ≤ x → y ≠ Memory.unlisted → (∀ c ∈ m, c.1 ≠ x) →
    m.wfFrom lo = true → (m.put x y).wfFrom lo = true := by
  induction m with
  | nil => intro lo x y h hy _ _; exact (Memory.wfFrom_cons ..).2 ⟨h, hy, rfl⟩
  | cons c m ih =>
    obtain ⟨a, b⟩ := c
    intro lo x y h hy hx hm
    rw [Memory.wfFrom_cons] at hm
    have ha : a ≠ x := hx (a, b) (List.mem_cons_self ..)
    unfold Memory.put
    split
    · exact (Memory.wfFrom_cons ..).2 ⟨h, hy, (Memory.wfFrom_cons ..).2 ⟨by omega, hm.2⟩⟩
    · exact (Memory.wfFrom_cons ..).2 ⟨hm.1, hm.2.1, ih (by omega) hy (fun c hc => hx c (List.mem_cons_of_mem _ hc)) hm.2.2⟩

theorem Memory.drop_eq_filter (m : Memory) (x : Nat) : m.drop x = m.filter fun c => decide (c.1 ≠ x) := by
  induction m with
  | nil => rfl
  | cons c m ih =>
    obtain ⟨a, b⟩ := c
    by_cases h : a = x <;> simp [Memory.drop, h, ih]

theorem Memory.not_mem_drop (m : Memory) (x : Nat) : ∀ c ∈ m.drop x, c.1 ≠ x := by
  intro c hc
  rw [Memory.drop_eq_filter] at hc
  simpa using (List.mem_filter.1 hc).2

theorem Memory.wfFrom_filter {m : Memory} (f : Nat × Byte → Bool) : ∀ {lo : Nat}, m.wfFrom lo = true →
    Memory.wfFrom lo (m.filter f) = true := by
  induction m with
  | nil => intros; rfl
  | cons c m ih =>
    obtain ⟨a, b⟩ := c
    intro lo hm
    rw [Memory.wfFrom_cons] at hm
    rw [List.filter_cons]
    split
    · exact (Memory.wfFrom_cons ..).2 ⟨hm.1, hm.2.1, ih hm.2.2⟩
    · exact Memory.wfFrom_mono (by omega) (ih hm.2.2)

/-- Selecting listed bytes keeps the canonical form. -/
theorem Memory.wf_filter {m : Memory} (h : m.wf = true) (f : Nat × Byte → Bool) : Memory.wf (m.filter f) = true :=
  Memory.wfFrom_filter f h

/-- A write keeps the canonical form. -/
@[simp] theorem Memory.wf_write {m : Memory} (h : m.wf = true) (x : Nat) (y : Byte) : (m.write x y).wf = true := by
  have hd : (m.drop x).wf = true := by rw [Memory.drop_eq_filter]; exact Memory.wf_filter h _
  unfold Memory.write
  split
  · exact hd
  · exact Memory.wfFrom_put (Nat.zero_le _) ‹_› (Memory.not_mem_drop m x) hd

@[simp] theorem Memory.wf_writeNat {m : Memory} (h : m.wf = true) (x n v : Nat) : (m.writeNat x n v).wf = true := by
  induction n generalizing m x v with
  | zero => exact h
  | succ n ih => exact ih (Memory.wf_write h ..) ..

@[simp] theorem Memory.wf_writeWord {m : Memory} (h : m.wf = true) (x : Nat) (v : Word) : (m.writeWord x v).wf = true :=
  Memory.wf_writeNat h ..

@[simp] theorem Memory.wf_writeBytes {m : Memory} (h : m.wf = true) (x : Nat) (l : List Byte) : (m.writeBytes x l).wf = true := by
  induction l generalizing m x with
  | nil => exact h
  | cons b l ih => exact ih (Memory.wf_write h ..) ..

@[simp] theorem Memory.wf_writeWords {m : Memory} (h : m.wf = true) (x : Nat) (l : List Word) : (m.writeWords x l).wf = true := by
  induction l generalizing m x with
  | nil => exact h
  | cons b l ih => exact ih (Memory.wf_writeWord h ..) ..

@[simp] theorem Memory.wf_clear {m : Memory} (h : m.wf = true) (lo len : Nat) : (m.clear lo len).wf = true := Memory.wf_filter h _

theorem Memory.wfFrom_shift {m : Memory} (d : Nat) : ∀ {lo : Nat}, m.wfFrom lo = true → d ≤ lo →
    Memory.wfFrom (lo - d) (m.map fun c => (c.1 - d, c.2)) = true := by
  induction m with
  | nil => intros; rfl
  | cons c m ih =>
    obtain ⟨a, b⟩ := c
    intro lo hm hd
    rw [Memory.wfFrom_cons] at hm
    rw [List.map_cons, Memory.wfFrom_cons]
    refine ⟨by omega, hm.2.1, ?_⟩
    have h := ih hm.2.2 (by omega)
    rwa [show a + 1 - d = a - d + 1 by omega] at h

theorem Memory.wfFrom_above {m : Memory} {f : Nat × Byte → Bool} {d : Nat} (hf : ∀ c, f c = true → d ≤ c.1) : ∀ {lo : Nat},
    m.wfFrom lo = true → Memory.wfFrom (max lo d) (m.filter f) = true := by
  induction m with
  | nil => intros; rfl
  | cons c m ih =>
    obtain ⟨a, b⟩ := c
    intro lo hm
    rw [Memory.wfFrom_cons] at hm
    have h := ih hm.2.2
    rw [List.filter_cons]
    split
    · have ha := hf _ ‹_›
      exact (Memory.wfFrom_cons ..).2 ⟨by simp only at ha; omega, hm.2.1, Memory.wfFrom_mono (by omega) h⟩
    · exact Memory.wfFrom_mono (by omega) h

/-- A slice of a memory in canonical form is one. -/
@[simp] theorem Memory.wf_slice {m : Memory} (h : m.wf = true) (lo len : Nat) : (m.slice lo len).wf = true := by
  have hf : ∀ c : Nat × Byte, (decide (lo ≤ c.1) && decide (c.1 < lo + len)) = true → lo ≤ c.1 := by
    intro c hc
    simp only [Bool.and_eq_true, decide_eq_true_eq] at hc
    exact hc.1
  exact Memory.wf_of_wfFrom (Memory.wfFrom_shift lo (Memory.wfFrom_above hf h) (Nat.le_max_right ..))

@[simp] theorem Memory.wf_lay {m : Memory} (h : m.wf = true) (lo : Nat) (cells : Memory) : (m.lay lo cells).wf = true := by
  unfold Memory.lay
  induction cells generalizing m with
  | nil => exact h
  | cons c cells ih => exact ih (Memory.wf_write h ..)

/-! ### Reading after writing -/

theorem Memory.read_of_not_listed {m : Memory} {x : Nat} (h : ∀ c ∈ m, c.1 ≠ x) : m.read x = Memory.unlisted := by
  induction m with
  | nil => rfl
  | cons c m ih =>
    obtain ⟨a, b⟩ := c
    unfold Memory.read
    rw [if_neg (h (a, b) (List.mem_cons_self ..)), ih fun c hc => h c (List.mem_cons_of_mem _ hc)]

theorem Memory.read_put {m : Memory} {x : Nat} (hx : ∀ c ∈ m, c.1 ≠ x) (z : Nat) (y : Byte) :
    (m.put x y).read z = if z = x then y else m.read z := by
  induction m with
  | nil =>
    unfold Memory.put Memory.read
    by_cases h : z = x
    · simp [h]
    · simp [h, Ne.symm h, Memory.read]
  | cons c m ih =>
    obtain ⟨a, b⟩ := c
    have ha : a ≠ x := hx (a, b) (List.mem_cons_self ..)
    unfold Memory.put
    by_cases h : z = x
    · subst h
      split
      · simp [Memory.read]
      · rw [if_pos rfl, Memory.read, if_neg ha, ih fun c hc => hx c (List.mem_cons_of_mem _ hc), if_pos rfl]
    · rw [if_neg h]
      split
      · rw [Memory.read, if_neg (Ne.symm h)]
      · rw [Memory.read, Memory.read, ih fun c hc => hx c (List.mem_cons_of_mem _ hc), if_neg h]

theorem Memory.read_filter (m : Memory) (f : Nat × Byte → Bool) (g : Nat → Bool) (hf : ∀ c, f c = g c.1) (z : Nat) :
    Memory.read (m.filter f) z = if g z then m.read z else Memory.unlisted := by
  induction m with
  | nil => simp [Memory.read]
  | cons c m ih =>
    obtain ⟨a, b⟩ := c
    rw [List.filter_cons, hf]
    simp only
    by_cases ha : g a = true
    · rw [if_pos ha, Memory.read, Memory.read, ih]
      by_cases h : a = z
      · subst h; simp [ha]
      · rw [if_neg h, if_neg h]
    · rw [if_neg ha, ih, Memory.read]
      by_cases h : a = z
      · subst h; simp [ha]
      · rw [if_neg h]

theorem Memory.read_drop (m : Memory) (x z : Nat) : (m.drop x).read z = if z = x then Memory.unlisted else m.read z := by
  rw [Memory.drop_eq_filter, Memory.read_filter m _ (fun a => decide (a ≠ x)) fun _ => rfl]
  by_cases h : z = x <;> simp [h]

/-- A read after a write gives the byte written there, and any other byte as before. -/
theorem Memory.read_write (m : Memory) (x z : Nat) (y : Byte) : (m.write x y).read z = if z = x then y else m.read z := by
  unfold Memory.write
  split
  · rw [Memory.read_drop, ‹y = _›]
  · rw [Memory.read_put (Memory.not_mem_drop m x), Memory.read_drop]
    by_cases h : z = x <;> simp [h]

/-- A write leaves every byte outside it alone. -/
theorem Memory.read_writeNat_of_outside (m : Memory) (x n v : Nat) {z : Nat} (hz : z < x ∨ x + n ≤ z) :
    (m.writeNat x n v).read z = m.read z := by
  induction n generalizing m x v with
  | zero => rfl
  | succ n ih =>
    unfold Memory.writeNat
    rw [ih _ _ _ (by omega), Memory.read_write, if_neg (by omega)]

theorem Memory.read_writeWord_of_outside (m : Memory) (x : Nat) (v : Word) {z : Nat} (hz : z < x ∨ x + 8 ≤ z) :
    (m.writeWord x v).read z = m.read z := Memory.read_writeNat_of_outside m x 8 _ hz

theorem Memory.read_writeBytes_of_outside (m : Memory) (x : Nat) (l : List Byte) {z : Nat}
    (hz : z < x ∨ x + l.length ≤ z) : (m.writeBytes x l).read z = m.read z := by
  induction l generalizing m x with
  | nil => rfl
  | cons b l ih =>
    unfold Memory.writeBytes
    rw [List.length_cons] at hz
    rw [ih _ _ (by omega), Memory.read_write, if_neg (by omega)]

theorem Memory.read_writeWords_of_outside (m : Memory) (x : Nat) (l : List Word) {z : Nat}
    (hz : z < x ∨ x + 8 * l.length ≤ z) : (m.writeWords x l).read z = m.read z := by
  induction l generalizing m x with
  | nil => rfl
  | cons b l ih =>
    unfold Memory.writeWords
    rw [List.length_cons] at hz
    rw [ih _ _ (by omega), Memory.read_writeWord_of_outside _ _ _ (by omega)]

/-- Two memories that agree on a range read alike there. -/
theorem Memory.readNat_congr {m m' : Memory} {x n : Nat} (h : ∀ z, x ≤ z → z < x + n → m.read z = m'.read z) :
    m.readNat x n = m'.readNat x n := by
  induction n generalizing x with
  | zero => rfl
  | succ n ih =>
    unfold Memory.readNat
    rw [h x (Nat.le_refl _) (by omega), ih fun z h1 h2 => h z (by omega) (by omega)]

theorem Memory.readNat_lt (m : Memory) (x n : Nat) : m.readNat x n < 256 ^ n := by
  induction n generalizing x with
  | zero => exact Nat.one_pos
  | succ n ih =>
    unfold Memory.readNat
    have h1 := (m.read x).isLt
    have h2 := ih (x + 1)
    rw [pow_succ]
    omega

/-- A number reads back as its low bytes. -/
theorem Memory.readNat_writeNat (m : Memory) (x n v : Nat) : (m.writeNat x n v).readNat x n = v % 256 ^ n := by
  induction n generalizing m x v with
  | zero => simp [Memory.readNat, Nat.mod_one]
  | succ n ih =>
    unfold Memory.writeNat Memory.readNat
    rw [ih, Memory.read_writeNat_of_outside _ _ _ _ (by omega), Memory.read_write,
      if_pos rfl, BitVec.toNat_ofNat, Nat.pow_succ' (m := 256), Nat.mod_mul (a := 256)]

/-- A number reads back elsewhere as before. -/
theorem Memory.readNat_writeNat_of_disjoint (m : Memory) (x n v : Nat) {y k : Nat} (hd : y + k ≤ x ∨ x + n ≤ y) :
    (m.writeNat x n v).readNat y k = m.readNat y k :=
  Memory.readNat_congr fun z h1 h2 => Memory.read_writeNat_of_outside m x n v (by omega)

/-- A dword reads back. -/
theorem Memory.readWord_writeWord (m : Memory) (x : Nat) (v : Word) : (m.writeWord x v).readWord x = v := by
  unfold Memory.readWord Memory.writeWord
  rw [Memory.readNat_writeNat, Nat.mod_eq_of_lt (by simpa using v.isLt), BitVec.ofNat_toNat, BitVec.setWidth_eq]

theorem Memory.readWord_writeWord_of_disjoint (m : Memory) (x y : Nat) (v : Word) (hd : y + 8 ≤ x ∨ x + 8 ≤ y) :
    (m.writeWord x v).readWord y = m.readWord y := by
  unfold Memory.readWord Memory.writeWord
  rw [Memory.readNat_writeNat_of_disjoint m x 8 _ hd]

theorem Memory.length_readBytes (m : Memory) (x n : Nat) : (m.readBytes x n).length = n := by
  induction n generalizing x with
  | zero => rfl
  | succ n ih => simp [Memory.readBytes, ih]

/-- A cleared range reads as unlisted, and the rest as before. -/
theorem Memory.read_clear (m : Memory) (lo len z : Nat) :
    (m.clear lo len).read z = if lo ≤ z ∧ z < lo + len then Memory.unlisted else m.read z := by
  unfold Memory.clear
  rw [Memory.read_filter m _ (fun x => !(decide (lo ≤ x) && decide (x < lo + len))) (fun _ => rfl)]
  by_cases hz : lo ≤ z ∧ z < lo + len
  · simp [hz.1, hz.2]
  · rw [if_neg hz, if_pos (by simp only [Bool.not_eq_true', Bool.and_eq_false_iff, decide_eq_false_iff_not]; omega)]

/-! ### Equal memories are equal data -/

theorem Memory.read_below {m : Memory} {lo x : Nat} (hm : m.wfFrom lo = true) (h : x < lo) : m.read x = Memory.unlisted := by
  induction m generalizing lo with
  | nil => rfl
  | cons c m ih =>
    obtain ⟨a, b⟩ := c
    have hc := (Memory.wfFrom_cons ..).1 hm
    rw [Memory.read, if_neg (by omega), ih hc.2.2 (by omega)]

/-- Memories in canonical form that read alike everywhere are equal. -/
theorem Memory.ext_of_read {m m' : Memory} {lo lo' : Nat} (h : m.wfFrom lo = true) (h' : m'.wfFrom lo' = true)
    (hr : ∀ z, m.read z = m'.read z) : m = m' := by
  induction m generalizing m' lo lo' with
  | nil =>
    cases m' with
    | nil => rfl
    | cons c m' =>
      obtain ⟨a, b⟩ := c
      have hc := (Memory.wfFrom_cons ..).1 h'
      have := hr a
      simp only [Memory.read, if_true] at this
      exact absurd this.symm hc.2.1
  | cons c m ih =>
    obtain ⟨a, b⟩ := c
    have hc := (Memory.wfFrom_cons ..).1 h
    cases m' with
    | nil =>
      have := hr a
      simp only [Memory.read, if_true] at this
      exact absurd this hc.2.1
    | cons c' m' =>
      obtain ⟨a', b'⟩ := c'
      have hc' := (Memory.wfFrom_cons ..).1 h'
      have haa : a = a' := by
        have h1 := hr a
        have h2 := hr a'
        simp only [Memory.read, if_true] at h1 h2
        rcases Nat.lt_trichotomy a a' with hlt | heq | hgt
        · rw [if_neg (by omega), Memory.read_below hc'.2.2 (by omega)] at h1; exact absurd h1 hc.2.1
        · exact heq
        · rw [if_neg (by omega), Memory.read_below hc.2.2 (by omega)] at h2; exact absurd h2.symm hc'.2.1
      subst haa
      have hbb : b = b' := by have := hr a; simpa [Memory.read] using this
      subst hbb
      congr 1
      refine ih hc.2.2 hc'.2.2 fun z => ?_
      by_cases hz : z < a + 1
      · rw [Memory.read_below hc.2.2 hz, Memory.read_below hc'.2.2 hz]
      · have := hr z
        simp only [Memory.read] at this
        rwa [if_neg (by omega), if_neg (by omega)] at this

/-- Writing what is there changes nothing. -/
theorem Memory.write_read_self {m : Memory} (h : m.wf = true) (x : Nat) : m.write x (m.read x) = m := by
  refine Memory.ext_of_read (Memory.wf_write h ..) h fun z => ?_
  rw [Memory.read_write]
  split
  · rw [‹z = x›]
  · rfl

/-- Writes to different places commute. -/
theorem Memory.write_comm {m : Memory} (h : m.wf = true) {x x' : Nat} (hx : x ≠ x') (y y' : Byte) :
    (m.write x y).write x' y' = (m.write x' y').write x y := by
  refine Memory.ext_of_read (Memory.wf_write (Memory.wf_write h ..) ..) (Memory.wf_write (Memory.wf_write h ..) ..) fun z => ?_
  simp only [Memory.read_write]
  by_cases h1 : z = x
  · subst h1; rw [if_pos rfl, if_neg hx, if_pos rfl]
  · rw [if_neg h1, if_neg h1]

end Sys2Proof.Machine
end

