-- ==== Sys2Proof/Laws/State.lean ====
section
/-!
SUPPORT. What each update of the state changes, field by field, so that no proof unfolds a record update.
-/

namespace Sys2Proof.Machine

/-! ### `setRegs` -/

@[simp] theorem setRegs_tile_regs (s : State) (x : Regs) : (s.setRegs x).tile.regs = x := rfl
@[simp] theorem setRegs_tile_matrix (s : State) (x : Regs) : (s.setRegs x).tile.matrix = s.tile.matrix := rfl
@[simp] theorem setRegs_tile_ports (s : State) (x : Regs) : (s.setRegs x).tile.ports = s.tile.ports := rfl
@[simp] theorem setRegs_tile_ctx (s : State) (x : Regs) : (s.setRegs x).tile.ctx = s.tile.ctx := rfl
@[simp] theorem setRegs_tile_csr (s : State) (x : Regs) : (s.setRegs x).tile.csr = s.tile.csr := rfl
@[simp] theorem setRegs_tile_front (s : State) (x : Regs) : (s.setRegs x).tile.front = s.tile.front := rfl
@[simp] theorem setRegs_tile_wait (s : State) (x : Regs) : (s.setRegs x).tile.wait = s.tile.wait := rfl
@[simp] theorem setRegs_tile_eng (s : State) (x : Regs) : (s.setRegs x).tile.eng = s.tile.eng := rfl
@[simp] theorem setRegs_tile_seq (s : State) (x : Regs) : (s.setRegs x).tile.seq = s.tile.seq := rfl
@[simp] theorem setRegs_tile_net (s : State) (x : Regs) : (s.setRegs x).tile.net = s.tile.net := rfl
@[simp] theorem setRegs_tile_pend (s : State) (x : Regs) : (s.setRegs x).tile.pend = s.tile.pend := rfl
@[simp] theorem setRegs_tile_path (s : State) (x : Regs) : (s.setRegs x).tile.path = s.tile.path := rfl
@[simp] theorem setRegs_tile_res (s : State) (x : Regs) : (s.setRegs x).tile.res = s.tile.res := rfl
@[simp] theorem setRegs_tile_power (s : State) (x : Regs) : (s.setRegs x).tile.power = s.tile.power := rfl
@[simp] theorem setRegs_mem (s : State) (x : Regs) : (s.setRegs x).mem = s.mem := rfl
@[simp] theorem setRegs_hub (s : State) (x : Regs) : (s.setRegs x).hub = s.hub := rfl
@[simp] theorem setRegs_cycle (s : State) (x : Regs) : (s.setRegs x).cycle = s.cycle := rfl
@[simp] theorem setRegs_free (s : State) (x : Regs) : (s.setRegs x).free = s.free := rfl
@[simp] theorem setRegs_inputs (s : State) (x : Regs) : (s.setRegs x).inputs = s.inputs := rfl

/-! ### `setMatrix` -/

@[simp] theorem setMatrix_tile_regs (s : State) (x : MatrixUnit) : (s.setMatrix x).tile.regs = s.tile.regs := rfl
@[simp] theorem setMatrix_tile_matrix (s : State) (x : MatrixUnit) : (s.setMatrix x).tile.matrix = x := rfl
@[simp] theorem setMatrix_tile_ports (s : State) (x : MatrixUnit) : (s.setMatrix x).tile.ports = s.tile.ports := rfl
@[simp] theorem setMatrix_tile_ctx (s : State) (x : MatrixUnit) : (s.setMatrix x).tile.ctx = s.tile.ctx := rfl
@[simp] theorem setMatrix_tile_csr (s : State) (x : MatrixUnit) : (s.setMatrix x).tile.csr = s.tile.csr := rfl
@[simp] theorem setMatrix_tile_front (s : State) (x : MatrixUnit) : (s.setMatrix x).tile.front = s.tile.front := rfl
@[simp] theorem setMatrix_tile_wait (s : State) (x : MatrixUnit) : (s.setMatrix x).tile.wait = s.tile.wait := rfl
@[simp] theorem setMatrix_tile_eng (s : State) (x : MatrixUnit) : (s.setMatrix x).tile.eng = s.tile.eng := rfl
@[simp] theorem setMatrix_tile_seq (s : State) (x : MatrixUnit) : (s.setMatrix x).tile.seq = s.tile.seq := rfl
@[simp] theorem setMatrix_tile_net (s : State) (x : MatrixUnit) : (s.setMatrix x).tile.net = s.tile.net := rfl
@[simp] theorem setMatrix_tile_pend (s : State) (x : MatrixUnit) : (s.setMatrix x).tile.pend = s.tile.pend := rfl
@[simp] theorem setMatrix_tile_path (s : State) (x : MatrixUnit) : (s.setMatrix x).tile.path = s.tile.path := rfl
@[simp] theorem setMatrix_tile_res (s : State) (x : MatrixUnit) : (s.setMatrix x).tile.res = s.tile.res := rfl
@[simp] theorem setMatrix_tile_power (s : State) (x : MatrixUnit) : (s.setMatrix x).tile.power = s.tile.power := rfl
@[simp] theorem setMatrix_mem (s : State) (x : MatrixUnit) : (s.setMatrix x).mem = s.mem := rfl
@[simp] theorem setMatrix_hub (s : State) (x : MatrixUnit) : (s.setMatrix x).hub = s.hub := rfl
@[simp] theorem setMatrix_cycle (s : State) (x : MatrixUnit) : (s.setMatrix x).cycle = s.cycle := rfl
@[simp] theorem setMatrix_free (s : State) (x : MatrixUnit) : (s.setMatrix x).free = s.free := rfl
@[simp] theorem setMatrix_inputs (s : State) (x : MatrixUnit) : (s.setMatrix x).inputs = s.inputs := rfl

/-! ### `setPorts` -/

@[simp] theorem setPorts_tile_regs (s : State) (x : Ports) : (s.setPorts x).tile.regs = s.tile.regs := rfl
@[simp] theorem setPorts_tile_matrix (s : State) (x : Ports) : (s.setPorts x).tile.matrix = s.tile.matrix := rfl
@[simp] theorem setPorts_tile_ports (s : State) (x : Ports) : (s.setPorts x).tile.ports = x := rfl
@[simp] theorem setPorts_tile_ctx (s : State) (x : Ports) : (s.setPorts x).tile.ctx = s.tile.ctx := rfl
@[simp] theorem setPorts_tile_csr (s : State) (x : Ports) : (s.setPorts x).tile.csr = s.tile.csr := rfl
@[simp] theorem setPorts_tile_front (s : State) (x : Ports) : (s.setPorts x).tile.front = s.tile.front := rfl
@[simp] theorem setPorts_tile_wait (s : State) (x : Ports) : (s.setPorts x).tile.wait = s.tile.wait := rfl
@[simp] theorem setPorts_tile_eng (s : State) (x : Ports) : (s.setPorts x).tile.eng = s.tile.eng := rfl
@[simp] theorem setPorts_tile_seq (s : State) (x : Ports) : (s.setPorts x).tile.seq = s.tile.seq := rfl
@[simp] theorem setPorts_tile_net (s : State) (x : Ports) : (s.setPorts x).tile.net = s.tile.net := rfl
@[simp] theorem setPorts_tile_pend (s : State) (x : Ports) : (s.setPorts x).tile.pend = s.tile.pend := rfl
@[simp] theorem setPorts_tile_path (s : State) (x : Ports) : (s.setPorts x).tile.path = s.tile.path := rfl
@[simp] theorem setPorts_tile_res (s : State) (x : Ports) : (s.setPorts x).tile.res = s.tile.res := rfl
@[simp] theorem setPorts_tile_power (s : State) (x : Ports) : (s.setPorts x).tile.power = s.tile.power := rfl
@[simp] theorem setPorts_mem (s : State) (x : Ports) : (s.setPorts x).mem = s.mem := rfl
@[simp] theorem setPorts_hub (s : State) (x : Ports) : (s.setPorts x).hub = s.hub := rfl
@[simp] theorem setPorts_cycle (s : State) (x : Ports) : (s.setPorts x).cycle = s.cycle := rfl
@[simp] theorem setPorts_free (s : State) (x : Ports) : (s.setPorts x).free = s.free := rfl
@[simp] theorem setPorts_inputs (s : State) (x : Ports) : (s.setPorts x).inputs = s.inputs := rfl

/-! ### `setCtx` -/

@[simp] theorem setCtx_tile_regs (s : State) (x : CtxCsrs) : (s.setCtx x).tile.regs = s.tile.regs := rfl
@[simp] theorem setCtx_tile_matrix (s : State) (x : CtxCsrs) : (s.setCtx x).tile.matrix = s.tile.matrix := rfl
@[simp] theorem setCtx_tile_ports (s : State) (x : CtxCsrs) : (s.setCtx x).tile.ports = s.tile.ports := rfl
@[simp] theorem setCtx_tile_ctx (s : State) (x : CtxCsrs) : (s.setCtx x).tile.ctx = x := rfl
@[simp] theorem setCtx_tile_csr (s : State) (x : CtxCsrs) : (s.setCtx x).tile.csr = s.tile.csr := rfl
@[simp] theorem setCtx_tile_front (s : State) (x : CtxCsrs) : (s.setCtx x).tile.front = s.tile.front := rfl
@[simp] theorem setCtx_tile_wait (s : State) (x : CtxCsrs) : (s.setCtx x).tile.wait = s.tile.wait := rfl
@[simp] theorem setCtx_tile_eng (s : State) (x : CtxCsrs) : (s.setCtx x).tile.eng = s.tile.eng := rfl
@[simp] theorem setCtx_tile_seq (s : State) (x : CtxCsrs) : (s.setCtx x).tile.seq = s.tile.seq := rfl
@[simp] theorem setCtx_tile_net (s : State) (x : CtxCsrs) : (s.setCtx x).tile.net = s.tile.net := rfl
@[simp] theorem setCtx_tile_pend (s : State) (x : CtxCsrs) : (s.setCtx x).tile.pend = s.tile.pend := rfl
@[simp] theorem setCtx_tile_path (s : State) (x : CtxCsrs) : (s.setCtx x).tile.path = s.tile.path := rfl
@[simp] theorem setCtx_tile_res (s : State) (x : CtxCsrs) : (s.setCtx x).tile.res = s.tile.res := rfl
@[simp] theorem setCtx_tile_power (s : State) (x : CtxCsrs) : (s.setCtx x).tile.power = s.tile.power := rfl
@[simp] theorem setCtx_mem (s : State) (x : CtxCsrs) : (s.setCtx x).mem = s.mem := rfl
@[simp] theorem setCtx_hub (s : State) (x : CtxCsrs) : (s.setCtx x).hub = s.hub := rfl
@[simp] theorem setCtx_cycle (s : State) (x : CtxCsrs) : (s.setCtx x).cycle = s.cycle := rfl
@[simp] theorem setCtx_free (s : State) (x : CtxCsrs) : (s.setCtx x).free = s.free := rfl
@[simp] theorem setCtx_inputs (s : State) (x : CtxCsrs) : (s.setCtx x).inputs = s.inputs := rfl

/-! ### `setCsr` -/

@[simp] theorem setCsr_tile_regs (s : State) (x : TileCsrs) : (s.setCsr x).tile.regs = s.tile.regs := rfl
@[simp] theorem setCsr_tile_matrix (s : State) (x : TileCsrs) : (s.setCsr x).tile.matrix = s.tile.matrix := rfl
@[simp] theorem setCsr_tile_ports (s : State) (x : TileCsrs) : (s.setCsr x).tile.ports = s.tile.ports := rfl
@[simp] theorem setCsr_tile_ctx (s : State) (x : TileCsrs) : (s.setCsr x).tile.ctx = s.tile.ctx := rfl
@[simp] theorem setCsr_tile_csr (s : State) (x : TileCsrs) : (s.setCsr x).tile.csr = x := rfl
@[simp] theorem setCsr_tile_front (s : State) (x : TileCsrs) : (s.setCsr x).tile.front = s.tile.front := rfl
@[simp] theorem setCsr_tile_wait (s : State) (x : TileCsrs) : (s.setCsr x).tile.wait = s.tile.wait := rfl
@[simp] theorem setCsr_tile_eng (s : State) (x : TileCsrs) : (s.setCsr x).tile.eng = s.tile.eng := rfl
@[simp] theorem setCsr_tile_seq (s : State) (x : TileCsrs) : (s.setCsr x).tile.seq = s.tile.seq := rfl
@[simp] theorem setCsr_tile_net (s : State) (x : TileCsrs) : (s.setCsr x).tile.net = s.tile.net := rfl
@[simp] theorem setCsr_tile_pend (s : State) (x : TileCsrs) : (s.setCsr x).tile.pend = s.tile.pend := rfl
@[simp] theorem setCsr_tile_path (s : State) (x : TileCsrs) : (s.setCsr x).tile.path = s.tile.path := rfl
@[simp] theorem setCsr_tile_res (s : State) (x : TileCsrs) : (s.setCsr x).tile.res = s.tile.res := rfl
@[simp] theorem setCsr_tile_power (s : State) (x : TileCsrs) : (s.setCsr x).tile.power = s.tile.power := rfl
@[simp] theorem setCsr_mem (s : State) (x : TileCsrs) : (s.setCsr x).mem = s.mem := rfl
@[simp] theorem setCsr_hub (s : State) (x : TileCsrs) : (s.setCsr x).hub = s.hub := rfl
@[simp] theorem setCsr_cycle (s : State) (x : TileCsrs) : (s.setCsr x).cycle = s.cycle := rfl
@[simp] theorem setCsr_free (s : State) (x : TileCsrs) : (s.setCsr x).free = s.free := rfl
@[simp] theorem setCsr_inputs (s : State) (x : TileCsrs) : (s.setCsr x).inputs = s.inputs := rfl

/-! ### `setFront` -/

@[simp] theorem setFront_tile_regs (s : State) (x : Front) : (s.setFront x).tile.regs = s.tile.regs := rfl
@[simp] theorem setFront_tile_matrix (s : State) (x : Front) : (s.setFront x).tile.matrix = s.tile.matrix := rfl
@[simp] theorem setFront_tile_ports (s : State) (x : Front) : (s.setFront x).tile.ports = s.tile.ports := rfl
@[simp] theorem setFront_tile_ctx (s : State) (x : Front) : (s.setFront x).tile.ctx = s.tile.ctx := rfl
@[simp] theorem setFront_tile_csr (s : State) (x : Front) : (s.setFront x).tile.csr = s.tile.csr := rfl
@[simp] theorem setFront_tile_front (s : State) (x : Front) : (s.setFront x).tile.front = x := rfl
@[simp] theorem setFront_tile_wait (s : State) (x : Front) : (s.setFront x).tile.wait = s.tile.wait := rfl
@[simp] theorem setFront_tile_eng (s : State) (x : Front) : (s.setFront x).tile.eng = s.tile.eng := rfl
@[simp] theorem setFront_tile_seq (s : State) (x : Front) : (s.setFront x).tile.seq = s.tile.seq := rfl
@[simp] theorem setFront_tile_net (s : State) (x : Front) : (s.setFront x).tile.net = s.tile.net := rfl
@[simp] theorem setFront_tile_pend (s : State) (x : Front) : (s.setFront x).tile.pend = s.tile.pend := rfl
@[simp] theorem setFront_tile_path (s : State) (x : Front) : (s.setFront x).tile.path = s.tile.path := rfl
@[simp] theorem setFront_tile_res (s : State) (x : Front) : (s.setFront x).tile.res = s.tile.res := rfl
@[simp] theorem setFront_tile_power (s : State) (x : Front) : (s.setFront x).tile.power = s.tile.power := rfl
@[simp] theorem setFront_mem (s : State) (x : Front) : (s.setFront x).mem = s.mem := rfl
@[simp] theorem setFront_hub (s : State) (x : Front) : (s.setFront x).hub = s.hub := rfl
@[simp] theorem setFront_cycle (s : State) (x : Front) : (s.setFront x).cycle = s.cycle := rfl
@[simp] theorem setFront_free (s : State) (x : Front) : (s.setFront x).free = s.free := rfl
@[simp] theorem setFront_inputs (s : State) (x : Front) : (s.setFront x).inputs = s.inputs := rfl

/-! ### `setWait` -/

@[simp] theorem setWait_tile_regs (s : State) (x : Wait) : (s.setWait x).tile.regs = s.tile.regs := rfl
@[simp] theorem setWait_tile_matrix (s : State) (x : Wait) : (s.setWait x).tile.matrix = s.tile.matrix := rfl
@[simp] theorem setWait_tile_ports (s : State) (x : Wait) : (s.setWait x).tile.ports = s.tile.ports := rfl
@[simp] theorem setWait_tile_ctx (s : State) (x : Wait) : (s.setWait x).tile.ctx = s.tile.ctx := rfl
@[simp] theorem setWait_tile_csr (s : State) (x : Wait) : (s.setWait x).tile.csr = s.tile.csr := rfl
@[simp] theorem setWait_tile_front (s : State) (x : Wait) : (s.setWait x).tile.front = s.tile.front := rfl
@[simp] theorem setWait_tile_wait (s : State) (x : Wait) : (s.setWait x).tile.wait = x := rfl
@[simp] theorem setWait_tile_eng (s : State) (x : Wait) : (s.setWait x).tile.eng = s.tile.eng := rfl
@[simp] theorem setWait_tile_seq (s : State) (x : Wait) : (s.setWait x).tile.seq = s.tile.seq := rfl
@[simp] theorem setWait_tile_net (s : State) (x : Wait) : (s.setWait x).tile.net = s.tile.net := rfl
@[simp] theorem setWait_tile_pend (s : State) (x : Wait) : (s.setWait x).tile.pend = s.tile.pend := rfl
@[simp] theorem setWait_tile_path (s : State) (x : Wait) : (s.setWait x).tile.path = s.tile.path := rfl
@[simp] theorem setWait_tile_res (s : State) (x : Wait) : (s.setWait x).tile.res = s.tile.res := rfl
@[simp] theorem setWait_tile_power (s : State) (x : Wait) : (s.setWait x).tile.power = s.tile.power := rfl
@[simp] theorem setWait_mem (s : State) (x : Wait) : (s.setWait x).mem = s.mem := rfl
@[simp] theorem setWait_hub (s : State) (x : Wait) : (s.setWait x).hub = s.hub := rfl
@[simp] theorem setWait_cycle (s : State) (x : Wait) : (s.setWait x).cycle = s.cycle := rfl
@[simp] theorem setWait_free (s : State) (x : Wait) : (s.setWait x).free = s.free := rfl
@[simp] theorem setWait_inputs (s : State) (x : Wait) : (s.setWait x).inputs = s.inputs := rfl

/-! ### `setEng` -/

@[simp] theorem setEng_tile_regs (s : State) (x : Engines) : (s.setEng x).tile.regs = s.tile.regs := rfl
@[simp] theorem setEng_tile_matrix (s : State) (x : Engines) : (s.setEng x).tile.matrix = s.tile.matrix := rfl
@[simp] theorem setEng_tile_ports (s : State) (x : Engines) : (s.setEng x).tile.ports = s.tile.ports := rfl
@[simp] theorem setEng_tile_ctx (s : State) (x : Engines) : (s.setEng x).tile.ctx = s.tile.ctx := rfl
@[simp] theorem setEng_tile_csr (s : State) (x : Engines) : (s.setEng x).tile.csr = s.tile.csr := rfl
@[simp] theorem setEng_tile_front (s : State) (x : Engines) : (s.setEng x).tile.front = s.tile.front := rfl
@[simp] theorem setEng_tile_wait (s : State) (x : Engines) : (s.setEng x).tile.wait = s.tile.wait := rfl
@[simp] theorem setEng_tile_eng (s : State) (x : Engines) : (s.setEng x).tile.eng = x := rfl
@[simp] theorem setEng_tile_seq (s : State) (x : Engines) : (s.setEng x).tile.seq = s.tile.seq := rfl
@[simp] theorem setEng_tile_net (s : State) (x : Engines) : (s.setEng x).tile.net = s.tile.net := rfl
@[simp] theorem setEng_tile_pend (s : State) (x : Engines) : (s.setEng x).tile.pend = s.tile.pend := rfl
@[simp] theorem setEng_tile_path (s : State) (x : Engines) : (s.setEng x).tile.path = s.tile.path := rfl
@[simp] theorem setEng_tile_res (s : State) (x : Engines) : (s.setEng x).tile.res = s.tile.res := rfl
@[simp] theorem setEng_tile_power (s : State) (x : Engines) : (s.setEng x).tile.power = s.tile.power := rfl
@[simp] theorem setEng_mem (s : State) (x : Engines) : (s.setEng x).mem = s.mem := rfl
@[simp] theorem setEng_hub (s : State) (x : Engines) : (s.setEng x).hub = s.hub := rfl
@[simp] theorem setEng_cycle (s : State) (x : Engines) : (s.setEng x).cycle = s.cycle := rfl
@[simp] theorem setEng_free (s : State) (x : Engines) : (s.setEng x).free = s.free := rfl
@[simp] theorem setEng_inputs (s : State) (x : Engines) : (s.setEng x).inputs = s.inputs := rfl

/-! ### `setSeq` -/

@[simp] theorem setSeq_tile_regs (s : State) (x : Sequencer) : (s.setSeq x).tile.regs = s.tile.regs := rfl
@[simp] theorem setSeq_tile_matrix (s : State) (x : Sequencer) : (s.setSeq x).tile.matrix = s.tile.matrix := rfl
@[simp] theorem setSeq_tile_ports (s : State) (x : Sequencer) : (s.setSeq x).tile.ports = s.tile.ports := rfl
@[simp] theorem setSeq_tile_ctx (s : State) (x : Sequencer) : (s.setSeq x).tile.ctx = s.tile.ctx := rfl
@[simp] theorem setSeq_tile_csr (s : State) (x : Sequencer) : (s.setSeq x).tile.csr = s.tile.csr := rfl
@[simp] theorem setSeq_tile_front (s : State) (x : Sequencer) : (s.setSeq x).tile.front = s.tile.front := rfl
@[simp] theorem setSeq_tile_wait (s : State) (x : Sequencer) : (s.setSeq x).tile.wait = s.tile.wait := rfl
@[simp] theorem setSeq_tile_eng (s : State) (x : Sequencer) : (s.setSeq x).tile.eng = s.tile.eng := rfl
@[simp] theorem setSeq_tile_seq (s : State) (x : Sequencer) : (s.setSeq x).tile.seq = x := rfl
@[simp] theorem setSeq_tile_net (s : State) (x : Sequencer) : (s.setSeq x).tile.net = s.tile.net := rfl
@[simp] theorem setSeq_tile_pend (s : State) (x : Sequencer) : (s.setSeq x).tile.pend = s.tile.pend := rfl
@[simp] theorem setSeq_tile_path (s : State) (x : Sequencer) : (s.setSeq x).tile.path = s.tile.path := rfl
@[simp] theorem setSeq_tile_res (s : State) (x : Sequencer) : (s.setSeq x).tile.res = s.tile.res := rfl
@[simp] theorem setSeq_tile_power (s : State) (x : Sequencer) : (s.setSeq x).tile.power = s.tile.power := rfl
@[simp] theorem setSeq_mem (s : State) (x : Sequencer) : (s.setSeq x).mem = s.mem := rfl
@[simp] theorem setSeq_hub (s : State) (x : Sequencer) : (s.setSeq x).hub = s.hub := rfl
@[simp] theorem setSeq_cycle (s : State) (x : Sequencer) : (s.setSeq x).cycle = s.cycle := rfl
@[simp] theorem setSeq_free (s : State) (x : Sequencer) : (s.setSeq x).free = s.free := rfl
@[simp] theorem setSeq_inputs (s : State) (x : Sequencer) : (s.setSeq x).inputs = s.inputs := rfl

/-! ### `setNet` -/

@[simp] theorem setNet_tile_regs (s : State) (x : Net) : (s.setNet x).tile.regs = s.tile.regs := rfl
@[simp] theorem setNet_tile_matrix (s : State) (x : Net) : (s.setNet x).tile.matrix = s.tile.matrix := rfl
@[simp] theorem setNet_tile_ports (s : State) (x : Net) : (s.setNet x).tile.ports = s.tile.ports := rfl
@[simp] theorem setNet_tile_ctx (s : State) (x : Net) : (s.setNet x).tile.ctx = s.tile.ctx := rfl
@[simp] theorem setNet_tile_csr (s : State) (x : Net) : (s.setNet x).tile.csr = s.tile.csr := rfl
@[simp] theorem setNet_tile_front (s : State) (x : Net) : (s.setNet x).tile.front = s.tile.front := rfl
@[simp] theorem setNet_tile_wait (s : State) (x : Net) : (s.setNet x).tile.wait = s.tile.wait := rfl
@[simp] theorem setNet_tile_eng (s : State) (x : Net) : (s.setNet x).tile.eng = s.tile.eng := rfl
@[simp] theorem setNet_tile_seq (s : State) (x : Net) : (s.setNet x).tile.seq = s.tile.seq := rfl
@[simp] theorem setNet_tile_net (s : State) (x : Net) : (s.setNet x).tile.net = x := rfl
@[simp] theorem setNet_tile_pend (s : State) (x : Net) : (s.setNet x).tile.pend = s.tile.pend := rfl
@[simp] theorem setNet_tile_path (s : State) (x : Net) : (s.setNet x).tile.path = s.tile.path := rfl
@[simp] theorem setNet_tile_res (s : State) (x : Net) : (s.setNet x).tile.res = s.tile.res := rfl
@[simp] theorem setNet_tile_power (s : State) (x : Net) : (s.setNet x).tile.power = s.tile.power := rfl
@[simp] theorem setNet_mem (s : State) (x : Net) : (s.setNet x).mem = s.mem := rfl
@[simp] theorem setNet_hub (s : State) (x : Net) : (s.setNet x).hub = s.hub := rfl
@[simp] theorem setNet_cycle (s : State) (x : Net) : (s.setNet x).cycle = s.cycle := rfl
@[simp] theorem setNet_free (s : State) (x : Net) : (s.setNet x).free = s.free := rfl
@[simp] theorem setNet_inputs (s : State) (x : Net) : (s.setNet x).inputs = s.inputs := rfl

/-! ### `setPend` -/

@[simp] theorem setPend_tile_regs (s : State) (x : Pending) : (s.setPend x).tile.regs = s.tile.regs := rfl
@[simp] theorem setPend_tile_matrix (s : State) (x : Pending) : (s.setPend x).tile.matrix = s.tile.matrix := rfl
@[simp] theorem setPend_tile_ports (s : State) (x : Pending) : (s.setPend x).tile.ports = s.tile.ports := rfl
@[simp] theorem setPend_tile_ctx (s : State) (x : Pending) : (s.setPend x).tile.ctx = s.tile.ctx := rfl
@[simp] theorem setPend_tile_csr (s : State) (x : Pending) : (s.setPend x).tile.csr = s.tile.csr := rfl
@[simp] theorem setPend_tile_front (s : State) (x : Pending) : (s.setPend x).tile.front = s.tile.front := rfl
@[simp] theorem setPend_tile_wait (s : State) (x : Pending) : (s.setPend x).tile.wait = s.tile.wait := rfl
@[simp] theorem setPend_tile_eng (s : State) (x : Pending) : (s.setPend x).tile.eng = s.tile.eng := rfl
@[simp] theorem setPend_tile_seq (s : State) (x : Pending) : (s.setPend x).tile.seq = s.tile.seq := rfl
@[simp] theorem setPend_tile_net (s : State) (x : Pending) : (s.setPend x).tile.net = s.tile.net := rfl
@[simp] theorem setPend_tile_pend (s : State) (x : Pending) : (s.setPend x).tile.pend = x := rfl
@[simp] theorem setPend_tile_path (s : State) (x : Pending) : (s.setPend x).tile.path = s.tile.path := rfl
@[simp] theorem setPend_tile_res (s : State) (x : Pending) : (s.setPend x).tile.res = s.tile.res := rfl
@[simp] theorem setPend_tile_power (s : State) (x : Pending) : (s.setPend x).tile.power = s.tile.power := rfl
@[simp] theorem setPend_mem (s : State) (x : Pending) : (s.setPend x).mem = s.mem := rfl
@[simp] theorem setPend_hub (s : State) (x : Pending) : (s.setPend x).hub = s.hub := rfl
@[simp] theorem setPend_cycle (s : State) (x : Pending) : (s.setPend x).cycle = s.cycle := rfl
@[simp] theorem setPend_free (s : State) (x : Pending) : (s.setPend x).free = s.free := rfl
@[simp] theorem setPend_inputs (s : State) (x : Pending) : (s.setPend x).inputs = s.inputs := rfl

/-! ### `setPath` -/

@[simp] theorem setPath_tile_regs (s : State) (x : MemPath) : (s.setPath x).tile.regs = s.tile.regs := rfl
@[simp] theorem setPath_tile_matrix (s : State) (x : MemPath) : (s.setPath x).tile.matrix = s.tile.matrix := rfl
@[simp] theorem setPath_tile_ports (s : State) (x : MemPath) : (s.setPath x).tile.ports = s.tile.ports := rfl
@[simp] theorem setPath_tile_ctx (s : State) (x : MemPath) : (s.setPath x).tile.ctx = s.tile.ctx := rfl
@[simp] theorem setPath_tile_csr (s : State) (x : MemPath) : (s.setPath x).tile.csr = s.tile.csr := rfl
@[simp] theorem setPath_tile_front (s : State) (x : MemPath) : (s.setPath x).tile.front = s.tile.front := rfl
@[simp] theorem setPath_tile_wait (s : State) (x : MemPath) : (s.setPath x).tile.wait = s.tile.wait := rfl
@[simp] theorem setPath_tile_eng (s : State) (x : MemPath) : (s.setPath x).tile.eng = s.tile.eng := rfl
@[simp] theorem setPath_tile_seq (s : State) (x : MemPath) : (s.setPath x).tile.seq = s.tile.seq := rfl
@[simp] theorem setPath_tile_net (s : State) (x : MemPath) : (s.setPath x).tile.net = s.tile.net := rfl
@[simp] theorem setPath_tile_pend (s : State) (x : MemPath) : (s.setPath x).tile.pend = s.tile.pend := rfl
@[simp] theorem setPath_tile_path (s : State) (x : MemPath) : (s.setPath x).tile.path = x := rfl
@[simp] theorem setPath_tile_res (s : State) (x : MemPath) : (s.setPath x).tile.res = s.tile.res := rfl
@[simp] theorem setPath_tile_power (s : State) (x : MemPath) : (s.setPath x).tile.power = s.tile.power := rfl
@[simp] theorem setPath_mem (s : State) (x : MemPath) : (s.setPath x).mem = s.mem := rfl
@[simp] theorem setPath_hub (s : State) (x : MemPath) : (s.setPath x).hub = s.hub := rfl
@[simp] theorem setPath_cycle (s : State) (x : MemPath) : (s.setPath x).cycle = s.cycle := rfl
@[simp] theorem setPath_free (s : State) (x : MemPath) : (s.setPath x).free = s.free := rfl
@[simp] theorem setPath_inputs (s : State) (x : MemPath) : (s.setPath x).inputs = s.inputs := rfl

/-! ### `setRes` -/

@[simp] theorem setRes_tile_regs (s : State) (x : Residence) : (s.setRes x).tile.regs = s.tile.regs := rfl
@[simp] theorem setRes_tile_matrix (s : State) (x : Residence) : (s.setRes x).tile.matrix = s.tile.matrix := rfl
@[simp] theorem setRes_tile_ports (s : State) (x : Residence) : (s.setRes x).tile.ports = s.tile.ports := rfl
@[simp] theorem setRes_tile_ctx (s : State) (x : Residence) : (s.setRes x).tile.ctx = s.tile.ctx := rfl
@[simp] theorem setRes_tile_csr (s : State) (x : Residence) : (s.setRes x).tile.csr = s.tile.csr := rfl
@[simp] theorem setRes_tile_front (s : State) (x : Residence) : (s.setRes x).tile.front = s.tile.front := rfl
@[simp] theorem setRes_tile_wait (s : State) (x : Residence) : (s.setRes x).tile.wait = s.tile.wait := rfl
@[simp] theorem setRes_tile_eng (s : State) (x : Residence) : (s.setRes x).tile.eng = s.tile.eng := rfl
@[simp] theorem setRes_tile_seq (s : State) (x : Residence) : (s.setRes x).tile.seq = s.tile.seq := rfl
@[simp] theorem setRes_tile_net (s : State) (x : Residence) : (s.setRes x).tile.net = s.tile.net := rfl
@[simp] theorem setRes_tile_pend (s : State) (x : Residence) : (s.setRes x).tile.pend = s.tile.pend := rfl
@[simp] theorem setRes_tile_path (s : State) (x : Residence) : (s.setRes x).tile.path = s.tile.path := rfl
@[simp] theorem setRes_tile_res (s : State) (x : Residence) : (s.setRes x).tile.res = x := rfl
@[simp] theorem setRes_tile_power (s : State) (x : Residence) : (s.setRes x).tile.power = s.tile.power := rfl
@[simp] theorem setRes_mem (s : State) (x : Residence) : (s.setRes x).mem = s.mem := rfl
@[simp] theorem setRes_hub (s : State) (x : Residence) : (s.setRes x).hub = s.hub := rfl
@[simp] theorem setRes_cycle (s : State) (x : Residence) : (s.setRes x).cycle = s.cycle := rfl
@[simp] theorem setRes_free (s : State) (x : Residence) : (s.setRes x).free = s.free := rfl
@[simp] theorem setRes_inputs (s : State) (x : Residence) : (s.setRes x).inputs = s.inputs := rfl

/-! ### `setPower` -/

@[simp] theorem setPower_tile_regs (s : State) (x : TilePower) : (s.setPower x).tile.regs = s.tile.regs := rfl
@[simp] theorem setPower_tile_matrix (s : State) (x : TilePower) : (s.setPower x).tile.matrix = s.tile.matrix := rfl
@[simp] theorem setPower_tile_ports (s : State) (x : TilePower) : (s.setPower x).tile.ports = s.tile.ports := rfl
@[simp] theorem setPower_tile_ctx (s : State) (x : TilePower) : (s.setPower x).tile.ctx = s.tile.ctx := rfl
@[simp] theorem setPower_tile_csr (s : State) (x : TilePower) : (s.setPower x).tile.csr = s.tile.csr := rfl
@[simp] theorem setPower_tile_front (s : State) (x : TilePower) : (s.setPower x).tile.front = s.tile.front := rfl
@[simp] theorem setPower_tile_wait (s : State) (x : TilePower) : (s.setPower x).tile.wait = s.tile.wait := rfl
@[simp] theorem setPower_tile_eng (s : State) (x : TilePower) : (s.setPower x).tile.eng = s.tile.eng := rfl
@[simp] theorem setPower_tile_seq (s : State) (x : TilePower) : (s.setPower x).tile.seq = s.tile.seq := rfl
@[simp] theorem setPower_tile_net (s : State) (x : TilePower) : (s.setPower x).tile.net = s.tile.net := rfl
@[simp] theorem setPower_tile_pend (s : State) (x : TilePower) : (s.setPower x).tile.pend = s.tile.pend := rfl
@[simp] theorem setPower_tile_path (s : State) (x : TilePower) : (s.setPower x).tile.path = s.tile.path := rfl
@[simp] theorem setPower_tile_res (s : State) (x : TilePower) : (s.setPower x).tile.res = s.tile.res := rfl
@[simp] theorem setPower_tile_power (s : State) (x : TilePower) : (s.setPower x).tile.power = x := rfl
@[simp] theorem setPower_mem (s : State) (x : TilePower) : (s.setPower x).mem = s.mem := rfl
@[simp] theorem setPower_hub (s : State) (x : TilePower) : (s.setPower x).hub = s.hub := rfl
@[simp] theorem setPower_cycle (s : State) (x : TilePower) : (s.setPower x).cycle = s.cycle := rfl
@[simp] theorem setPower_free (s : State) (x : TilePower) : (s.setPower x).free = s.free := rfl
@[simp] theorem setPower_inputs (s : State) (x : TilePower) : (s.setPower x).inputs = s.inputs := rfl

/-! ### `setFe` -/

@[simp] theorem setFe_hub_fe (s : State) (x : FrontEnd) : (s.setFe x).hub.fe = x := rfl
@[simp] theorem setFe_hub_boot (s : State) (x : FrontEnd) : (s.setFe x).hub.boot = s.hub.boot := rfl
@[simp] theorem setFe_hub_snap (s : State) (x : FrontEnd) : (s.setFe x).hub.snap = s.hub.snap := rfl
@[simp] theorem setFe_hub_power (s : State) (x : FrontEnd) : (s.setFe x).hub.power = s.hub.power := rfl
@[simp] theorem setFe_hub_strips (s : State) (x : FrontEnd) : (s.setFe x).hub.strips = s.hub.strips := rfl
@[simp] theorem setFe_hub_acu (s : State) (x : FrontEnd) : (s.setFe x).hub.acu = s.hub.acu := rfl
@[simp] theorem setFe_hub_disc (s : State) (x : FrontEnd) : (s.setFe x).hub.disc = s.hub.disc := rfl
@[simp] theorem setFe_hub_sweut (s : State) (x : FrontEnd) : (s.setFe x).hub.sweut = s.hub.sweut := rfl
@[simp] theorem setFe_hub_tags (s : State) (x : FrontEnd) : (s.setFe x).hub.tags = s.hub.tags := rfl
@[simp] theorem setFe_hub_errors (s : State) (x : FrontEnd) : (s.setFe x).hub.errors = s.hub.errors := rfl
@[simp] theorem setFe_tile (s : State) (x : FrontEnd) : (s.setFe x).tile = s.tile := rfl
@[simp] theorem setFe_mem (s : State) (x : FrontEnd) : (s.setFe x).mem = s.mem := rfl
@[simp] theorem setFe_cycle (s : State) (x : FrontEnd) : (s.setFe x).cycle = s.cycle := rfl
@[simp] theorem setFe_free (s : State) (x : FrontEnd) : (s.setFe x).free = s.free := rfl
@[simp] theorem setFe_inputs (s : State) (x : FrontEnd) : (s.setFe x).inputs = s.inputs := rfl

/-! ### `setBoot` -/

@[simp] theorem setBoot_hub_fe (s : State) (x : Boot) : (s.setBoot x).hub.fe = s.hub.fe := rfl
@[simp] theorem setBoot_hub_boot (s : State) (x : Boot) : (s.setBoot x).hub.boot = x := rfl
@[simp] theorem setBoot_hub_snap (s : State) (x : Boot) : (s.setBoot x).hub.snap = s.hub.snap := rfl
@[simp] theorem setBoot_hub_power (s : State) (x : Boot) : (s.setBoot x).hub.power = s.hub.power := rfl
@[simp] theorem setBoot_hub_strips (s : State) (x : Boot) : (s.setBoot x).hub.strips = s.hub.strips := rfl
@[simp] theorem setBoot_hub_acu (s : State) (x : Boot) : (s.setBoot x).hub.acu = s.hub.acu := rfl
@[simp] theorem setBoot_hub_disc (s : State) (x : Boot) : (s.setBoot x).hub.disc = s.hub.disc := rfl
@[simp] theorem setBoot_hub_sweut (s : State) (x : Boot) : (s.setBoot x).hub.sweut = s.hub.sweut := rfl
@[simp] theorem setBoot_hub_tags (s : State) (x : Boot) : (s.setBoot x).hub.tags = s.hub.tags := rfl
@[simp] theorem setBoot_hub_errors (s : State) (x : Boot) : (s.setBoot x).hub.errors = s.hub.errors := rfl
@[simp] theorem setBoot_tile (s : State) (x : Boot) : (s.setBoot x).tile = s.tile := rfl
@[simp] theorem setBoot_mem (s : State) (x : Boot) : (s.setBoot x).mem = s.mem := rfl
@[simp] theorem setBoot_cycle (s : State) (x : Boot) : (s.setBoot x).cycle = s.cycle := rfl
@[simp] theorem setBoot_free (s : State) (x : Boot) : (s.setBoot x).free = s.free := rfl
@[simp] theorem setBoot_inputs (s : State) (x : Boot) : (s.setBoot x).inputs = s.inputs := rfl

/-! ### `setSnap` -/

@[simp] theorem setSnap_hub_fe (s : State) (x : Snap) : (s.setSnap x).hub.fe = s.hub.fe := rfl
@[simp] theorem setSnap_hub_boot (s : State) (x : Snap) : (s.setSnap x).hub.boot = s.hub.boot := rfl
@[simp] theorem setSnap_hub_snap (s : State) (x : Snap) : (s.setSnap x).hub.snap = x := rfl
@[simp] theorem setSnap_hub_power (s : State) (x : Snap) : (s.setSnap x).hub.power = s.hub.power := rfl
@[simp] theorem setSnap_hub_strips (s : State) (x : Snap) : (s.setSnap x).hub.strips = s.hub.strips := rfl
@[simp] theorem setSnap_hub_acu (s : State) (x : Snap) : (s.setSnap x).hub.acu = s.hub.acu := rfl
@[simp] theorem setSnap_hub_disc (s : State) (x : Snap) : (s.setSnap x).hub.disc = s.hub.disc := rfl
@[simp] theorem setSnap_hub_sweut (s : State) (x : Snap) : (s.setSnap x).hub.sweut = s.hub.sweut := rfl
@[simp] theorem setSnap_hub_tags (s : State) (x : Snap) : (s.setSnap x).hub.tags = s.hub.tags := rfl
@[simp] theorem setSnap_hub_errors (s : State) (x : Snap) : (s.setSnap x).hub.errors = s.hub.errors := rfl
@[simp] theorem setSnap_tile (s : State) (x : Snap) : (s.setSnap x).tile = s.tile := rfl
@[simp] theorem setSnap_mem (s : State) (x : Snap) : (s.setSnap x).mem = s.mem := rfl
@[simp] theorem setSnap_cycle (s : State) (x : Snap) : (s.setSnap x).cycle = s.cycle := rfl
@[simp] theorem setSnap_free (s : State) (x : Snap) : (s.setSnap x).free = s.free := rfl
@[simp] theorem setSnap_inputs (s : State) (x : Snap) : (s.setSnap x).inputs = s.inputs := rfl

/-! ### `setPw` -/

@[simp] theorem setPw_hub_fe (s : State) (x : Power) : (s.setPw x).hub.fe = s.hub.fe := rfl
@[simp] theorem setPw_hub_boot (s : State) (x : Power) : (s.setPw x).hub.boot = s.hub.boot := rfl
@[simp] theorem setPw_hub_snap (s : State) (x : Power) : (s.setPw x).hub.snap = s.hub.snap := rfl
@[simp] theorem setPw_hub_power (s : State) (x : Power) : (s.setPw x).hub.power = x := rfl
@[simp] theorem setPw_hub_strips (s : State) (x : Power) : (s.setPw x).hub.strips = s.hub.strips := rfl
@[simp] theorem setPw_hub_acu (s : State) (x : Power) : (s.setPw x).hub.acu = s.hub.acu := rfl
@[simp] theorem setPw_hub_disc (s : State) (x : Power) : (s.setPw x).hub.disc = s.hub.disc := rfl
@[simp] theorem setPw_hub_sweut (s : State) (x : Power) : (s.setPw x).hub.sweut = s.hub.sweut := rfl
@[simp] theorem setPw_hub_tags (s : State) (x : Power) : (s.setPw x).hub.tags = s.hub.tags := rfl
@[simp] theorem setPw_hub_errors (s : State) (x : Power) : (s.setPw x).hub.errors = s.hub.errors := rfl
@[simp] theorem setPw_tile (s : State) (x : Power) : (s.setPw x).tile = s.tile := rfl
@[simp] theorem setPw_mem (s : State) (x : Power) : (s.setPw x).mem = s.mem := rfl
@[simp] theorem setPw_cycle (s : State) (x : Power) : (s.setPw x).cycle = s.cycle := rfl
@[simp] theorem setPw_free (s : State) (x : Power) : (s.setPw x).free = s.free := rfl
@[simp] theorem setPw_inputs (s : State) (x : Power) : (s.setPw x).inputs = s.inputs := rfl

/-! ### `setErrors` -/

@[simp] theorem setErrors_hub_fe (s : State) (x : Errors) : (s.setErrors x).hub.fe = s.hub.fe := rfl
@[simp] theorem setErrors_hub_boot (s : State) (x : Errors) : (s.setErrors x).hub.boot = s.hub.boot := rfl
@[simp] theorem setErrors_hub_snap (s : State) (x : Errors) : (s.setErrors x).hub.snap = s.hub.snap := rfl
@[simp] theorem setErrors_hub_power (s : State) (x : Errors) : (s.setErrors x).hub.power = s.hub.power := rfl
@[simp] theorem setErrors_hub_strips (s : State) (x : Errors) : (s.setErrors x).hub.strips = s.hub.strips := rfl
@[simp] theorem setErrors_hub_acu (s : State) (x : Errors) : (s.setErrors x).hub.acu = s.hub.acu := rfl
@[simp] theorem setErrors_hub_disc (s : State) (x : Errors) : (s.setErrors x).hub.disc = s.hub.disc := rfl
@[simp] theorem setErrors_hub_sweut (s : State) (x : Errors) : (s.setErrors x).hub.sweut = s.hub.sweut := rfl
@[simp] theorem setErrors_hub_tags (s : State) (x : Errors) : (s.setErrors x).hub.tags = s.hub.tags := rfl
@[simp] theorem setErrors_hub_errors (s : State) (x : Errors) : (s.setErrors x).hub.errors = x := rfl
@[simp] theorem setErrors_tile (s : State) (x : Errors) : (s.setErrors x).tile = s.tile := rfl
@[simp] theorem setErrors_mem (s : State) (x : Errors) : (s.setErrors x).mem = s.mem := rfl
@[simp] theorem setErrors_cycle (s : State) (x : Errors) : (s.setErrors x).cycle = s.cycle := rfl
@[simp] theorem setErrors_free (s : State) (x : Errors) : (s.setErrors x).free = s.free := rfl
@[simp] theorem setErrors_inputs (s : State) (x : Errors) : (s.setErrors x).inputs = s.inputs := rfl

/-! ### `setMem` -/

@[simp] theorem setMem_tile (s : State) (m : Memory) : (s.setMem m).tile = s.tile := rfl
@[simp] theorem setMem_mem (s : State) (m : Memory) : (s.setMem m).mem = m := rfl
@[simp] theorem setMem_hub (s : State) (m : Memory) : (s.setMem m).hub = s.hub := rfl
@[simp] theorem setMem_cycle (s : State) (m : Memory) : (s.setMem m).cycle = s.cycle := rfl
@[simp] theorem setMem_free (s : State) (m : Memory) : (s.setMem m).free = s.free := rfl
@[simp] theorem setMem_inputs (s : State) (m : Memory) : (s.setMem m).inputs = s.inputs := rfl

/-! ### `setStrip` -/

@[simp] theorem setStrip_tile (s : State) (i : BitVec 8) (x : Strip) : (s.setStrip i x).tile = s.tile := rfl
@[simp] theorem setStrip_mem (s : State) (i : BitVec 8) (x : Strip) : (s.setStrip i x).mem = s.mem := rfl
@[simp] theorem setStrip_cycle (s : State) (i : BitVec 8) (x : Strip) : (s.setStrip i x).cycle = s.cycle := rfl
@[simp] theorem setStrip_free (s : State) (i : BitVec 8) (x : Strip) : (s.setStrip i x).free = s.free := rfl
@[simp] theorem setStrip_inputs (s : State) (i : BitVec 8) (x : Strip) : (s.setStrip i x).inputs = s.inputs := rfl
@[simp] theorem setStrip_hub_fe (s : State) (i : BitVec 8) (x : Strip) : (s.setStrip i x).hub.fe = s.hub.fe := rfl
@[simp] theorem setStrip_hub_boot (s : State) (i : BitVec 8) (x : Strip) : (s.setStrip i x).hub.boot = s.hub.boot := rfl
@[simp] theorem setStrip_hub_snap (s : State) (i : BitVec 8) (x : Strip) : (s.setStrip i x).hub.snap = s.hub.snap := rfl
@[simp] theorem setStrip_hub_power (s : State) (i : BitVec 8) (x : Strip) : (s.setStrip i x).hub.power = s.hub.power := rfl
@[simp] theorem setStrip_hub_acu (s : State) (i : BitVec 8) (x : Strip) : (s.setStrip i x).hub.acu = s.hub.acu := rfl
@[simp] theorem setStrip_hub_disc (s : State) (i : BitVec 8) (x : Strip) : (s.setStrip i x).hub.disc = s.hub.disc := rfl
@[simp] theorem setStrip_hub_sweut (s : State) (i : BitVec 8) (x : Strip) : (s.setStrip i x).hub.sweut = s.hub.sweut := rfl
@[simp] theorem setStrip_hub_tags (s : State) (i : BitVec 8) (x : Strip) : (s.setStrip i x).hub.tags = s.hub.tags := rfl
@[simp] theorem setStrip_hub_errors (s : State) (i : BitVec 8) (x : Strip) : (s.setStrip i x).hub.errors = s.hub.errors := rfl

/-! ### `setAcu` -/

@[simp] theorem setAcu_tile (s : State) (i : BitVec 2) (x : AccUnit) : (s.setAcu i x).tile = s.tile := rfl
@[simp] theorem setAcu_mem (s : State) (i : BitVec 2) (x : AccUnit) : (s.setAcu i x).mem = s.mem := rfl
@[simp] theorem setAcu_cycle (s : State) (i : BitVec 2) (x : AccUnit) : (s.setAcu i x).cycle = s.cycle := rfl
@[simp] theorem setAcu_free (s : State) (i : BitVec 2) (x : AccUnit) : (s.setAcu i x).free = s.free := rfl
@[simp] theorem setAcu_inputs (s : State) (i : BitVec 2) (x : AccUnit) : (s.setAcu i x).inputs = s.inputs := rfl
@[simp] theorem setAcu_hub_fe (s : State) (i : BitVec 2) (x : AccUnit) : (s.setAcu i x).hub.fe = s.hub.fe := rfl
@[simp] theorem setAcu_hub_boot (s : State) (i : BitVec 2) (x : AccUnit) : (s.setAcu i x).hub.boot = s.hub.boot := rfl
@[simp] theorem setAcu_hub_snap (s : State) (i : BitVec 2) (x : AccUnit) : (s.setAcu i x).hub.snap = s.hub.snap := rfl
@[simp] theorem setAcu_hub_power (s : State) (i : BitVec 2) (x : AccUnit) : (s.setAcu i x).hub.power = s.hub.power := rfl
@[simp] theorem setAcu_hub_strips (s : State) (i : BitVec 2) (x : AccUnit) : (s.setAcu i x).hub.strips = s.hub.strips := rfl
@[simp] theorem setAcu_hub_disc (s : State) (i : BitVec 2) (x : AccUnit) : (s.setAcu i x).hub.disc = s.hub.disc := rfl
@[simp] theorem setAcu_hub_sweut (s : State) (i : BitVec 2) (x : AccUnit) : (s.setAcu i x).hub.sweut = s.hub.sweut := rfl
@[simp] theorem setAcu_hub_tags (s : State) (i : BitVec 2) (x : AccUnit) : (s.setAcu i x).hub.tags = s.hub.tags := rfl
@[simp] theorem setAcu_hub_errors (s : State) (i : BitVec 2) (x : AccUnit) : (s.setAcu i x).hub.errors = s.hub.errors := rfl

/-! ### `setDisc` -/

@[simp] theorem setDisc_tile (s : State) (i : BitVec 2) (x : Discovery) : (s.setDisc i x).tile = s.tile := rfl
@[simp] theorem setDisc_mem (s : State) (i : BitVec 2) (x : Discovery) : (s.setDisc i x).mem = s.mem := rfl
@[simp] theorem setDisc_cycle (s : State) (i : BitVec 2) (x : Discovery) : (s.setDisc i x).cycle = s.cycle := rfl
@[simp] theorem setDisc_free (s : State) (i : BitVec 2) (x : Discovery) : (s.setDisc i x).free = s.free := rfl
@[simp] theorem setDisc_inputs (s : State) (i : BitVec 2) (x : Discovery) : (s.setDisc i x).inputs = s.inputs := rfl
@[simp] theorem setDisc_hub_fe (s : State) (i : BitVec 2) (x : Discovery) : (s.setDisc i x).hub.fe = s.hub.fe := rfl
@[simp] theorem setDisc_hub_boot (s : State) (i : BitVec 2) (x : Discovery) : (s.setDisc i x).hub.boot = s.hub.boot := rfl
@[simp] theorem setDisc_hub_snap (s : State) (i : BitVec 2) (x : Discovery) : (s.setDisc i x).hub.snap = s.hub.snap := rfl
@[simp] theorem setDisc_hub_power (s : State) (i : BitVec 2) (x : Discovery) : (s.setDisc i x).hub.power = s.hub.power := rfl
@[simp] theorem setDisc_hub_strips (s : State) (i : BitVec 2) (x : Discovery) : (s.setDisc i x).hub.strips = s.hub.strips := rfl
@[simp] theorem setDisc_hub_acu (s : State) (i : BitVec 2) (x : Discovery) : (s.setDisc i x).hub.acu = s.hub.acu := rfl
@[simp] theorem setDisc_hub_sweut (s : State) (i : BitVec 2) (x : Discovery) : (s.setDisc i x).hub.sweut = s.hub.sweut := rfl
@[simp] theorem setDisc_hub_tags (s : State) (i : BitVec 2) (x : Discovery) : (s.setDisc i x).hub.tags = s.hub.tags := rfl
@[simp] theorem setDisc_hub_errors (s : State) (i : BitVec 2) (x : Discovery) : (s.setDisc i x).hub.errors = s.hub.errors := rfl

/-! ### `setAtt` -/

@[simp] theorem setAtt_tile (s : State) (i : BitVec 4) (x : Attachment) : (s.setAtt i x).tile = s.tile := rfl
@[simp] theorem setAtt_mem (s : State) (i : BitVec 4) (x : Attachment) : (s.setAtt i x).mem = s.mem := rfl
@[simp] theorem setAtt_cycle (s : State) (i : BitVec 4) (x : Attachment) : (s.setAtt i x).cycle = s.cycle := rfl
@[simp] theorem setAtt_free (s : State) (i : BitVec 4) (x : Attachment) : (s.setAtt i x).free = s.free := rfl
@[simp] theorem setAtt_inputs (s : State) (i : BitVec 4) (x : Attachment) : (s.setAtt i x).inputs = s.inputs := rfl
@[simp] theorem setAtt_hub_fe (s : State) (i : BitVec 4) (x : Attachment) : (s.setAtt i x).hub.fe = s.hub.fe := rfl
@[simp] theorem setAtt_hub_boot (s : State) (i : BitVec 4) (x : Attachment) : (s.setAtt i x).hub.boot = s.hub.boot := rfl
@[simp] theorem setAtt_hub_snap (s : State) (i : BitVec 4) (x : Attachment) : (s.setAtt i x).hub.snap = s.hub.snap := rfl
@[simp] theorem setAtt_hub_power (s : State) (i : BitVec 4) (x : Attachment) : (s.setAtt i x).hub.power = s.hub.power := rfl
@[simp] theorem setAtt_hub_strips (s : State) (i : BitVec 4) (x : Attachment) : (s.setAtt i x).hub.strips = s.hub.strips := rfl
@[simp] theorem setAtt_hub_acu (s : State) (i : BitVec 4) (x : Attachment) : (s.setAtt i x).hub.acu = s.hub.acu := rfl
@[simp] theorem setAtt_hub_disc (s : State) (i : BitVec 4) (x : Attachment) : (s.setAtt i x).hub.disc = s.hub.disc := rfl
@[simp] theorem setAtt_hub_tags (s : State) (i : BitVec 4) (x : Attachment) : (s.setAtt i x).hub.tags = s.hub.tags := rfl
@[simp] theorem setAtt_hub_errors (s : State) (i : BitVec 4) (x : Attachment) : (s.setAtt i x).hub.errors = s.hub.errors := rfl

/-! ### Register writes change registers only -/

@[simp] theorem setG_tile_matrix (s : State) (r : BitVec 5) (x : Word) : (s.setG r x).tile.matrix = s.tile.matrix := by
  unfold State.setG; split <;> rfl
@[simp] theorem setG_tile_ports (s : State) (r : BitVec 5) (x : Word) : (s.setG r x).tile.ports = s.tile.ports := by
  unfold State.setG; split <;> rfl
@[simp] theorem setG_tile_ctx (s : State) (r : BitVec 5) (x : Word) : (s.setG r x).tile.ctx = s.tile.ctx := by
  unfold State.setG; split <;> rfl
@[simp] theorem setG_tile_csr (s : State) (r : BitVec 5) (x : Word) : (s.setG r x).tile.csr = s.tile.csr := by
  unfold State.setG; split <;> rfl
@[simp] theorem setG_tile_front (s : State) (r : BitVec 5) (x : Word) : (s.setG r x).tile.front = s.tile.front := by
  unfold State.setG; split <;> rfl
@[simp] theorem setG_tile_wait (s : State) (r : BitVec 5) (x : Word) : (s.setG r x).tile.wait = s.tile.wait := by
  unfold State.setG; split <;> rfl
@[simp] theorem setG_tile_eng (s : State) (r : BitVec 5) (x : Word) : (s.setG r x).tile.eng = s.tile.eng := by
  unfold State.setG; split <;> rfl
@[simp] theorem setG_tile_seq (s : State) (r : BitVec 5) (x : Word) : (s.setG r x).tile.seq = s.tile.seq := by
  unfold State.setG; split <;> rfl
@[simp] theorem setG_tile_net (s : State) (r : BitVec 5) (x : Word) : (s.setG r x).tile.net = s.tile.net := by
  unfold State.setG; split <;> rfl
@[simp] theorem setG_tile_pend (s : State) (r : BitVec 5) (x : Word) : (s.setG r x).tile.pend = s.tile.pend := by
  unfold State.setG; split <;> rfl
@[simp] theorem setG_tile_path (s : State) (r : BitVec 5) (x : Word) : (s.setG r x).tile.path = s.tile.path := by
  unfold State.setG; split <;> rfl
@[simp] theorem setG_tile_res (s : State) (r : BitVec 5) (x : Word) : (s.setG r x).tile.res = s.tile.res := by
  unfold State.setG; split <;> rfl
@[simp] theorem setG_tile_power (s : State) (r : BitVec 5) (x : Word) : (s.setG r x).tile.power = s.tile.power := by
  unfold State.setG; split <;> rfl
@[simp] theorem setG_regs_p (s : State) (r : BitVec 5) (x : Word) : (s.setG r x).tile.regs.p = s.tile.regs.p := by
  unfold State.setG; split <;> rfl
@[simp] theorem setG_regs_m (s : State) (r : BitVec 5) (x : Word) : (s.setG r x).tile.regs.m = s.tile.regs.m := by
  unfold State.setG; split <;> rfl
@[simp] theorem setG_regs_h (s : State) (r : BitVec 5) (x : Word) : (s.setG r x).tile.regs.h = s.tile.regs.h := by
  unfold State.setG; split <;> rfl
@[simp] theorem setG_regs_c (s : State) (r : BitVec 5) (x : Word) : (s.setG r x).tile.regs.c = s.tile.regs.c := by
  unfold State.setG; split <;> rfl
@[simp] theorem setG_regs_v (s : State) (r : BitVec 5) (x : Word) : (s.setG r x).tile.regs.v = s.tile.regs.v := by
  unfold State.setG; split <;> rfl
@[simp] theorem setG_regs_q (s : State) (r : BitVec 5) (x : Word) : (s.setG r x).tile.regs.q = s.tile.regs.q := by
  unfold State.setG; split <;> rfl
@[simp] theorem setG_regs_acc (s : State) (r : BitVec 5) (x : Word) : (s.setG r x).tile.regs.acc = s.tile.regs.acc := by
  unfold State.setG; split <;> rfl
@[simp] theorem setG_mem (s : State) (r : BitVec 5) (x : Word) : (s.setG r x).mem = s.mem := by
  unfold State.setG; split <;> rfl
@[simp] theorem setG_hub (s : State) (r : BitVec 5) (x : Word) : (s.setG r x).hub = s.hub := by
  unfold State.setG; split <;> rfl
@[simp] theorem setG_cycle (s : State) (r : BitVec 5) (x : Word) : (s.setG r x).cycle = s.cycle := by
  unfold State.setG; split <;> rfl
@[simp] theorem setG_free (s : State) (r : BitVec 5) (x : Word) : (s.setG r x).free = s.free := by
  unfold State.setG; split <;> rfl
@[simp] theorem setG_inputs (s : State) (r : BitVec 5) (x : Word) : (s.setG r x).inputs = s.inputs := by
  unfold State.setG; split <;> rfl
@[simp] theorem setP_tile_matrix (s : State) (r : BitVec 3) (x : Bool) : (s.setP r x).tile.matrix = s.tile.matrix := rfl
@[simp] theorem setP_tile_ports (s : State) (r : BitVec 3) (x : Bool) : (s.setP r x).tile.ports = s.tile.ports := rfl
@[simp] theorem setP_tile_ctx (s : State) (r : BitVec 3) (x : Bool) : (s.setP r x).tile.ctx = s.tile.ctx := rfl
@[simp] theorem setP_tile_csr (s : State) (r : BitVec 3) (x : Bool) : (s.setP r x).tile.csr = s.tile.csr := rfl
@[simp] theorem setP_tile_front (s : State) (r : BitVec 3) (x : Bool) : (s.setP r x).tile.front = s.tile.front := rfl
@[simp] theorem setP_tile_wait (s : State) (r : BitVec 3) (x : Bool) : (s.setP r x).tile.wait = s.tile.wait := rfl
@[simp] theorem setP_tile_eng (s : State) (r : BitVec 3) (x : Bool) : (s.setP r x).tile.eng = s.tile.eng := rfl
@[simp] theorem setP_tile_seq (s : State) (r : BitVec 3) (x : Bool) : (s.setP r x).tile.seq = s.tile.seq := rfl
@[simp] theorem setP_tile_net (s : State) (r : BitVec 3) (x : Bool) : (s.setP r x).tile.net = s.tile.net := rfl
@[simp] theorem setP_tile_pend (s : State) (r : BitVec 3) (x : Bool) : (s.setP r x).tile.pend = s.tile.pend := rfl
@[simp] theorem setP_tile_path (s : State) (r : BitVec 3) (x : Bool) : (s.setP r x).tile.path = s.tile.path := rfl
@[simp] theorem setP_tile_res (s : State) (r : BitVec 3) (x : Bool) : (s.setP r x).tile.res = s.tile.res := rfl
@[simp] theorem setP_tile_power (s : State) (r : BitVec 3) (x : Bool) : (s.setP r x).tile.power = s.tile.power := rfl
@[simp] theorem setP_regs_g (s : State) (r : BitVec 3) (x : Bool) : (s.setP r x).tile.regs.g = s.tile.regs.g := rfl
@[simp] theorem setP_regs_m (s : State) (r : BitVec 3) (x : Bool) : (s.setP r x).tile.regs.m = s.tile.regs.m := rfl
@[simp] theorem setP_regs_h (s : State) (r : BitVec 3) (x : Bool) : (s.setP r x).tile.regs.h = s.tile.regs.h := rfl
@[simp] theorem setP_regs_c (s : State) (r : BitVec 3) (x : Bool) : (s.setP r x).tile.regs.c = s.tile.regs.c := rfl
@[simp] theorem setP_regs_v (s : State) (r : BitVec 3) (x : Bool) : (s.setP r x).tile.regs.v = s.tile.regs.v := rfl
@[simp] theorem setP_regs_q (s : State) (r : BitVec 3) (x : Bool) : (s.setP r x).tile.regs.q = s.tile.regs.q := rfl
@[simp] theorem setP_regs_acc (s : State) (r : BitVec 3) (x : Bool) : (s.setP r x).tile.regs.acc = s.tile.regs.acc := rfl
@[simp] theorem setP_mem (s : State) (r : BitVec 3) (x : Bool) : (s.setP r x).mem = s.mem := rfl
@[simp] theorem setP_hub (s : State) (r : BitVec 3) (x : Bool) : (s.setP r x).hub = s.hub := rfl
@[simp] theorem setP_cycle (s : State) (r : BitVec 3) (x : Bool) : (s.setP r x).cycle = s.cycle := rfl
@[simp] theorem setP_free (s : State) (r : BitVec 3) (x : Bool) : (s.setP r x).free = s.free := rfl
@[simp] theorem setP_inputs (s : State) (r : BitVec 3) (x : Bool) : (s.setP r x).inputs = s.inputs := rfl
@[simp] theorem setQ_tile_matrix (s : State) (r : BitVec 3) (x : Bool) : (s.setQ r x).tile.matrix = s.tile.matrix := rfl
@[simp] theorem setQ_tile_ports (s : State) (r : BitVec 3) (x : Bool) : (s.setQ r x).tile.ports = s.tile.ports := rfl
@[simp] theorem setQ_tile_ctx (s : State) (r : BitVec 3) (x : Bool) : (s.setQ r x).tile.ctx = s.tile.ctx := rfl
@[simp] theorem setQ_tile_csr (s : State) (r : BitVec 3) (x : Bool) : (s.setQ r x).tile.csr = s.tile.csr := rfl
@[simp] theorem setQ_tile_front (s : State) (r : BitVec 3) (x : Bool) : (s.setQ r x).tile.front = s.tile.front := rfl
@[simp] theorem setQ_tile_wait (s : State) (r : BitVec 3) (x : Bool) : (s.setQ r x).tile.wait = s.tile.wait := rfl
@[simp] theorem setQ_tile_eng (s : State) (r : BitVec 3) (x : Bool) : (s.setQ r x).tile.eng = s.tile.eng := rfl
@[simp] theorem setQ_tile_seq (s : State) (r : BitVec 3) (x : Bool) : (s.setQ r x).tile.seq = s.tile.seq := rfl
@[simp] theorem setQ_tile_net (s : State) (r : BitVec 3) (x : Bool) : (s.setQ r x).tile.net = s.tile.net := rfl
@[simp] theorem setQ_tile_pend (s : State) (r : BitVec 3) (x : Bool) : (s.setQ r x).tile.pend = s.tile.pend := rfl
@[simp] theorem setQ_tile_path (s : State) (r : BitVec 3) (x : Bool) : (s.setQ r x).tile.path = s.tile.path := rfl
@[simp] theorem setQ_tile_res (s : State) (r : BitVec 3) (x : Bool) : (s.setQ r x).tile.res = s.tile.res := rfl
@[simp] theorem setQ_tile_power (s : State) (r : BitVec 3) (x : Bool) : (s.setQ r x).tile.power = s.tile.power := rfl
@[simp] theorem setQ_regs_g (s : State) (r : BitVec 3) (x : Bool) : (s.setQ r x).tile.regs.g = s.tile.regs.g := rfl
@[simp] theorem setQ_regs_p (s : State) (r : BitVec 3) (x : Bool) : (s.setQ r x).tile.regs.p = s.tile.regs.p := rfl
@[simp] theorem setQ_regs_m (s : State) (r : BitVec 3) (x : Bool) : (s.setQ r x).tile.regs.m = s.tile.regs.m := rfl
@[simp] theorem setQ_regs_h (s : State) (r : BitVec 3) (x : Bool) : (s.setQ r x).tile.regs.h = s.tile.regs.h := rfl
@[simp] theorem setQ_regs_c (s : State) (r : BitVec 3) (x : Bool) : (s.setQ r x).tile.regs.c = s.tile.regs.c := rfl
@[simp] theorem setQ_regs_v (s : State) (r : BitVec 3) (x : Bool) : (s.setQ r x).tile.regs.v = s.tile.regs.v := rfl
@[simp] theorem setQ_regs_acc (s : State) (r : BitVec 3) (x : Bool) : (s.setQ r x).tile.regs.acc = s.tile.regs.acc := rfl
@[simp] theorem setQ_mem (s : State) (r : BitVec 3) (x : Bool) : (s.setQ r x).mem = s.mem := rfl
@[simp] theorem setQ_hub (s : State) (r : BitVec 3) (x : Bool) : (s.setQ r x).hub = s.hub := rfl
@[simp] theorem setQ_cycle (s : State) (r : BitVec 3) (x : Bool) : (s.setQ r x).cycle = s.cycle := rfl
@[simp] theorem setQ_free (s : State) (r : BitVec 3) (x : Bool) : (s.setQ r x).free = s.free := rfl
@[simp] theorem setQ_inputs (s : State) (r : BitVec 3) (x : Bool) : (s.setQ r x).inputs = s.inputs := rfl
@[simp] theorem setV_tile_matrix (s : State) (r : BitVec 4) (x : Row) : (s.setV r x).tile.matrix = s.tile.matrix := rfl
@[simp] theorem setV_tile_ports (s : State) (r : BitVec 4) (x : Row) : (s.setV r x).tile.ports = s.tile.ports := rfl
@[simp] theorem setV_tile_ctx (s : State) (r : BitVec 4) (x : Row) : (s.setV r x).tile.ctx = s.tile.ctx := rfl
@[simp] theorem setV_tile_csr (s : State) (r : BitVec 4) (x : Row) : (s.setV r x).tile.csr = s.tile.csr := rfl
@[simp] theorem setV_tile_front (s : State) (r : BitVec 4) (x : Row) : (s.setV r x).tile.front = s.tile.front := rfl
@[simp] theorem setV_tile_wait (s : State) (r : BitVec 4) (x : Row) : (s.setV r x).tile.wait = s.tile.wait := rfl
@[simp] theorem setV_tile_eng (s : State) (r : BitVec 4) (x : Row) : (s.setV r x).tile.eng = s.tile.eng := rfl
@[simp] theorem setV_tile_seq (s : State) (r : BitVec 4) (x : Row) : (s.setV r x).tile.seq = s.tile.seq := rfl
@[simp] theorem setV_tile_net (s : State) (r : BitVec 4) (x : Row) : (s.setV r x).tile.net = s.tile.net := rfl
@[simp] theorem setV_tile_pend (s : State) (r : BitVec 4) (x : Row) : (s.setV r x).tile.pend = s.tile.pend := rfl
@[simp] theorem setV_tile_path (s : State) (r : BitVec 4) (x : Row) : (s.setV r x).tile.path = s.tile.path := rfl
@[simp] theorem setV_tile_res (s : State) (r : BitVec 4) (x : Row) : (s.setV r x).tile.res = s.tile.res := rfl
@[simp] theorem setV_tile_power (s : State) (r : BitVec 4) (x : Row) : (s.setV r x).tile.power = s.tile.power := rfl
@[simp] theorem setV_regs_g (s : State) (r : BitVec 4) (x : Row) : (s.setV r x).tile.regs.g = s.tile.regs.g := rfl
@[simp] theorem setV_regs_p (s : State) (r : BitVec 4) (x : Row) : (s.setV r x).tile.regs.p = s.tile.regs.p := rfl
@[simp] theorem setV_regs_m (s : State) (r : BitVec 4) (x : Row) : (s.setV r x).tile.regs.m = s.tile.regs.m := rfl
@[simp] theorem setV_regs_h (s : State) (r : BitVec 4) (x : Row) : (s.setV r x).tile.regs.h = s.tile.regs.h := rfl
@[simp] theorem setV_regs_c (s : State) (r : BitVec 4) (x : Row) : (s.setV r x).tile.regs.c = s.tile.regs.c := rfl
@[simp] theorem setV_regs_q (s : State) (r : BitVec 4) (x : Row) : (s.setV r x).tile.regs.q = s.tile.regs.q := rfl
@[simp] theorem setV_regs_acc (s : State) (r : BitVec 4) (x : Row) : (s.setV r x).tile.regs.acc = s.tile.regs.acc := rfl
@[simp] theorem setV_mem (s : State) (r : BitVec 4) (x : Row) : (s.setV r x).mem = s.mem := rfl
@[simp] theorem setV_hub (s : State) (r : BitVec 4) (x : Row) : (s.setV r x).hub = s.hub := rfl
@[simp] theorem setV_cycle (s : State) (r : BitVec 4) (x : Row) : (s.setV r x).cycle = s.cycle := rfl
@[simp] theorem setV_free (s : State) (r : BitVec 4) (x : Row) : (s.setV r x).free = s.free := rfl
@[simp] theorem setV_inputs (s : State) (r : BitVec 4) (x : Row) : (s.setV r x).inputs = s.inputs := rfl

/-! ### Indexed units read back -/

/-- A vector reads back what was put in its place. -/
theorem get_set_self {α : Type} {n : Nat} (v : Vector α n) (i : Fin n) (x : α) : (v.set i.val x i.isLt).get i = x := by
  rw [Vector.get_eq_getElem]; exact Vector.getElem_set_self ..

/-- Putting one place of a vector leaves the others. -/
theorem get_set_ne {α : Type} {n : Nat} (v : Vector α n) {i j : Fin n} (x : α) (h : j ≠ i) : (v.set i.val x i.isLt).get j = v.get j := by
  rw [Vector.get_eq_getElem, Vector.get_eq_getElem]
  exact Vector.getElem_set_ne _ _ fun e => h (Fin.ext e.symm)

@[simp] theorem strip_setStrip_self (s : State) (i : BitVec 8) (x : Strip) : (s.setStrip i x).strip i = x := get_set_self _ i.toFin x
theorem strip_setStrip_ne (s : State) {i j : BitVec 8} (x : Strip) (h : j ≠ i) : (s.setStrip i x).strip j = s.strip j :=
  get_set_ne _ x fun e => h (BitVec.toFin_inj.1 e)
@[simp] theorem acu_setAcu_self (s : State) (i : BitVec 2) (x : AccUnit) : (s.setAcu i x).acu i = x := get_set_self _ i.toFin x
theorem acu_setAcu_ne (s : State) {i j : BitVec 2} (x : AccUnit) (h : j ≠ i) : (s.setAcu i x).acu j = s.acu j :=
  get_set_ne _ x fun e => h (BitVec.toFin_inj.1 e)
@[simp] theorem disco_setDisc_self (s : State) (i : BitVec 2) (x : Discovery) : (s.setDisc i x).disco i = x := get_set_self _ i.toFin x
theorem disco_setDisc_ne (s : State) {i j : BitVec 2} (x : Discovery) (h : j ≠ i) : (s.setDisc i x).disco j = s.disco j :=
  get_set_ne _ x fun e => h (BitVec.toFin_inj.1 e)
@[simp] theorem att_setAtt_self (s : State) (i : BitVec 4) (x : Attachment) : (s.setAtt i x).att i = x := get_set_self _ i.toFin x
theorem att_setAtt_ne (s : State) {i j : BitVec 4} (x : Attachment) (h : j ≠ i) : (s.setAtt i x).att j = s.att j :=
  get_set_ne _ x fun e => h (BitVec.toFin_inj.1 e)

end Sys2Proof.Machine
end

