-- ==== Sys2Proof/Laws/Canonical.lean ====
section
/-!
SUPPORT. The shared operations keep the canonical form of the memories.
-/

namespace Sys2Proof.Machine

/-- The canonical form depends on memory and the weight banks alone. -/
theorem canonical_congr {s t : State} (hm : t.mem = s.mem) (hx : t.tile.matrix = s.tile.matrix) : t.canonical ↔ s.canonical := by
  unfold State.canonical; rw [hm, hx]

@[simp] theorem canonical_setRegs (s : State) (x) : (s.setRegs x).canonical ↔ s.canonical := canonical_congr rfl rfl
@[simp] theorem canonical_setPorts (s : State) (x) : (s.setPorts x).canonical ↔ s.canonical := canonical_congr rfl rfl
@[simp] theorem canonical_setCtx (s : State) (x) : (s.setCtx x).canonical ↔ s.canonical := canonical_congr rfl rfl
@[simp] theorem canonical_setCsr (s : State) (x) : (s.setCsr x).canonical ↔ s.canonical := canonical_congr rfl rfl
@[simp] theorem canonical_setFront (s : State) (x) : (s.setFront x).canonical ↔ s.canonical := canonical_congr rfl rfl
@[simp] theorem canonical_setWait (s : State) (x) : (s.setWait x).canonical ↔ s.canonical := canonical_congr rfl rfl
@[simp] theorem canonical_setEng (s : State) (x) : (s.setEng x).canonical ↔ s.canonical := canonical_congr rfl rfl
@[simp] theorem canonical_setSeq (s : State) (x) : (s.setSeq x).canonical ↔ s.canonical := canonical_congr rfl rfl
@[simp] theorem canonical_setNet (s : State) (x) : (s.setNet x).canonical ↔ s.canonical := canonical_congr rfl rfl
@[simp] theorem canonical_setPend (s : State) (x) : (s.setPend x).canonical ↔ s.canonical := canonical_congr rfl rfl
@[simp] theorem canonical_setPath (s : State) (x) : (s.setPath x).canonical ↔ s.canonical := canonical_congr rfl rfl
@[simp] theorem canonical_setRes (s : State) (x) : (s.setRes x).canonical ↔ s.canonical := canonical_congr rfl rfl
@[simp] theorem canonical_setPower (s : State) (x) : (s.setPower x).canonical ↔ s.canonical := canonical_congr rfl rfl
@[simp] theorem canonical_setFe (s : State) (x) : (s.setFe x).canonical ↔ s.canonical := canonical_congr rfl rfl
@[simp] theorem canonical_setBoot (s : State) (x) : (s.setBoot x).canonical ↔ s.canonical := canonical_congr rfl rfl
@[simp] theorem canonical_setSnap (s : State) (x) : (s.setSnap x).canonical ↔ s.canonical := canonical_congr rfl rfl
@[simp] theorem canonical_setPw (s : State) (x) : (s.setPw x).canonical ↔ s.canonical := canonical_congr rfl rfl
@[simp] theorem canonical_setErrors (s : State) (x) : (s.setErrors x).canonical ↔ s.canonical := canonical_congr rfl rfl
@[simp] theorem canonical_setStrip (s : State) (i x) : (s.setStrip i x).canonical ↔ s.canonical := canonical_congr rfl rfl
@[simp] theorem canonical_setAcu (s : State) (i x) : (s.setAcu i x).canonical ↔ s.canonical := canonical_congr rfl rfl
@[simp] theorem canonical_setDisc (s : State) (i x) : (s.setDisc i x).canonical ↔ s.canonical := canonical_congr rfl rfl
@[simp] theorem canonical_setAtt (s : State) (i x) : (s.setAtt i x).canonical ↔ s.canonical := canonical_congr rfl rfl
@[simp] theorem canonical_setHub (s : State) (x) : (s.setHub x).canonical ↔ s.canonical := canonical_congr rfl rfl

/-- Putting a memory in canonical form in place. -/
theorem canonical_setMem {s : State} (h : s.canonical) {m : Memory} (hm : m.wf = true) : (s.setMem m).canonical := ⟨hm, h.2⟩

/-- What every element of a fold keeps, the fold keeps. -/
theorem canonical_foldl {α : Type} {f : State → α → State} (hf : ∀ s x, s.canonical → (f s x).canonical) (l : List α) {s : State}
    (h : s.canonical) : (l.foldl f s).canonical := by
  induction l generalizing s with
  | nil => exact h
  | cons x l ih => exact ih (hf s x h)

@[simp] theorem canonical_setG {s : State} (h : s.canonical) (r : BitVec 5) (x : Word) : (s.setG r x).canonical := by
  unfold State.setG
  split <;> first | exact h | exact (canonical_congr rfl rfl).2 h

@[simp] theorem canonical_setP {s : State} (h : s.canonical) (i : BitVec 3) (b : Bool) : (s.setP i b).canonical := (canonical_congr rfl rfl).2 h

@[simp] theorem canonical_setQ {s : State} (h : s.canonical) (i : BitVec 3) (b : Bool) : (s.setQ i b).canonical := (canonical_congr rfl rfl).2 h

@[simp] theorem canonical_setV {s : State} (h : s.canonical) (r : BitVec 4) (x : Row) : (s.setV r x).canonical := (canonical_congr rfl rfl).2 h

@[simp] theorem canonical_setStatusBit {s : State} (h : s.canonical) (i : Nat) (b : Bool) : (s.setStatusBit i b).canonical := (canonical_congr rfl rfl).2 h

theorem wf_writeVs {m : Memory} (h : m.wf = true) (base : Nat) (l : List Row) : (writeVs m base l).wf = true := by
  induction l generalizing m base with
  | nil => exact h
  | cons r l ih => exact ih (Memory.wf_writeNat h ..) _

@[simp] theorem canonical_writeBack {s : State} (h : s.canonical) (ws : Nat) : (s.writeBack ws).canonical :=
  canonical_setMem h (Memory.wf_write (Memory.wf_write (wf_writeVs (Memory.wf_writeWords h.1 ..) ..) ..) ..)

@[simp] theorem canonical_loadRegs {s : State} (h : s.canonical) (ws : Nat) : (s.loadRegs ws).canonical := (canonical_setRegs ..).2 h

@[simp] theorem canonical_switchWp {s : State} (h : s.canonical) (w : Word) : (s.switchWp w).canonical :=
  canonical_loadRegs ((canonical_setCsr ..).2 (canonical_writeBack h _)) _

@[simp] theorem canonical_passOwn {s : State} (h : s.canonical) : (s.passOwn).canonical := by
  unfold State.passOwn
  split <;> first | exact h | exact (canonical_congr rfl rfl).2 h

@[simp] theorem canonical_loopBack {s : State} (h : s.canonical) : (s.loopBack).canonical := (canonical_congr rfl rfl).2 h

@[simp] theorem canonical_advance {s : State} (h : s.canonical) : (s.advance).canonical := by
  unfold State.advance
  dsimp only
  repeat' split
  all_goals first | exact h | exact (canonical_congr rfl rfl).2 h | simp [h]

@[simp] theorem canonical_retire {s : State} (h : s.canonical) : (s.retire).canonical := by
  unfold State.retire
  dsimp only
  repeat' split
  all_goals first | exact h | exact (canonical_congr rfl rfl).2 h | simp [h]

@[simp] theorem canonical_goTo {s : State} (h : s.canonical) (target : Word) : (s.goTo target).canonical := by
  unfold State.goTo
  split <;> first | exact h | exact (canonical_congr rfl rfl).2 h

@[simp] theorem canonical_stall {s : State} (h : s.canonical) (x : HalfState) : (s.stall x).canonical := (canonical_setFront ..).2 h

@[simp] theorem canonical_charge {s : State} (h : s.canonical) (cls : Fin 8) : (s.charge cls).canonical := by
  unfold State.charge
  split <;> first | exact h | exact (canonical_congr rfl rfl).2 h

@[simp] theorem canonical_begin {s : State} (h : s.canonical) (cls : Fin 8) : (s.begin cls).canonical := by
  unfold State.begin
  dsimp only
  repeat' split
  all_goals first | exact h | exact (canonical_congr rfl rfl).2 h | simp [h]

@[simp] theorem canonical_packageTrigger {s : State} (h : s.canonical) (at_ : Word) : (s.packageTrigger at_).canonical := by
  unfold State.packageTrigger
  dsimp only
  repeat' split
  all_goals first | exact h | exact (canonical_congr rfl rfl).2 h | simp [h]

@[simp] theorem canonical_trapTrigger {s : State} (h : s.canonical) (cause : BitVec 8) : (s.trapTrigger cause).canonical := by
  unfold State.trapTrigger
  split
  · exact canonical_packageTrigger h _
  · exact h

@[simp] theorem canonical_leaveGang {s : State} (h : s.canonical) : (s.leaveGang).canonical := (canonical_congr rfl rfl).2 h

@[simp] theorem canonical_dropWait {s : State} (h : s.canonical) : s.dropWait.canonical := by
  unfold State.dropWait
  split
  · exact (canonical_setWait ..).2 (canonical_setMem h (Memory.wf_writeNat h.1 ..))
  · exact (canonical_setWait ..).2 h

@[simp] theorem canonical_dropOrdered {s : State} (h : s.canonical) : s.dropOrdered.canonical := by
  unfold State.dropOrdered
  split
  · exact (canonical_setFront ..).2 ((canonical_setPorts ..).2 h)
  · exact h

@[simp] theorem canonical_haltWith {s : State} (h : s.canonical) (fh : Bool) (cause : BitVec 8) (value : Word) :
    (s.haltWith fh cause value).canonical := by
  unfold State.haltWith
  exact (canonical_setRes ..).2 ((canonical_setFront ..).2 ((canonical_setSnap ..).2 (canonical_dropOrdered (canonical_dropWait h))))

@[simp] theorem canonical_enterTrap {s : State} (h : s.canonical) (fh : Bool) (cause : BitVec 8) (value : Word) :
    (s.enterTrap fh cause value).canonical := by
  have hd : s.dropWait.dropOrdered.leaveGang.canonical := canonical_leaveGang (canonical_dropOrdered (canonical_dropWait h))
  unfold State.enterTrap
  generalize s.dropWait.dropOrdered.leaveGang = u at hd
  exact (canonical_setPower ..).2 ((canonical_setPath ..).2 ((canonical_setFront ..).2 (canonical_loadRegs ((canonical_setCsr ..).2
    (canonical_writeBack (canonical_setMem hd (Memory.wf_writeNat (Memory.wf_writeWords hd.1 ..) ..)) _)) _)))

@[simp] theorem canonical_takeTrap {s : State} (h : s.canonical) (fh : Bool) (cause : BitVec 8) (value : Word) :
    (s.takeTrap fh cause value).canonical := by
  have ht := canonical_trapTrigger h cause
  unfold State.takeTrap
  dsimp only
  split
  · exact canonical_haltWith ht fh cause value
  · exact canonical_enterTrap ht fh cause value

@[simp] theorem canonical_txClose {s : State} (h : s.canonical) (t : Tx) (cause detail : BitVec 8) :
    (s.txClose t cause detail).canonical := by
  unfold State.txClose
  exact canonical_setG (canonical_setStatusBit ((canonical_setPath ..).2 h) _ _) _ _

@[simp] theorem canonical_txAbort {s : State} (h : s.canonical) (cause detail : BitVec 8) : (s.txAbort cause detail).canonical := by
  unfold State.txAbort
  split
  · exact h
  · exact canonical_goTo (canonical_dropWait (canonical_txClose h _ _ _)) _

@[simp] theorem canonical_holdTrap {s : State} (h : s.canonical) (cause : BitVec 8) (value : Word) : (s.holdTrap cause value).canonical :=
  (canonical_setFront ..).2 h

@[simp] theorem canonical_unholdTrap {s : State} (h : s.canonical) : s.unholdTrap.canonical := (canonical_setFront ..).2 h

@[simp] theorem canonical_releaseSeq {s : State} (h : s.canonical) : (s.releaseSeq).canonical := (canonical_congr rfl rfl).2 h

@[simp] theorem canonical_resume {s : State} (h : s.canonical) (ws : Word) : (s.resume ws).canonical := by
  unfold State.resume
  exact (canonical_setWait ..).2 (canonical_releaseSeq ((canonical_setPower ..).2 ((canonical_setFront ..).2
    ((canonical_setCsr ..).2 (canonical_switchWp h ws)))))

@[simp] theorem canonical_retireA {s : State} (h : s.canonical) : (s.retireA).canonical := by
  unfold State.retireA
  dsimp only
  repeat' split
  all_goals first | exact h | exact (canonical_congr rfl rfl).2 h | simp [h]

@[simp] theorem canonical_orFlags {s : State} (h : s.canonical) (fl : BitVec 6) : (s.orFlags fl).canonical := (canonical_congr rfl rfl).2 h

@[simp] theorem canonical_clearBad {s : State} (h : s.canonical) (a n : Nat) : (s.clearBad a n).canonical := (canonical_congr rfl rfl).2 h

@[simp] theorem canonical_correctWhere {s : State} (h : s.canonical) (here : ErrorPlace → Bool) : (s.correctWhere here).canonical := by
  unfold State.correctWhere
  dsimp only
  split
  · exact h
  · exact (canonical_setErrors ..).2 h

@[simp] theorem canonical_correctRead {s : State} (h : s.canonical) (a n : Nat) : (s.correctRead a n).canonical :=
  canonical_correctWhere h _

@[simp] theorem canonical_tagLines {s : State} (h : s.canonical) (a n : Nat) (tsc : BitVec 3) (writer : BitVec 24) : (s.tagLines a n tsc writer).canonical := by
  unfold State.tagLines
  split <;> first | exact h | exact (canonical_congr rfl rfl).2 h

@[simp] theorem canonical_homeReadAt {s : State} (h : s.canonical) (scopeFrom : BitVec 24 → Nat) (a : Nat) : (s.homeReadAt scopeFrom a).canonical := by
  unfold State.homeReadAt
  dsimp only
  repeat' split
  all_goals first | exact h | exact (canonical_congr rfl rfl).2 h | simp [h]

@[simp] theorem canonical_homeReadBy {s : State} (h : s.canonical) (reader : BitVec 24) (a : Nat) : (s.homeReadBy reader a).canonical :=
  canonical_homeReadAt h _ _

@[simp] theorem canonical_homeRead {s : State} (h : s.canonical) (a n : Nat) : (s.homeRead a n).canonical := by
  unfold State.homeRead
  split
  · exact h
  · exact canonical_foldl (fun _ _ hs => canonical_homeReadBy hs _ _) _ (canonical_correctRead h _ _)

@[simp] theorem canonical_writeHome {s : State} (h : s.canonical) (a n v : Nat) (tsc : BitVec 3) (writer : BitVec 24) :
    (s.writeHome a n v tsc writer).canonical := by
  have hw := canonical_tagLines (canonical_clearBad (canonical_setMem h (Memory.wf_writeNat h.1 a n v)) a n) a n tsc writer
  unfold State.writeHome
  dsimp only
  repeat' split
  · exact h
  · exact (canonical_setPath ..).2 hw
  · exact hw

@[simp] theorem canonical_txHit {s : State} (h : s.canonical) (line : Nat) (isLoad : Bool) : (s.txHit line isLoad).canonical := by
  unfold State.txHit
  repeat' split
  all_goals first | exact h | exact (canonical_setPath ..).2 h

@[simp] theorem canonical_txHits {s : State} (h : s.canonical) (a n : Nat) (isLoad : Bool) : (s.txHits a n isLoad).canonical := by
  unfold State.txHits
  split
  · exact h
  · exact canonical_foldl (fun _ _ hs => canonical_txHit hs _ _) _ h

@[simp] theorem canonical_otherWrite {s : State} (h : s.canonical) (a n v : Nat) (tsc : BitVec 3) (writer : BitVec 24) :
    (s.otherWrite a n v tsc writer).canonical := canonical_writeHome (canonical_txHits h _ _ _) ..

@[simp] theorem canonical_putWords {s : State} (h : s.canonical) (a : Nat) (l : List Word) : (s.putWords a l).canonical := by
  induction l generalizing s a with
  | nil => exact h
  | cons w l ih => exact ih (canonical_otherWrite h ..) _

@[simp] theorem canonical_postTo {s : State} (h : s.canonical) (a : BitVec 4) (pkg : BitVec 12) (kind n : Nat) :
    (s.postTo a pkg kind n).canonical := by
  unfold State.postTo
  exact canonical_foldl (fun _ _ hs => (canonical_setAtt ..).2 hs) _ h

@[simp] theorem canonical_sendAccess {s : State} (h : s.canonical) (addr n : Nat) (store : Bool) : (s.sendAccess addr n store).canonical := by
  unfold State.sendAccess
  dsimp only
  split
  · exact h
  · split <;> simp [h]

@[simp] theorem canonical_rejectBytes {s : State} (h : s.canonical) (l : Line) (m : Word) : (s.rejectBytes l m).1.canonical := by
  unfold State.rejectBytes
  split
  · exact h
  · exact (canonical_setPath ..).2 h

theorem wf_writeMasked {m : Memory} (h : m.wf = true) (a data : Nat) (l : List Bool) : (writeMasked m a data l).wf = true := by
  induction l generalizing m a data with
  | nil => exact h
  | cons b l ih =>
    unfold writeMasked
    cases b
    · exact ih h _ _
    · exact ih (Memory.wf_write h ..) _ _

@[simp] theorem canonical_writeBackLine {s : State} (h : s.canonical) (l : Line) : (s.writeBackLine l).canonical := by
  unfold State.writeBackLine
  split
  · exact h
  · generalize hr : s.rejectBytes l (s.partialMask l) = r
    obtain ⟨u, l'⟩ := r
    have hu : u.canonical := by have := canonical_rejectBytes h l (s.partialMask l); rw [hr] at this; exact this
    have hc := canonical_sendAccess (canonical_correctWhere ((canonical_setPath u
      { u.tile.path with l1 := u.tile.path.l1.map fun x => if x.addr = l'.addr then { x with stores := [] } else x }).2 hu)
      (cacheTouches l'.addr 64)) l'.addr 64 true
    exact (canonical_setErrors ..).2 (canonical_tagLines (canonical_setMem hc (wf_writeMasked hc.1 ..)) ..)

@[simp] theorem canonical_dropLine {s : State} (h : s.canonical) (a : Nat) : (s.dropLine a).canonical := (canonical_congr rfl rfl).2 h

@[simp] theorem canonical_evictLine {s : State} (h : s.canonical) (a : Nat) : (s.evictLine a).canonical := by
  unfold State.evictLine
  split
  · exact h
  · exact canonical_dropLine (canonical_writeBackLine h _) _

@[simp] theorem canonical_roomFor {s : State} (h : s.canonical) (a : Nat) : (s.roomFor a).canonical := by
  unfold State.roomFor
  dsimp only
  repeat' split
  all_goals first | exact h | exact (canonical_congr rfl rfl).2 h | simp [h]

@[simp] theorem canonical_fillLine {s : State} (h : s.canonical) (a : Nat) : (s.fillLine a).canonical := by
  unfold State.fillLine
  exact (canonical_setPath ..).2 ((canonical_setErrors ..).2 (canonical_roomFor (canonical_homeReadBy (canonical_correctRead h _ _) _ _) _))

theorem canonical_cacheRead {s : State} (h : s.canonical) (a n : Nat) : (s.cacheRead a n).1.canonical := by
  unfold State.cacheRead
  dsimp only
  repeat' split
  all_goals first | exact canonical_correctWhere h _ | exact canonical_fillLine (canonical_correctWhere h _) a

@[simp] theorem canonical_cacheWrite {s : State} (h : s.canonical) (a n v : Nat) (rlv : BitVec 3) (ptr : Word) :
    (s.cacheWrite a n v rlv ptr).canonical := by
  unfold State.cacheWrite
  dsimp only
  refine (canonical_setPath ..).2 ((canonical_setErrors ..).2 ?_)
  split
  · exact canonical_fillLine (canonical_roomFor h a) a
  · exact canonical_roomFor h a

@[simp] theorem canonical_writeSpan {s : State} (h : s.canonical) (a n v : Nat) (rlv : BitVec 3) (ptr : Word) :
    (s.writeSpan a n v rlv ptr).canonical := by
  unfold State.writeSpan
  dsimp only
  split
  · exact canonical_cacheWrite h ..
  · exact canonical_cacheWrite (canonical_cacheWrite h ..) ..

@[simp] theorem canonical_rejectPosted {s : State} (h : s.canonical) (p : Posted) : (s.rejectPosted p).canonical := (canonical_congr rfl rfl).2 h

@[simp] theorem canonical_notePast {s : State} (h : s.canonical) (a : Nat) : (s.notePast a).canonical := by
  unfold State.notePast
  split
  · exact h
  · exact (canonical_setFe ..).2 h

@[simp] theorem canonical_performPart {s : State} (h : s.canonical) (p : Posted) (x : Nat × Nat × BitVec 512) :
    (s.performPart p x).canonical := by
  have hr : (if p.row then s.txHits x.1 x.2.1 false else s).canonical := by split <;> simp [h]
  unfold State.performPart
  dsimp only
  split
  · exact canonical_writeSpan hr ..
  · exact canonical_notePast (canonical_writeHome (canonical_sendAccess hr ..) ..) _

@[simp] theorem canonical_performPosted {s : State} (h : s.canonical) (p : Posted) : (s.performPosted p).canonical := by
  unfold State.performPosted
  split
  · exact canonical_rejectPosted h p
  · exact canonical_foldl (fun _ x hs => canonical_performPart hs p x) _ h

@[simp] theorem canonical_flushPosted {s : State} (h : s.canonical) (which : Posted → Bool) : (s.flushPosted which).canonical := by
  unfold State.flushPosted
  exact canonical_foldl (fun _ p hs => canonical_performPosted hs p) _ ((canonical_setPath ..).2 h)

theorem canonical_readPlace {s : State} (h : s.canonical) (a n : Nat) : (s.readPlace a n).1.canonical := by
  unfold State.readPlace
  repeat' split
  · exact canonical_flushPosted h _
  · exact canonical_homeRead (canonical_flushPosted h _) _ _
  · exact canonical_cacheRead h _ _

@[simp] theorem canonical_writePlace {s : State} (h : s.canonical) (ptr : Word) (a : Nat) (size : AccessSize) (v : Word) :
    (s.writePlace ptr a size v).canonical := by
  unfold State.writePlace
  dsimp only
  repeat' split
  · exact (canonical_setPath ..).2 h
  · exact canonical_writeHome h ..
  · exact canonical_cacheWrite h ..

theorem canonical_readRange {s : State} (h : s.canonical) (a i : Nat) (l : List Nat) : (s.readRange a i l).1.canonical := by
  induction l generalizing s i with
  | nil => exact h
  | cons n l ih =>
    have hp := canonical_readPlace h (a + i) n
    unfold State.readRange
    split
    · rename_i he; rw [he] at hp; exact hp
    · rename_i t v he
      rw [he] at hp
      have hr := ih hp (i + n)
      split
      · rename_i hq; rw [hq] at hr; exact hr
      · rename_i hq; rw [hq] at hr; exact hr

@[simp] theorem canonical_release {s : State} (h : s.canonical) (scope : Nat) : (s.release scope).canonical := by
  unfold State.release
  exact (canonical_setPath ..).2 (canonical_foldl (fun _ l hs => canonical_writeBackLine hs l) _ (canonical_flushPosted h _))

@[simp] theorem canonical_acquire {s : State} (h : s.canonical) : (s.acquire).canonical := (canonical_congr rfl rfl).2 h

@[simp] theorem canonical_postNotice {s : State} (h : s.canonical) (d : BitVec 2) (e : AccEntry) : (s.postNotice d e).canonical := by
  unfold State.postNotice
  dsimp only
  repeat' split
  all_goals first | exact h | exact (canonical_congr rfl rfl).2 h | simp [h]

@[simp] theorem canonical_accNotify {s : State} (h : s.canonical) (d : BitVec 2) (e : AccEntry) : (s.accNotify d e).canonical := by
  unfold State.accNotify
  dsimp only
  repeat' split
  all_goals first | exact h | exact (canonical_congr rfl rfl).2 h | simp [h]

@[simp] theorem canonical_countOn {s : State} (h : s.canonical) (d : BitVec 2) (t : TEntry) : (s.countOn d t).canonical := by
  unfold State.countOn
  dsimp only
  repeat' split
  all_goals first | exact h | exact (canonical_congr rfl rfl).2 h | simp [h]

@[simp] theorem canonical_count {s : State} (h : s.canonical) (leaf : Option TEntry) : (s.count leaf).canonical := by
  cases leaf
  · exact h
  · exact canonical_countOn h _ _

/-! ### Outcomes -/

/-- An outcome is a next state in canonical form. -/
def AnswersCanonical (o : Out) : Prop := ∃ t, o = .next t ∧ t.canonical

theorem answersCanonical_next {s : State} (h : s.canonical) : AnswersCanonical (.next s) := ⟨s, rfl, h⟩

theorem answersCanonical_trapNow {s : State} (h : s.canonical) (fh : Bool) (cause : BitVec 8) (value : Word) :
    AnswersCanonical (s.trapNow fh cause value) := by
  unfold State.trapNow
  repeat' split
  · exact answersCanonical_next (canonical_txAbort h ..)
  · exact answersCanonical_next (canonical_stall h _)
  · exact answersCanonical_next (canonical_takeTrap h ..)

theorem answersCanonical_trap {s : State} (h : s.canonical) (fh : Bool) (cause : BitVec 8) (value : Word) :
    AnswersCanonical (s.trap fh cause value) := by
  unfold State.trap
  repeat' split
  · exact answersCanonical_next (canonical_holdTrap h ..)
  · exact answersCanonical_trapNow h ..
  · exact answersCanonical_trapNow (canonical_unholdTrap h) ..
  · exact answersCanonical_trapNow h ..

theorem answersCanonical_finishG {s : State} (h : s.canonical) (r : BitVec 5) (x : Word) : AnswersCanonical (s.finishG r x) :=
  answersCanonical_next (canonical_retire (canonical_setG h r x))

theorem answersCanonical_transfer {s : State} (h : s.canonical) (target : Word) {pre : State → State}
    (hp : ∀ u : State, u.canonical → (pre u).canonical) : AnswersCanonical (s.transfer target pre) := by
  unfold State.transfer
  dsimp only
  split
  · exact answersCanonical_next (canonical_goTo (hp _ (canonical_passOwn h)) _)
  · exact answersCanonical_next (canonical_stall (canonical_passOwn h) _)

/-- A C-word keeps the canonical form when its effect does. -/
theorem answersCanonical_cWord {s : State} (h : s.canonical) (cls : Fin 8) (gd : Guard) {effect : State → Out}
    (he : ∀ u : State, u.canonical → AnswersCanonical (effect u)) : AnswersCanonical (cWord cls gd s effect) := by
  unfold cWord
  repeat' split
  · exact answersCanonical_next (canonical_stall h _)
  · exact he _ (canonical_begin h cls)
  · exact answersCanonical_next (canonical_retire (canonical_begin h cls))

theorem answersCanonical_cWordIf {s : State} (h : s.canonical) (cls : Fin 8) (gd : Guard) (legal : Bool) {effect : State → Out}
    (he : ∀ u : State, u.canonical → AnswersCanonical (effect u)) : AnswersCanonical (cWordIf cls gd s legal effect) := by
  unfold cWordIf
  repeat' split
  · exact answersCanonical_next (canonical_stall h _)
  · exact answersCanonical_next (canonical_retire (canonical_begin h cls))
  · exact he _ (canonical_begin h cls)
  · exact answersCanonical_trap h ..

theorem answersCanonical_finishA {s : State} (h : s.canonical) (fl : BitVec 6) : AnswersCanonical (s.finishA fl) := by
  have ho := canonical_retireA (canonical_orFlags h fl)
  unfold State.finishA
  dsimp only
  repeat' split
  all_goals first
    | exact answersCanonical_next ho
    | exact answersCanonical_next (canonical_holdTrap ho ..)
    | exact answersCanonical_trap ho ..

/-- An A-word keeps the canonical form when its effect does. -/
theorem answersCanonical_aWord {s : State} (h : s.canonical) (cls : Fin 8) (gd : Guard) {effect : State → Out}
    (he : ∀ u : State, u.canonical → AnswersCanonical (effect u)) : AnswersCanonical (aWord cls gd s effect) := by
  unfold aWord
  split
  · exact he _ h
  · exact answersCanonical_next (canonical_retireA (canonical_charge h cls))

end Sys2Proof.Machine
end

