-- ==== Sys2Proof/Laws/Halves.lean ====
section
/-!
SUPPORT. What the shared operations of the access half can do: charging a word, passing an A-word, completing a bundle.
-/

namespace Sys2Proof.Machine

/-- What charging a C-word changes: ENERGY, and the mark that it has been charged (R370). -/
theorem begin_cases (s : State) (cls : Fin 8) :
    s.begin cls = { s with tile := { s.tile with ctx := { s.tile.ctx with energy := s.energyC cls }, front := { s.tile.front with latch := s.tile.front.latch.map fun l => { l with begun := true } } } } := by
  obtain ⟨tile, mem, hub, cycle, free, inputs⟩ := s
  obtain ⟨regs, matrix, ports, ctx, csr, front, wait, eng, seq, net, pend, path, res, power⟩ := tile
  obtain ⟨started, apc, latch, ahead, aq, rq, replay, ordered, skip, xtrap, ast, xst, loop, rpt⟩ := front
  by_cases hs : csr.status[0] = true
  all_goals rcases latch with _ | ⟨b, bg, ps⟩
  all_goals (try cases bg)
  all_goals simp [State.begin, State.charge, State.energyC, State.charged, State.sup, State.setCtx, State.setFront, hs]

/-- Different bundles are followed by different bundles. -/
theorem nextBundle_ne {a b : Word} (h : a ≠ b) : nextBundle a ≠ nextBundle b := by
  simpa [nextBundle] using h

/-- Writing back what is there changes nothing. -/
theorem setFront_self (s : State) : s.setFront s.tile.front = s := rfl

/-- What the end of a bundle does about a loop: it moves the front only, and only behind a body that goes round again. -/
theorem loopEnd_gen (X : State) (hl : X.tile.front.latch = none) (hs : X.tile.front.skip = false) :
    ∃ f : Front, (if X.loopPending then (if X.caughtUp then X.loopBack else X.setFront { X.tile.front with ast := .resource }) else X) = X.setFront f
      ∧ f.movedFrom X.tile.front ∧ (X.loopPending = false → f = X.tile.front) := by
  cases hp : X.loopPending with
  | false => exact ⟨X.tile.front, rfl, by simp [Front.movedFrom, ← hl, ← hs], fun _ => rfl⟩
  | true =>
    cases X.caughtUp with
    | true => exact ⟨_, rfl, by simp [Front.movedFrom, ← hl, ← hs], by simp⟩
    | false => exact ⟨_, rfl, by simp [Front.movedFrom, ← hl, ← hs], by simp⟩

/-- Moving on twice is moving on. -/
theorem movedFrom_trans {f g h : Front} (a : f.movedFrom g) (b : g.movedFrom h) : f.movedFrom h := by
  unfold Front.movedFrom at *; rw [a, b]

/-- Going on to the next bundle changes the front only. -/
theorem advance_gen (s : State) :
    ∃ f : Front, s.advance = s.setFront f ∧ f.movedFrom s.tile.front ∧
    (¬(s.tile.front.loop.lact = true ∧ s.tile.front.apc = s.tile.front.loop.last) → f = { s.tile.front with apc := nextBundle s.tile.front.apc, latch := none, ast := .run, skip := false }) := by
  obtain ⟨f, h1, h2, h3⟩ := loopEnd_gen (s.setFront { s.tile.front with
    apc := nextBundle s.tile.front.apc, latch := none, ast := .run, skip := false
    loop := if s.tile.front.loop.lact && decide (s.tile.front.apc = s.tile.front.loop.last) && s.tile.front.loop.lcnt == 0 then { s.tile.front.loop with lact := false } else s.tile.front.loop }) rfl rfl
  refine ⟨f, h1, movedFrom_trans h2 (by simp [Front.movedFrom, State.setFront]), ?_⟩
  intro hno
  have hd : (s.tile.front.loop.lact && decide (s.tile.front.apc = s.tile.front.loop.last)) = false := by
    cases h : (s.tile.front.loop.lact && decide (s.tile.front.apc = s.tile.front.loop.last)) with
    | false => rfl
    | true => exact absurd (by simpa using h) hno
  simp only [hd, Bool.false_and] at h3
  refine h3 ?_
  cases hb : (State.loopPending _) with
  | false => rfl
  | true =>
    exfalso
    simp only [State.loopPending, State.setFront, Bool.and_eq_true] at hb
    refine hno ⟨by simpa using hb.1.1.1, ?_⟩
    by_contra hne
    exact nextBundle_ne hne (by simpa using hb.1.2)

/-- Passing the bundle's own A-word changes the bundle in hand and the queue. -/
theorem passOwn_gen (s : State) :
    ∃ lt, s.passOwn = s.setFront { s.tile.front with latch := lt, aq := s.tile.front.aq ++ s.ownItem } := by
  unfold State.passOwn State.ownItem
  split
  · rename_i l w h1 h2; exact ⟨_, by rw [h2]⟩
  · rename_i h
    refine ⟨s.tile.front.latch, ?_⟩
    cases ho : s.ownA with
    | none => simp [State.setFront]
    | some w =>
      cases hl : s.tile.front.latch with
      | none => simp [State.ownA, hl] at ho
      | some l => exact absurd ho (h l w hl)

/-- Completing a bundle changes the front only, and straight on leads to the next bundle. -/
theorem retire_gen (s : State) :
    ∃ f : Front, s.retire = s.setFront f ∧ f.movedFrom s.tile.front ∧ (s.straight → f = s.frontAfter) := by
  obtain ⟨lt, hp⟩ := passOwn_gen s
  unfold State.retire
  simp only [hp]
  cases hl : s.tile.res.leaderNext with
  | some x =>
    refine ⟨_, by simp only [State.setFront, hl]; rfl, by simp [Front.movedFrom], ?_⟩
    intro h; simp [State.straight, hl] at h
  | none =>
    obtain ⟨f, h1, h2, h3⟩ := advance_gen (s.setFront { s.tile.front with latch := lt, aq := s.tile.front.aq ++ s.ownItem })
    refine ⟨f, ?_, ?_, ?_⟩
    · simp only [State.setFront] at h1 ⊢; simp only [hl, h1]
    · rw [Front.movedFrom] at h2 ⊢; exact h2
    · intro hs; rw [h3 hs.2]; rfl

/-- Charging a word does not change where the bundle leads. -/
theorem straight_begin (s : State) (cls) : (s.begin cls).straight ↔ s.straight := by
  rw [begin_cases]; simp [State.straight]

/-- Charging a word does not change where the bundle leads. -/
theorem frontAfter_begin (s : State) (cls) : (s.begin cls).frontAfter = s.frontAfter := by
  rw [begin_cases]; simp only [State.frontAfter, State.ownItem, State.ownA]
  cases s.tile.front.latch <;> simp

/-- A charged word that writes registers and completes. -/
theorem done_regs (s : State) (cls : Fin 8) (r : Regs) :
    s.doneC ((s.begin cls).setRegs r).retire cls r := by
  obtain ⟨f, h1, h2, h3⟩ := retire_gen ((s.begin cls).setRegs r)
  rw [h1]
  have e1 : ((s.begin cls).setRegs r).straight ↔ s.straight := by rw [← straight_begin s cls]; rfl
  have e2 : ((s.begin cls).setRegs r).frontAfter = s.frontAfter := by rw [← frontAfter_begin s cls]; rfl
  refine ⟨?_, ?_, ?_⟩
  · simp only [begin_cases, State.setRegs, State.setFront]
  · change f.movedFrom s.tile.front
    rw [begin_cases] at h2; exact h2
  · intro hs; exact (h3 (e1.2 hs)).trans e2

/-- Charging a word leaves the general registers. -/
@[simp] theorem begin_g (s : State) (cls r) : (s.begin cls).g r = s.g r := by rw [begin_cases]; rfl
/-- Charging a word leaves the predicates. -/
@[simp] theorem begin_p (s : State) (cls r) : (s.begin cls).p r = s.p r := by rw [begin_cases]; rfl

/-- An operation that writes a general register and completes. -/
theorem finishG_done (s : State) (cls : Fin 8) (d x) (i : Instr) (h : exec i s = (s.begin cls).finishG d x) : DoneC i s cls (s.setG d x).tile.regs := by
  refine ⟨_, h, ?_⟩
  have : (s.begin cls).setG d x = (s.begin cls).setRegs (s.setG d x).tile.regs := by
    rw [begin_cases]; unfold State.setG; split <;> simp [State.setRegs]
  rw [this]; exact done_regs ..
/-- A C-word that has its effect. -/
theorem cWord_on {cls gd s e} (h : s.issuesC gd) : cWord cls gd s e = e (s.begin cls) := by
  simp [cWord, h.1, h.2]

end Sys2Proof.Machine
end

