-- ==== Sys2Proof/Laws/Ops.lean ====
section
/-!
SUPPORT. What the shared operations over homes and over the execute half can do.
-/

namespace Sys2Proof.Machine

/-! ### Writing at a home (R4, R214, R226) -/

@[simp] theorem clearBad_mem (s : State) (a n : Nat) : (s.clearBad a n).mem = s.mem := rfl
@[simp] theorem clearBad_tile (s : State) (a n : Nat) : (s.clearBad a n).tile = s.tile := rfl

@[simp] theorem tagLines_mem (s : State) (a n : Nat) (tsc : BitVec 3) (writer : BitVec 24) : (s.tagLines a n tsc writer).mem = s.mem := by
  unfold State.tagLines; split <;> rfl
@[simp] theorem tagLines_tile (s : State) (a n : Nat) (tsc : BitVec 3) (writer : BitVec 24) : (s.tagLines a n tsc writer).tile = s.tile := by
  unfold State.tagLines; split <;> rfl
@[simp] theorem tagLines_bad (s : State) (a n : Nat) (tsc : BitVec 3) (writer : BitVec 24) :
    (s.tagLines a n tsc writer).hub.errors = s.hub.errors := by
  unfold State.tagLines; split <;> rfl

/-- The bytes of a write at its home are in memory, and no other byte changes. -/
@[simp] theorem writeHome_mem (s : State) (a n v : Nat) (tsc : BitVec 3) (writer : BitVec 24) :
    (s.writeHome a n v tsc writer).mem = s.mem.writeNat a n v := by
  unfold State.writeHome
  split
  · rename_i h; subst h; rfl
  · dsimp only; split <;> simp

/-- Of the tile, a write at a home changes at most lines of its L1. -/
theorem writeHome_tile (s : State) (a n v : Nat) (tsc : BitVec 3) (writer : BitVec 24) :
    ∃ l1, (s.writeHome a n v tsc writer).tile = { s.tile with path := { s.tile.path with l1 := l1 } } := by
  unfold State.writeHome
  split
  · exact ⟨s.tile.path.l1, rfl⟩
  · dsimp only
    split
    · exact ⟨s.tile.path.l1.map fun l => updateLine l a n v, by simp [State.setPath]⟩
    · exact ⟨s.tile.path.l1, by simp⟩

@[simp] theorem writeHome_regs (s : State) (a n v : Nat) (tsc : BitVec 3) (writer : BitVec 24) :
    (s.writeHome a n v tsc writer).tile.regs = s.tile.regs := by
  obtain ⟨l, h⟩ := writeHome_tile s a n v tsc writer; rw [h]

@[simp] theorem writeHome_front (s : State) (a n v : Nat) (tsc : BitVec 3) (writer : BitVec 24) :
    (s.writeHome a n v tsc writer).tile.front = s.tile.front := by
  obtain ⟨l, h⟩ := writeHome_tile s a n v tsc writer; rw [h]

@[simp] theorem writeHome_csr (s : State) (a n v : Nat) (tsc : BitVec 3) (writer : BitVec 24) :
    (s.writeHome a n v tsc writer).tile.csr = s.tile.csr := by
  obtain ⟨l, h⟩ := writeHome_tile s a n v tsc writer; rw [h]

@[simp] theorem writeHome_ctx (s : State) (a n v : Nat) (tsc : BitVec 3) (writer : BitVec 24) :
    (s.writeHome a n v tsc writer).tile.ctx = s.tile.ctx := by
  obtain ⟨l, h⟩ := writeHome_tile s a n v tsc writer; rw [h]

/-- With no uncorrectable error in the machine, no read finds one. -/
theorem firstBad_none {s : State} (h : s.hub.errors.bad = []) (a n : Nat) : s.firstBad a n = none := by
  unfold State.firstBad
  rw [h]
  induction List.range ((a % 8 + n + 7) / 8) with
  | nil => rfl
  | cons x l ih => simp

/-! ### The execute half -/

/-- Repeat bookkeeping of an issue changes the front only. -/
theorem retireA_gen (s : State) : ∃ f : Front, s.retireA = s.setFront f ∧ f.apc = s.tile.front.apc ∧ f.latch = s.tile.front.latch
    ∧ f.loop = s.tile.front.loop ∧ f.ast = s.tile.front.ast ∧ f.xst = .run := by
  have hp : ∀ g : Front, g.popA.apc = g.apc ∧ g.popA.latch = g.latch ∧ g.popA.loop = g.loop ∧ g.popA.ast = g.ast ∧ g.popA.xst = g.xst := by
    intro g; unfold Front.popA; split <;> exact ⟨rfl, rfl, rfl, rfl, rfl⟩
  have h := hp { s.tile.front with xst := .run }
  unfold State.retireA
  dsimp only
  split
  · exact ⟨_, rfl, h.1, h.2.1, h.2.2.1, h.2.2.2.1, h.2.2.2.2⟩
  · split
    · exact ⟨_, rfl, h.1, h.2.1, h.2.2.1, h.2.2.2.1, h.2.2.2.2⟩
    · exact ⟨_, rfl, rfl, rfl, rfl, rfl, rfl⟩

@[simp] theorem retireA_regs (s : State) : s.retireA.tile.regs = s.tile.regs := by
  obtain ⟨f, h, -⟩ := retireA_gen s; rw [h]; rfl
@[simp] theorem retireA_mem (s : State) : s.retireA.mem = s.mem := by
  obtain ⟨f, h, -⟩ := retireA_gen s; rw [h]; rfl
@[simp] theorem retireA_ctx (s : State) : s.retireA.tile.ctx = s.tile.ctx := by
  obtain ⟨f, h, -⟩ := retireA_gen s; rw [h]; rfl

/-- An A-word whose guard holds has its effect. -/
theorem aWord_on {cls : Fin 8} {gd : Guard} {s : State} {e : State → Out} (h : s.guardA gd = true) : aWord cls gd s e = e s := by
  unfold aWord; rw [if_pos h]

/-- An A-word whose guard does not hold is charged, and leaves the half. -/
theorem aWord_off {cls : Fin 8} {gd : Guard} {s : State} {e : State → Out} (h : s.guardA gd = false) :
    aWord cls gd s e = .next (s.charge cls).retireA := by
  unfold aWord; rw [h]; rfl

/-- An A-word that raises no enabled flag ORs its flags and leaves the half. -/
theorem finishA_of_not_enabled {s : State} {fl : BitVec 6} (h : (s.orFlags fl).retireA.enabled fl = 0) :
    s.finishA fl = .next (s.orFlags fl).retireA := by
  unfold State.finishA
  dsimp only
  rw [if_pos h]

/-! ### Words of the access half -/

/-- A C-word whose guard does not hold is charged and completes. -/
theorem cWord_off {cls : Fin 8} {gd : Guard} {s : State} {e : State → Out} (hq : s.queueFull = false) (h : s.guardC gd = false) :
    cWord cls gd s e = .next (s.begin cls).retire := by
  unfold cWord; rw [hq, h]; rfl

/-- A C-word whose A-word has no room waits, and changes nothing but the state of its half. -/
theorem cWord_full {cls : Fin 8} {gd : Guard} {s : State} {e : State → Out} (h : s.queueFull = true) :
    cWord cls gd s e = .next (s.stall .resource) := by
  unfold cWord; rw [if_pos h]

/-- A trap of the execute half waits for an instruction of the access half that is not cut. -/
theorem trap_of_committed {s : State} (h : s.committed = true) (cause : BitVec 8) (value : Word) :
    s.trap true cause value = .next (s.holdTrap cause value) := by
  unfold State.trap; rw [h]; rfl

/-- Otherwise, outside a transaction and with no trap held, a synchronous trap is taken. -/
theorem trap_of_not_txact {s : State} {fh : Bool} (hc : (fh && s.committed) = false) (h : s.txact = false)
    (hx : s.tile.front.xtrap = none) (cause : BitVec 8) (value : Word) : s.trap fh cause value = .next (s.takeTrap fh cause value) := by
  unfold State.trap State.trapNow; rw [hc, h, hx]; rfl

/-- A trap of the access half gives way to one that the execute half holds (R237). -/
theorem trap_of_held {s : State} {c : BitVec 8} {v : Word} (hx : s.tile.front.xtrap = some (c, v)) (cause : BitVec 8) (value : Word) :
    s.trap false cause value = s.unholdTrap.trapNow true c v := by
  unfold State.trap; rw [hx]; rfl

/-! ### Writes by agents other than the access half (R180) -/

/-- A conflict is marked in the open transaction, and nothing else changes. -/
theorem txHit_path (s : State) (line : Nat) (isLoad : Bool) :
    s.txHit line isLoad = s ∨ ∃ t, s.tile.path.tx = some t ∧
      s.txHit line isLoad = s.setPath { s.tile.path with tx := some { t with conflict := true } } := by
  unfold State.txHit
  split
  · exact .inl rfl
  · rename_i t ht
    split
    · exact .inr ⟨t, ht, rfl⟩
    · exact .inl rfl

@[simp] theorem txHit_mem (s : State) (line : Nat) (isLoad : Bool) : (s.txHit line isLoad).mem = s.mem := by
  obtain h | ⟨t, -, h⟩ := txHit_path s line isLoad <;> rw [h]; rfl

@[simp] theorem txHits_mem (s : State) (a n : Nat) (isLoad : Bool) : (s.txHits a n isLoad).mem = s.mem := by
  unfold State.txHits
  split
  · rfl
  · generalize List.range ((lineOf (a + n - 1) - lineOf a) / 64 + 1) = l
    clear * -
    induction l generalizing s with
    | nil => rfl
    | cons x l ih => rw [List.foldl_cons, ih, txHit_mem]

/-- The bytes of another agent's write are in memory, and no other byte changes. -/
@[simp] theorem otherWrite_mem (s : State) (a n v : Nat) (tsc : BitVec 3) (writer : BitVec 24) :
    (s.otherWrite a n v tsc writer).mem = s.mem.writeNat a n v := by
  unfold State.otherWrite; simp

end Sys2Proof.Machine
end

