-- ==== Sys2Proof/Tests/Slice0.lean ====
section
/-!
SUPPORT. Tests of the model: ill-formed terms, words written out from the tables of the spec, the spec's own examples, and states
that meet the hypotheses of the statements.
-/

namespace Sys2Proof.Tests

open Sys2Proof Sys2Proof.Machine

set_option Elab.async false

/-! ### Well-formed and ill-formed instructions -/

/-- N = 1 with predicate 0 (R75), on the three kinds of word and on BP's own. -/
theorem test_wf_guards : (Instr.nop ⟨0, 0⟩).wf = true ∧ (Instr.nop ⟨1, 0⟩).wf = false ∧ (Instr.anop ⟨1, 0⟩).wf = false
    ∧ (Instr.tshape ⟨1, 0⟩ 0).wf = false ∧ (Instr.bp ⟨0, 0⟩ 1 0 (.fld 0)).wf = false ∧ (Instr.bp ⟨0, 0⟩ 1 1 (.fld 0)).wf = true := by
  decide

/-- Operand names 29 to 31 and type code 7 (Tables 3.4, 3.5), in each position. -/
theorem test_wf_operands : (Instr.vadd ⟨0, 0⟩ 28 28 28 6).wf = true ∧ (Instr.vadd ⟨0, 0⟩ 29 0 0 0).wf = false
    ∧ (Instr.vadd ⟨0, 0⟩ 0 30 0 0).wf = false ∧ (Instr.vadd ⟨0, 0⟩ 0 0 31 0).wf = false ∧ (Instr.vadd ⟨0, 0⟩ 0 0 0 7).wf = false
    ∧ (Instr.vtestAny ⟨0, 0⟩ 7 29 0).wf = false ∧ (Instr.vsel ⟨0, 0⟩ 0 0 29).wf = false ∧ (Instr.vcvt ⟨0, 0⟩ 0 0 0 7 0).wf = false
    ∧ (Instr.mrd ⟨0, 0⟩ 29 0 0 0).wf = false ∧ (Instr.mcfg ⟨0, 0⟩ 0 29).wf = false := by decide

/-- Reserved and unassigned sub-fields of the access half (Tables 3.8, 4.6, R185, R209). -/
theorem test_wf_fields : (Instr.pset ⟨0, 0⟩ 1 1 (.fld 1) 6).wf = false ∧ (Instr.ld ⟨0, 0⟩ 1 1 7 (.fld 0)).wf = false
    ∧ (Instr.st ⟨0, 0⟩ 1 1 4 (.fld 0)).wf = false ∧ (Instr.stq ⟨0, 0⟩ 4 0 0 0).wf = false ∧ (Instr.frel ⟨0, 0⟩ 5).wf = false
    ∧ (Instr.facq ⟨0, 0⟩ 5).wf = false ∧ (Instr.fseq ⟨0, 0⟩ 5).wf = false ∧ (Instr.txc ⟨0, 0⟩ 5).wf = false
    ∧ (Instr.epush ⟨0, 0⟩ 1 3).wf = false ∧ (Instr.epop ⟨0, 0⟩ 1 0 3).wf = false ∧ (Instr.gang ⟨0, 0⟩ 3).wf = false
    ∧ (Instr.mswp ⟨0, 0⟩ 3).wf = false := by decide

/-- TMODE values that Table 6.7 does not assign, and handle fields that a mode does not use. -/
theorem test_wf_tile_modes : (Instr.tbind ⟨0, 0⟩ 1 0 2 0).wf = false ∧ (Instr.tbind ⟨0, 0⟩ 1 2 0 0).wf = false
    ∧ (Instr.tew ⟨0, 0⟩ 1 2 3 6 0).wf = false ∧ (Instr.tew ⟨0, 0⟩ 1 2 3 5 0).wf = false ∧ (Instr.tcvt ⟨0, 0⟩ 1 2 4 0).wf = false
    ∧ (Instr.tred ⟨0, 0⟩ 1 2 12 0).wf = false ∧ (Instr.ttopk ⟨0, 0⟩ 1 2 0 4 0).wf = false ∧ (Instr.ttopk ⟨0, 0⟩ 1 2 3 0 0).wf = false
    ∧ (Instr.tfill ⟨0, 0⟩ 1 2 0).wf = false ∧ (Instr.tdrop ⟨0, 0⟩ 1 2 0 4 0).wf = false ∧ (Instr.tdrop ⟨0, 0⟩ 1 2 3 1 0).wf = false
    ∧ (Instr.tsync ⟨0, 0⟩ 5 0).wf = false ∧ (Instr.tcoll ⟨0, 0⟩ 1 2 2 0).wf = false := by decide

/-! ### Words written out bit by bit from the encodings of the spec -/

/-- Form 0b11, a lone form that is not permitted, a reserved operand name, an unassigned major (Tables 3.1, 3.7, 3.8). -/
theorem test_words_refused : decodeBundle 0b11000000000000000000000000000000 0 = .encoding
    ∧ decodeBundle 0b01000000010100000000000000000000 0 = .encoding ∧ decodeA 0b00000010001110100000000000000000 = .encoding
    ∧ decodeBundle 0b00000011110000000000000000000000 0 = .unassigned := by decide +kernel

/-- Table 7.2. -/
theorem test_words_of_system :
    decodeBundle 0b00000000000000000000000010100010 0 = .ok (.trap ⟨0, 0⟩ 5)
      ∧ decodeBundle 0b00101100000001001010100000000101 0 = .ok (.wpsw ⟨1, 3⟩ 9 10)
      ∧ decodeBundle 0b00000000000000000000000000000011 0 = .ok (.tret ⟨0, 0⟩) := by decide +kernel

/-- format CS. -/
theorem test_words_of_csr :
    decodeBundle 0b00000000000100011000000000010001 0 = .ok (.csrr ⟨0, 0⟩ 3 0x11)
      ∧ decodeBundle 0b00000000001000011001000000011000 0 = .ok (.csrw ⟨0, 0⟩ 3 4 0x18) := by decide +kernel

/-- R90. -/
theorem test_words_of_alu :
    decodeBundle 0b00000000010100001000100001100001 0 = .ok (.sub ⟨0, 0⟩ 1 2 3)
      ∧ decodeBundle 0b00000000010100001000100001101110 0 = .ok (.divu ⟨0, 0⟩ 1 2 3)
      ∧ decodeBundle 0b00000000010100001000100000011001 0 = .ok (.popc ⟨0, 0⟩ 1 2) := by decide +kernel

/-- Table 4.3. -/
theorem test_words_of_immediate :
    decodeBundle 0b01000000011100001000100000000000 0xffff0000 = .ok (.andi ⟨0, 0⟩ 1 2 (.lone 0xFFFF0000))
      ∧ decodeBundle 0b00000000101000001000101000111111 0 = .ok (.srai ⟨0, 0⟩ 1 2 63)
      ∧ decodeBundle 0b00000000110100111111111111111111 0 = .ok (.ldih ⟨0, 0⟩ 7 (.fld 0x7FFF)) := by decide +kernel

/-- R93, R94. -/
theorem test_words_of_predicates :
    decodeBundle 0b00000000111010001001100010110000 0 = .ok (.pset ⟨0, 0⟩ 4 9 (.fld 17) 3)
      ∧ decodeBundle 0b00000000111100101010100000000011 0 = .ok (.plogAndn ⟨0, 0⟩ 1 2 5) := by decide +kernel

/-- Table 4.4, R97, R99. -/
theorem test_words_of_transfers :
    decodeBundle 0b00000001000111111111111111111110 0 = .ok (.call ⟨0, 0⟩ (.fld 0xFFFFE))
      ∧ decodeBundle 0b00000001001000000111110000000000 0 = .ok (.jmpr ⟨0, 0⟩ 0 31)
      ∧ decodeBundle 0b00000001100111010000000000000010 0 = .ok (.bp ⟨0, 0⟩ 1 5 (.fld 2))
      ∧ decodeBundle 0b00000001101000110000000000001100 0 = .ok (.loop ⟨0, 0⟩ 6 (.fld 12))
      ∧ decodeBundle 0b00000001101100110000111100100000 0 = .ok (.rpt ⟨0, 0⟩ 3 15 2) := by decide +kernel

/-- R105, R107. -/
theorem test_words_of_memory :
    decodeBundle 0b00000010000000100000101100000010 0 = .ok (.ld ⟨0, 0⟩ 4 2 6 (.fld 2))
      ∧ decodeBundle 0b00000010000101000010010011111111 0 = .ok (.st ⟨0, 0⟩ 8 9 1 (.fld 0x7F))
      ∧ decodeBundle 0b00000010001011111111110001100000 0 = .ok (.ldq ⟨0, 0⟩ 7 127 3 0)
      ∧ decodeBundle 0b00000010001101000000000001100100 0 = .ok (.stq ⟨0, 0⟩ 2 0 3 4) := by decide +kernel

/-- format CA. -/
theorem test_words_of_atomics :
    decodeBundle 0b00000010010000001000100001111110 0 = .ok (.acas ⟨0, 0⟩ 1 2 3 1) := by decide +kernel

/-- format CF; R179. -/
theorem test_words_of_fences :
    decodeBundle 0b00000010010100000000000001000010 0 = .ok (.fseq ⟨0, 0⟩ 4)
      ∧ decodeBundle 0b01000010011000101000000000000000 0xfffffffe = .ok (.txb ⟨0, 0⟩ 5 0xFFFFFFFE) := by decide +kernel

/-- Table 4.5. -/
theorem test_words_of_addresses :
    decodeBundle 0b00000010011100001000100001100001 0 = .ok (.mkaddr ⟨0, 0⟩ 1 2 3)
      ∧ decodeBundle 0b00000010011100001000100000000100 0 = .ok (.absaddr ⟨0, 0⟩ 1 2) := by decide +kernel

/-- Table 4.9. -/
theorem test_words_of_ports :
    decodeBundle 0b00000010100010001001000001000000 0 = .ok (.bind ⟨0, 0⟩ 17 4 2)
      ∧ decodeBundle 0b00000010100010100010000000000010 0 = .ok (.pdrop ⟨0, 0⟩ 20 8)
      ∧ decodeBundle 0b00000010100000011110110000000101 0 = .ok (.movg ⟨0, 0⟩ 3 27) := by decide +kernel

/-- R116. -/
theorem test_words_of_rings :
    decodeBundle 0b00000010100100000001100110100000 0 = .ok (.rset ⟨0, 0⟩ 6 13)
      ∧ decodeBundle 0b00000010100100110000000110100100 0 = .ok (.cons ⟨0, 0⟩ 6 13) := by decide +kernel

/-- R185 to R187. -/
theorem test_words_of_engines :
    decodeBundle 0b00000010101000000001110000100000 0 = .ok (.epush ⟨0, 0⟩ 7 1)
      ∧ decodeBundle 0b00000010101001001000010001000001 0 = .ok (.epop ⟨0, 0⟩ 9 1 2)
      ∧ decodeBundle 0b00000010101000001000100001100010 0 = .ok (.cpy ⟨0, 0⟩ 1 2 3) := by decide +kernel

/-- R190, R194, R195. -/
theorem test_words_of_messages :
    decodeBundle 0b00000010101100110010000000000000 0 = .ok (.mbw ⟨0, 0⟩ 6 8)
      ∧ decodeBundle 0b00000010101100100000000000000010 0 = .ok (.recv ⟨0, 0⟩ 4)
      ∧ decodeBundle 0b00000010101100000000000000000011 0 = .ok (.waitm ⟨0, 0⟩) := by decide +kernel

/-- R197, R199 to R201. -/
theorem test_words_of_sync :
    decodeBundle 0b00000010110000001000100001100000 0 = .ok (.sstep ⟨0, 0⟩ 1 2 3)
      ∧ decodeBundle 0b00000010110000001000100001100001 0 = .ok (.barj ⟨0, 0⟩ 1 2 3)
      ∧ decodeBundle 0b00000010110000101000000011000010 0 = .ok (.waite ⟨0, 0⟩ 5 6)
      ∧ decodeBundle 0b00000010110000101001100000000011 0 = .ok (.sleep ⟨0, 0⟩ 5 6) := by decide +kernel

/-- R203. -/
theorem test_words_of_tasks :
    decodeBundle 0b00000010110100001000100001100000 0 = .ok (.tspawn ⟨0, 0⟩ 1 2 3)
      ∧ decodeBundle 0b00000010110100000000100000000010 0 = .ok (.tdone ⟨0, 0⟩ 2) := by decide +kernel

/-- R205, R206. -/
theorem test_words_of_power :
    decodeBundle 0b00000010111000001000100001100000 0 = .ok (.sprl ⟨0, 0⟩ 1 2 3)
      ∧ decodeBundle 0b00000010111000001000100000000001 0 = .ok (.sprx ⟨0, 0⟩ 1 2) := by decide +kernel

/-- R207, R209. -/
theorem test_words_of_sweut_and_gang :
    decodeBundle 0b00000010111100000000100000000001 0 = .ok (.swmx ⟨0, 0⟩ 2)
      ∧ decodeBundle 0b00000011000000010000000000000000 0 = .ok (.gang ⟨0, 0⟩ 2)
      ∧ decodeBundle 0b00000011000000000000000000000001 0 = .ok (.ungang ⟨0, 0⟩) := by decide +kernel

/-- Tables 3.6, 6.7. -/
theorem test_words_of_tile :
    decodeBundle 0b10000000000000000000000000000000 0x12345678 = .ok (.tshape ⟨0, 0⟩ 0x12345678)
      ∧ decodeBundle 0b10000010010100010010010100000100 0x3f800000 = .ok (.tmma ⟨0, 0⟩ 5 1 2 5 4 0x3F800000)
      ∧ decodeBundle 0b10000111000100100000001100000010 0x7 = .ok (.ttopk ⟨0, 0⟩ 1 2 3 2 7)
      ∧ decodeBundle 0b10001001010000000000000000000001 0x9 = .ok (.tfill ⟨0, 0⟩ 4 1 9)
      ∧ decodeBundle 0b10001100000000000000000011001000 0 = .ok (.tsyncDrop ⟨1, 4⟩ 0)
      ∧ decodeBundle 0b10001101000100100000000000000001 0 = .ok (.tcoll ⟨0, 0⟩ 1 2 1 0) := by decide +kernel

/-- R123. -/
theorem test_awords_of_integer :
    decodeA 0b00000000010001110000100100100011 = .ok (.vmulh ⟨0, 0⟩ 3 16 18 2)
      ∧ decodeA 0b11110000010001100100000001101101 = .ok (.vneg ⟨1, 7⟩ 3 4 6) := by decide +kernel

/-- R124. -/
theorem test_awords_of_float :
    decodeA 0b00000000100000000001000100110111 = .ok (.ffma ⟨0, 0⟩ 0 1 2 3) := by decide +kernel

/-- R126. -/
theorem test_awords_of_compare :
    decodeA 0b00000000110010100001000100000011 = .ok (.vcmpLe ⟨0, 0⟩ 5 1 2 0)
      ∧ decodeA 0b00000000110011000001000001011001 = .ok (.vtestAll ⟨0, 0⟩ 6 1 5) := by decide +kernel

/-- R127. -/
theorem test_awords_of_special :
    decodeA 0b00000001000001000011000001010101 = .ok (.ftanh ⟨0, 0⟩ 2 3 5) := by decide +kernel

/-- R131 to R133. -/
theorem test_awords_of_reduce :
    decodeA 0b00000001100001000011000001000001 = .ok (.vrmax ⟨0, 0⟩ 2 3 4)
      ∧ decodeA 0b00000001100001000011011110100101 = .ok (.vbcst ⟨0, 0⟩ 2 3 15 2) := by decide +kernel

/-- R128 to R130. -/
theorem test_awords_of_convert :
    decodeA 0b00000001010001000011101001010000 = .ok (.vcvt ⟨0, 0⟩ 2 3 2 4 5)
      ∧ decodeA 0b00000001010001000011000010000100 = .ok (.vunpk ⟨0, 0⟩ 2 3 1) := by decide +kernel

/-- R134, R135. -/
theorem test_awords_of_move :
    decodeA 0b00000001110001000011000110100000 = .ok (.vrng ⟨0, 0⟩ 2 3 3 2)
      ∧ decodeA 0b00000010001100111100000000000000 = .ok (.vmov ⟨0, 0⟩ 25 28) := by decide +kernel

/-- Table 6.1. -/
theorem test_awords_of_matrix :
    decodeA 0b00000010011101010011010000000000 = .ok (.mldb ⟨0, 0⟩ 1 84 1 5)
      ∧ decodeA 0b00000010011000000000000000000001 = .ok (.mswp ⟨0, 0⟩ 2)
      ∧ decodeA 0b00000010011001010101001100000010 = .ok (.mma ⟨0, 0⟩ 9 0 84 6)
      ∧ decodeA 0b00000010011000000000000001000011 = .ok (.macz ⟨0, 0⟩ 0x8001)
      ∧ decodeA 0b00000010010001110101100000000100 = .ok (.mrd ⟨0, 0⟩ 3 10 1 1)
      ∧ decodeA 0b00000010010001111100000000000101 = .ok (.mcfg ⟨0, 0⟩ 3 28) := by decide +kernel

/-! ### The spec's own worked examples -/

/-- What holds of the next state of an operation, if there is one. -/
def nextHas (o : Host.Outcome State Fault Refusal) (p : State → Bool) : Bool :=
  match o with
  | .next t => p t
  | _ => false

/-- Supervisor mode, between bundles. -/
def sup : State := State.reset.idled
/-- Task mode, between bundles. -/
def user : State := sup.setStatusBit 0 false

/-- R90's ADD, R105's LD.D, R128's VCVT, R129's VQNT and R151's TMMA, as their entries spell them in hexadecimal. -/
theorem test_example_words : decodeBundle 0x00518440 0 = .ok (.add ⟨0, 0⟩ 3 1 2) ∧ decodeBundle 0x02020B02 0 = .ok (.ld ⟨0, 0⟩ 4 2 6 (.fld 2))
    ∧ decodeA 0x01420650 = .ok (.vcvt ⟨0, 0⟩ 1 0 1 4 5) ∧ decodeA 0x01441AC1 = .ok (.vqnt ⟨0, 0⟩ 2 1 0x15 4)
    ∧ decodeBundle 0x82512504 0x3F800000 = .ok (.tmma ⟨0, 0⟩ 5 1 2 5 4 0x3F800000) := by decide +kernel

/-- The FP32 values of Tables 2.6 and 2.9, in a block of 32. -/
def block (l : List Nat) (last : Nat) : List Ext :=
  (l ++ List.replicate (31 - l.length) 0 ++ [last]).map (fp32.read false)

/-- Table 2.7: 5.0, -1.2, 2.7, 0.25 and 0.75 in MXFP4. -/
theorem test_table_2_7 : quantise .mxE2m1 false (fun _ => .rne) (block [0x40A00000, 0xBF99999A, 0x402CCCCD, 0x3E800000] 0x3F400000)
    = (0xA6 + 0x05 * 256 + 0x20 * 256 ^ 15 + 0x7F * 256 ^ 16, flNX) := by decide +kernel

/-- Table 2.9: 3.0, -1.0, 0.2, 0.05 and -0.03 in TB4. -/
theorem test_table_2_9 :
    let r := quantise .tb4 false (fun _ => .rne) (block [0x40400000, 0xBF800000, 0x3E4CCCCD, 0x3D4CCCCD, 0xBCF5C28F] 0)
    r.1 % 256 ^ 4 = 0x444C5793 ∧ r.1 / 256 ^ 15 % 256 ^ 5 = 0x00007C8044 ∧ r.2 = flNX := by decide +kernel

/-- Table 2.8: 2.7 in E2M1 under SR with the forced values 0x80_0000 and 0xC0_0000, and with MJX of index 0. -/
theorem test_table_2_8 :
    let c (srfix : Word) := (convertElem .e2m1 false (.sr (srDraw 0 0 0 0 srfix)) (fp32.read false 0x402CCCCD)).1
    c 0x01800000 = 5 ∧ c 0x01C00000 = 4 ∧ c 0 = 5 := by decide +kernel

/-- R134: lane 0 of VRNG with va = z, SEEDS and SEEDK 0, for w = 0 and w = 1. -/
theorem test_vrng : nextHas (exec (.vrng ⟨0, 0⟩ 1 28 0 2) sup) (fun t => laneOf 32 (t.v 1) 0 == 0xA22B2547)
    ∧ nextHas (exec (.vrng ⟨0, 0⟩ 1 28 1 2) sup) (fun t => laneOf 32 (t.v 1) 0 == 0x4354063C) := by decide +kernel

/-- Table 5.2: VMULH.i16 of 0x4000 and 6 is 1; VADDS.i8 of 0x70 and 0x20 is 0x7F with SAT and OF. -/
theorem test_integer_lanes :
    let s := (sup.writeRow 1 0x4000).writeRow 2 0x0006
    nextHas (exec (.vmulh ⟨0, 0⟩ 3 1 2 1) s) (fun t => t.v 3 == 1)
      ∧ nextHas (exec (.vadds ⟨0, 0⟩ 3 1 2 0) ((sup.writeRow 1 0x70).writeRow 2 0x20)) (fun t =>
          t.v 3 == 0x7F && t.tile.ctx.fcsr.extractLsb' 8 6 == flSAT ||| flOF) := by decide +kernel

/-- R91: division by 0, and the most negative number by -1. -/
theorem test_div_corners :
    let s := (sup.setG 1 0x8000000000000000).setG 2 (-1)
    nextHas (exec (.div ⟨0, 0⟩ 3 1 2) s) (fun t => t.g 3 == 0x8000000000000000)
      ∧ nextHas (exec (.rem ⟨0, 0⟩ 3 1 2) s) (fun t => t.g 3 == 0)
      ∧ nextHas (exec (.div ⟨0, 0⟩ 3 1 4) s) (fun t => t.g 3 == -1) := by decide +kernel

/-- Table 13.5: DPA 0x10_8C01_1123 of package 0 is mesh offset 0x0000_0110_C401_1123; Table 13.2: L above 3,967 names no vault. -/
theorem test_dpa : dpaAddr 0 0x108C011123 = some 0x00000110C4011123 ∧ dpaAddr 0 (3968 * 2 ^ 26) = none := by decide +kernel

/-- Table 18.6: 85.0 °C at 50 µs throttles a strip that has been unthrottled for 1 ms, 84.9375 °C does not; the 82.0625 °C at 400 µs
restarts the run of low readings. -/
theorem test_table_18_6 :
    let x : Strip := { Strip.reset with turned := 0 }
    (x.sample 2520000 1360).thr = true ∧ (x.sample 2520000 1359).thr = false
      ∧ ({ x with thr := true, recent := [1304, 1304, 1304] }.sample 2520000 1304).thr = false
      ∧ ({ x with thr := true, recent := [1304, 1304, 1313] }.sample 2520000 1304).thr = true := by decide +kernel

/-! ### States that meet the hypotheses of the statements -/

/-- AluGroupResults, ImmediateFormResults, PredicateResults and every other statement whose only premises are that a C-word issues
(`issuesC`), that a transfer is taken at once (`jumps`), or that the bundle is followed by the next (`straight`); a guard with N = 1
holds where its predicate is 0. -/
theorem witness_issues : sup.issuesC ⟨0, 0⟩ ∧ user.issuesC ⟨0, 0⟩ ∧ user.issuesC ⟨1, 3⟩ ∧ user.jumps ∧ sup.jumps ∧ user.straight := by
  unfold State.issuesC State.jumps State.straight; decide +kernel

/-- TransferResults: a target in ga that is a multiple of 8. -/
theorem witness_transfer : (user.setG 5 0x1238).issuesC ⟨0, 0⟩ ∧ (user.setG 5 0x1238).jumps ∧ ((user.setG 5 0x1238).g 5).toNat % 8 = 0 := by
  unfold State.issuesC State.jumps; decide +kernel

/-- `user` at the last bundle of a body of four that starts at 0x40, with `n` iterations to go. -/
def lastOfLoop (n : BitVec 32) : State :=
  user.setFront { user.tile.front with apc := 0x58, loop := { lcnt := n, llen := 4, lact := true, lbeg := 0x40 } }

/-- LoopsAndRepeats: a count and none, the longest and the shortest body, a marker, and the last bundle of a body in both cases. -/
theorem witness_loops :
    ((user.setG 1 3).issuesC ⟨0, 0⟩ ∧ (user.setG 1 3).tile.front.loop.lact = false ∧ (user.setG 1 3).tile.res.leaderNext = none
      ∧ ((user.setG 1 3).g 1).extractLsb' 0 32 ≠ 0 ∧ (user.g 1).extractLsb' 0 32 = 0 ∧ 0 < (1 : BitVec 15).toNat
      ∧ (0xFFFFF : BitVec 32).toNat < 2 ^ 20 ∧ user.jumps)
    ∧ (let s := user.setFront { user.tile.front with ordered := some (.marker 3 7 1) }
      s.tile.front.ordered = some (.marker 3 7 1) ∧ s.straight ∧ s.tile.front.rpt.ract = false)
    ∧ (let s := lastOfLoop 0
      s.issuesC ⟨0, 0⟩ ∧ s.jumps ∧ s.tile.front.loop.lact = true ∧ 0 < s.tile.front.loop.llen.toNat ∧ s.tile.front.loop.lcnt = 0
        ∧ s.tile.front.apc = s.tile.front.loop.lbeg + 8 * (s.tile.front.loop.llen.setWidth 64 - 1))
    ∧ (lastOfLoop 2).issuesC ⟨0, 0⟩ ∧ (lastOfLoop 2).jumps ∧ (lastOfLoop 2).tile.front.loop.lcnt ≠ 0 := by
  unfold State.issuesC State.jumps State.straight; decide +kernel

/-- SystemGroupResults: nothing in flight, and a tile instruction that has faulted; task mode and supervisor mode outside a transaction
and a loop. -/
theorem witness_system : user.issuesC ⟨0, 0⟩ ∧ user.caughtUp = true ∧ user.seqIdle = true ∧ user.enginesIdle = true ∧ user.mallow = 8
    ∧ user.tile.path.posted = [] ∧ ((user.begin 0).flushAll).tile.path.failures = [] ∧ user.tile.path.l1 = [] ∧ user.tile.seq.held = none
    ∧ (sup.setSeq { sup.tile.seq with stopped := true }).tile.seq.stopped = true ∧ sup.tile.seq.running = none ∧ user.calm
    ∧ user.loopsBack = false ∧ user.sup = false ∧ sup.sup = true := by unfold State.issuesC State.calm; decide +kernel

/-- CsrInstructionResults: an absent CSR, a read-only one, a writable one, an ordered one and a pointer; a value at either end of a
pointer's range, one above it and one between its multiples; RM 4 and 5; two CSRs. -/
theorem witness_csr : csrAccess user.sup 0x003 = .absent ∧ user.txact = false ∧ csrAccess user.sup 0x011 = .ro
    ∧ csrAccess user.sup 0x018 = .rw ∧ csrOrdered 0x018 = true ∧ user.caughtUp = true
    ∧ csrAccess sup.sup 0x004 = .rw ∧ csrOrdered 0x004 = false ∧ csrPointer 0x004 = false ∧ user.calm ∧ sup.calm
    ∧ csrAccess sup.sup 0x001 = .rw ∧ csrPointer 0x001 = true ∧ csrAccess sup.sup 0x003 = .rw ∧ csrPointer 0x003 = true
    ∧ sup.ownA = none ∧ sup.caughtUp = true ∧ (0 : Word).toNat % 64 = 0 ∧ (0x77AC0 : Word).toNat % 64 = 0 ∧ (0x77AC0 : Word).toNat ≤ 0x77AC0
    ∧ (0x77B00 : Word).toNat % 64 = 0 ∧ 0x77AC0 < (0x77B00 : Word).toNat ∧ (0x77AC1 : Word).toNat % 64 ≠ 0
    ∧ (4 : Word).toNat % 8 ≤ 4 ∧ ¬(5 : Word).toNat % 8 ≤ 4 ∧ csrAccess true 0x010 ≠ .absent := by unfold State.calm; decide +kernel

/-- `user` with in4 bound to engine loads and out1 to stores in both halves, and two rows in each. -/
def bound : State :=
  user.setPorts { user.tile.ports with
    acc := (user.tile.ports.acc.set 4 ⟨1, 0⟩).set 9 ⟨2, 0⟩, exe := (user.tile.ports.exe.set 4 ⟨1, 0⟩).set 9 ⟨2, 0⟩
    inq := user.tile.ports.inq.set 4 [{ row := 5, side := 0 }, { row := 6, side := 0 }], outq := user.tile.ports.outq.set 1 [7, 8] }

/-- OrderedOperations: WPSW at the two ends of its range, BIND of an unbound port, UNBIND and PDROP of a bound one, and the execute
half with each of them passed; PDROP of more entries than there are, and UNBIND of an out port that an STQ drains. -/
theorem witness_ordered : user.issuesC ⟨0, 0⟩ ∧ bound.issuesC ⟨0, 0⟩ ∧ user.caughtUp = true ∧ bound.caughtUp = true ∧ bound.txact = false
    ∧ ((user.setG 1 0x77AC0).g 1).toNat % 64 = 0 ∧ ((user.setG 1 0x77AC0).g 1).toNat ≤ 0x77AC0 ∧ (user.g 1).toNat = 0
    ∧ portIndex 16 = some 0 ∧ portIndex 20 = some 4 ∧ portIndex 27 = some 11 ∧ user.accKind 0 = 0 ∧ kindOk 0 3 = true
    ∧ srcOk 3 7 = true ∧ user.sourceTaken 3 7 = false ∧ bound.accKind 4 ≠ 0
    ∧ (let passed (op : OrderedOp) : State := bound.setFront { bound.tile.front with ordered := some op }
      (passed (.bind 16 1 0)).orderedWaits = false ∧ (passed (.unbind 20)).orderedWaits = false
        ∧ (passed (.pdrop 20 2)).orderedWaits = false ∧ (passed (.csr 1 0x018 1)).orderedWaits = false
        ∧ (passed (.wpsw 1 0x7000)).orderedWaits = false ∧ (passed (.wpsw 1 0x7000)).tile.front.ordered = some (.wpsw 1 0x7000)
        ∧ (passed (.pdrop 20 3)).orderedWaits = true ∧ (20 : BitVec 5).toNat = 16 + (4 : Fin 8).val
        ∧ (25 : BitVec 5).toNat = 24 + (1 : Fin 4).val ∧ portIndex 25 = some 9
        ∧ ((passed (.unbind 25)).setEng { bound.tile.eng with fifo0 := [.stq 1 0x77FC0 64 1 []] }).orderedWaits = true)
    ∧ user.calm ∧ ((user.setG 1 0x77AC1).g 1).toNat % 64 ≠ 0 := by
  unfold State.issuesC State.calm; decide +kernel

/-- AddressGroupResults: offsets and coordinates within range, a code with a format, a pointer that is relative and one that is not. -/
theorem witness_addresses : (0x7FFFFFF : Word).toNat < 2 ^ 27 ∧ (0x1FFFFFF : Word).toNat < 2 ^ 25 ∧ formatOf 0x15 = some .mxE2m1
    ∧ ptrFmt 0x0040000000010000 ≠ 0x1F ∧ relMesh 0x0040000000010000 = true ∧ relMesh 0x10000 = false
    ∧ (resolveCoord user.own (ptrCoord 0x0040000000010000)).isSome = true := by decide +kernel

/-- An access of `n` bytes through g2 at offset `p` of the own scratchpad. -/
theorem reaches_own (acc : Acc) (p : Word) (n : Nat)
    (h : (user.setG 2 p).resolve true acc p n n = .mem p.toNat none := by decide +kernel)
    (h' : addrSpm p.toNat = true ∧ (user.setG 2 p).isLocal p.toNat = true ∧ inStaging (addrOff p.toNat) = false
      ∧ (user.setG 2 p).hub.errors.bad = [] ∧ (user.setG 2 p).tile.path.posted = [] := by decide +kernel) :
    (user.setG 2 p).reachesSpm acc p n p.toNat := ⟨h, h'⟩

/-- ScratchpadLoadsAndStores, ScratchpadAtomics: the narrowest and the widest access at the smallest offset and at the last below the
staging window; an atomic of either width. -/
theorem witness_scratchpad :
    (user.setG 2 0).reachesSpm .load 0 1 0 ∧ (user.setG 2 0x77FFF).reachesSpm .load 0x77FFF 1 0x77FFF
    ∧ (user.setG 2 0x77FF8).reachesSpm .load 0x77FF8 8 0x77FF8 ∧ (user.setG 2 0).reachesSpm .store 0 8 0
    ∧ (user.setG 2 0x77FFF).reachesSpm .store 0x77FFF 1 0x77FFF ∧ (user.setG 2 0x77FF8).reachesSpm .store 0x77FF8 8 0x77FF8
    ∧ (user.setG 2 0x77FF8).reachesSpm .atomic 0x77FF8 8 0x77FF8 ∧ (user.setG 2 4).reachesSpm .atomic 4 4 4 :=
  ⟨reaches_own .load 0 1, reaches_own .load 0x77FFF 1, reaches_own .load 0x77FF8 8, reaches_own .store 0 8, reaches_own .store 0x77FFF 1,
    reaches_own .store 0x77FF8 8, reaches_own .atomic 0x77FF8 8, reaches_own .atomic 4 4⟩

/-- The same: the pointers of LD and ST are those, and no transaction and no wait. -/
theorem witness_scratchpad_pointers : (user.setG 2 0x77FF8).memPtr 2 (loadSize 6) (.fld 0) = 0x77FF8
    ∧ (user.setG 2 0x77FFF).memPtr 2 (loadSize 1) (.fld 0) = 0x77FFF ∧ (user.setG 2 0x77FFF).memPtr 2 (storeSize 0) (.fld 0) = 0x77FFF
    ∧ (user.setG 2 0x77FF8).memPtr 2 (storeSize 3) (.fld 0) = 0x77FF8 ∧ (user.setG 2 0x77FF8).g 2 = 0x77FF8
    ∧ user.tile.path.tx = none ∧ user.tile.wait = .idle ∧ user.issuesC ⟨0, 0⟩ := by unfold State.issuesC; decide +kernel

/-- StoresThatWait: another tile's scratchpad, a vault with room for its line, and host memory behind a mapping. -/
theorem witness_storesThatWait : user.hub.errors.bad = []
    ∧ (let s := user.setG 2 (0x40000000 + 64)
      s.resolve true .store (s.memPtr 2 (storeSize 3) (.fld 0)) 8 8 = .mem 0x40000040 none ∧ addrSpm 0x40000040 = true
        ∧ s.isLocal 0x40000040 = false ∧ inStaging (addrOff 0x40000040) = false)
    ∧ (let s := user.setG 2 0x4000000
      s.resolve true .store (s.memPtr 2 (storeSize 3) (.fld 0)) 8 8 = .mem 0x4000000 none ∧ 0x4000000 < hostBase
        ∧ addrSpm 0x4000000 = false ∧ (s.tile.path.l1.filter fun l => lineSet l.addr == lineSet 0x4000000).length < 8) := by
  decide +kernel

/-- FenceResults: nothing to wait for and no failure. -/
theorem witness_fences : user.releaseWaits = false ∧ ((user.begin 2).release 4).tile.path.failures = [] := by decide +kernel

/-- `user` in a transaction that has a confirmed line. -/
def inTx : State :=
  (user.setPath { user.tile.path with tx := some { reg := 3, target := 0x80, lines := [{ line := 0x4000000, confirmed := true, stored := false }]
                                                   stores := [], conflict := false, used := [] } }).setStatusBit 7 true

/-- TransactionResults: no transaction, one with a confirmed line and no conflict, and its end outside a gang. -/
theorem witness_transactions : user.txact = false ∧ inTx.issuesC ⟨0, 0⟩ ∧ inTx.txact = true ∧ inTx.jumps ∧ inTx.tile.path.failures = []
    ∧ inTx.tile.path.posted = [] ∧ inTx.tile.res.leaderNext = none ∧ inTx.tile.wait = .idle ∧ inTx.caughtUp = true
    ∧ inTx.tile.path.tx.any (fun t => !t.conflict && t.lines.all fun l => l.confirmed) = true := by
  unfold State.issuesC State.jumps; decide +kernel

/-- `bound` with pointers to 64-byte rows of the scratchpad in g2 and g3, and a stride in g4. -/
def rows : State := ((bound.setG 2 0x0800000000001000).setG 3 0x0800000000077FC0).setG 4 64

/-- PortInstructionResults: a port of either kind with entries, room in the FIFO, a load and a store of one row at the last place below
the staging window, in a format of 64-byte rows, with the default and an explicit stride. -/
theorem witness_ports : rows.issuesC ⟨0, 0⟩ ∧ portIndex 20 = some 4 ∧ portIndex 25 = some 9 ∧ rows.txact = false
    ∧ rows.tile.eng.fifo0.length < 8 ∧ rows.accKind 4 = 1 ∧ rows.accKind 9 = 2 ∧ rows.tile.ports.outq.get 1 = [7, 8]
    ∧ rows.tile.eng.fifo0.any (Cmd.drains 1) = false ∧ formatOf (ptrFmt (rows.g 3)) = some .int8
    ∧ blgOf (ptrFmt (rows.g 3)) = some (ptrBlg (rows.g 3)) ∧ rowStride .int8 % rowAlign .int8 = 0
    ∧ (rows.g 4).toNat % rowAlign .int8 = 0 ∧ rows.accKind (inIndex 4) = 1 ∧ rows.accKind (outIndex 1) = 2
    ∧ (rows.begin 2).checkRows .load 64 (loadPieces .int8) (rows.g 3) 64 (List.range 1) [] = .ok []
    ∧ (rows.begin 2).checkRows .store 64 (storePieces .int8) (rows.g 3) 64 (List.range 1) [] = .ok []
    ∧ (rows.begin 2).checkRows .load 64 (loadPieces .int8) (rows.g 2) 64 (List.range 2) [] = .ok [] := by
  unfold State.issuesC; decide +kernel

/-- `rows` with commands in engine 0's FIFO. -/
def queued (l : List Cmd) : State := rows.setEng { rows.tile.eng with fifo0 := l }

/-- EngineRowResults: a MOVX, a load of one row and of two at the last and the first place of the scratchpad, a poisoned pointer, and a
store of a row. -/
theorem witness_engineRows :
    (queued [.movx 4 9]).tile.eng.fifo0.find? (Cmd.feeds 4) = some (.movx 4 9) ∧ ((queued []).tile.ports.inq.get 4).length < 8
    ∧ (queued [.ldq 4 0x77FC0 64 1 []]).tile.eng.fifo0.find? (Cmd.feeds 4) = some (.ldq 4 0x77FC0 64 1 [])
    ∧ (queued [.ldq 4 0 64 2 []]).tile.eng.fifo0.find? (Cmd.feeds 4) = some (.ldq 4 0 64 2 [])
    ∧ (rowFormat 0x77FC0).isBlock = false ∧ (queued []).reach [] .load 0x77FC0 64 = .mem 0x77FC0 none ∧ addrSpm 0x77FC0 = true
    ∧ (queued []).isLocal 0x77FC0 = true ∧ (queued []).hub.errors.bad = [] ∧ (queued []).tile.path.posted = []
    ∧ (queued []).reach [] .load 0xF800000000000000 64 = .bad ∧ ptrPoisoned 0xF800000000000000 = true
    ∧ (rowFormat 0xF800000000000000).isBlock = false
    ∧ (queued [.stq 1 0x77FC0 64 1 []]).tile.eng.fifo0.find? (Cmd.drains 1) = some (.stq 1 0x77FC0 64 1 [])
    ∧ (queued []).tile.ports.outq.get 1 = [7, 8] ∧ (queued []).reach [] .store 0x77FC0 64 = .mem 0x77FC0 none
    ∧ inStaging (addrOff 0x77FC0) = false := by decide +kernel

/-- CopyResults: CPY of 64 bytes; a copy of one byte between the two ends of the scratchpad; a row of a stream to a bound port. -/
theorem witness_copies :
    (let s := ((user.setG 1 0x2000).setG 2 0x1000).setG 3 64;
      s.issuesC ⟨0, 0⟩ ∧ s.txact = false ∧ s.tile.eng.fifo0.length < 8 ∧ (s.g 3).toNat / 2 ^ 37 % 8 = 0 ∧ ctrlStrm (s.g 3) = false
        ∧ s.rowsPending = false ∧ (s.begin 6).checkRange .load 0x1000 64 [] = .ok [] ∧ (s.begin 6).checkRange .store 0x2000 64 [] = .ok [])
    ∧ ctrlStrm 1 = false ∧ ctrlRes 1 = false ∧ ctrlLen 1 = 1 ∧ (queued []).reach [] .load (ptrAdd 0x77FFF (BitVec.ofNat 64 0)) 1 = .mem 0x77FFF none
    ∧ (queued []).reach [] .store (ptrAdd 0 (BitVec.ofNat 64 0)) 1 = .mem 0 none ∧ addrSpm 0x77FFF = true ∧ addrSpm 0 = true
    ∧ inStaging (addrOff 0) = false ∧ (0 + 1 ≤ 0x77FFF)
    ∧ (let s := (queued [.copy 0 0x1000 0x800000040 0 []]).setPorts { rows.tile.ports with acc := rows.tile.ports.acc.set 2 ⟨3, 0⟩ }
      firstOfChannel 0 s.tile.eng.fifo0 0 = some (0, .copy 0 0x1000 0x800000040 0 []) ∧ s.boundPort 3 0 = some 2
        ∧ ctrlStrm 0x800000040 = true ∧ 0 < ctrlLen 0x800000040 ∧ s.portRoom 2 = true ∧ ctrlLen 0x800000040 % 64 = 0
        ∧ ctrlLen 0x800000041 % 64 ≠ 0 ∧ ctrlStrm 0x800000041 = true ∧ (0x800000040 : Word).toNat / 2 ^ 37 % 8 = 0 ∧ user.boundPort 3 0 = none
        ∧ user.calm ∧ ctrlRes 0x800000040 = false ∧ ctrlRes 0x1800000040 = true
        ∧ (match (s.streamBytes 0x1000 [] 64 0).2 with
          | .ok l => l.length == 64
          | .error _ => false) = true) := by unfold State.issuesC State.calm; decide +kernel

/-- `user` whose scratchpad holds at 0x100 the descriptor of a ring of two entries of 64 bytes at 0x1000, with the counters given, and a
VALID ring number in c1. -/
def ring (fillc pubc conc freec : Nat) : State :=
  let s := user.setMem (((((user.mem.writeNat 0x100 4 0x1000).writeNat 0x104 2 0x0101).writeNat 0x108 4 fillc).writeNat 0x10C 4 pubc
    |>.writeNat 0x110 4 conc).writeNat 0x114 4 freec)
  s.setRegs { s.tile.regs with c := s.tile.regs.c.set 1 0x8008 }

/-- RingResults: a ring with room and data, a full one and an empty one; the counters where PUB and WFREE fault, one whose relation is
broken, and a ring number that is not VALID. -/
theorem witness_rings :
    (let s := ring 1 1 0 0
      let r := readRing s.mem (s.ownAddr (s.ringOffset 0x8008))
      s.issuesC ⟨0, 0⟩ ∧ s.tile.regs.c.get 1 = 0x8008 ∧ s.hub.errors.bad = [] ∧ ringWhy 0x8008 (s.ringOffset 0x8008) r = 0
        ∧ (r.fillc - r.freec).toNat < 2 ^ r.logn ∧ r.conc ≠ r.pubc ∧ r.pubc = r.fillc ∧ r.freec = r.conc ∧ s.txact = false)
    ∧ (let s := ring 2 1 1 0
      let r := readRing s.mem (s.ownAddr (s.ringOffset 0x8008))
      ringWhy 0x8008 (s.ringOffset 0x8008) r = 0 ∧ r.pubc ≠ r.fillc ∧ r.freec ≠ r.conc ∧ (r.fillc - r.freec).toNat = 2 ^ r.logn)
    ∧ (let s := ring 3 0 0 0
      ringWhy 0x8008 (s.ringOffset 0x8008) (readRing s.mem (s.ownAddr (s.ringOffset 0x8008))) = 2)
    ∧ ringWhy 0 0 (readRing [] 0) = 1
    ∧ ({ readRing [] 0 with logn := 8, fillc := 256, pubc := 256 } : Ring).ordered = true := by unfold State.issuesC; decide +kernel

/-- A segment that has been trained, with WLIM 3. -/
def trained : Attachment := { Attachment.reset with up := true, actw := 0xFF, acklag := 4, wlim := 3, nstn := 3, stn := 1, lead := 0 }

/-- `user` with the record `r` at 0x40 and a pointer to it in g1, and segment 2 trained. -/
def record (r : Nat) : State :=
  let s := (user.setMem (user.mem.writeNat 0x40 32 r)).setG 1 0x40
  s.setAtt 2 trained

/-- The descriptor of the example of chapter 16, over the bytes at 0x2000. -/
def descriptor : Nat := 0x00000020000320A1 + 0x0000007700000002 * 2 ^ 64 + 0x2000 * 2 ^ 128 + 0x2000 * 2 ^ 192

/-- EngineInstructionResults, the record: a copy of 64 bytes, the descriptor above, and a marker. -/
theorem witness_records :
    (let s := record (0x3000 + 0x1000 * 2 ^ 64 + 64 * 2 ^ 128 + 0x05 * 2 ^ 248)
      let u := ((s.begin 6).readPlace 0x40 32).1
      s.issuesC ⟨0, 0⟩ ∧ s.txact = false ∧ (s.begin 6).resolve true .load (s.g 1) 32 32 = .mem 0x40 none ∧ addrSpm 0x40 = true
        ∧ s.isLocal 0x40 = true ∧ ((s.begin 6).readPlace 0x40 32).2 = some (0x3000 + 0x1000 * 2 ^ 64 + 64 * 2 ^ 128 + 0x05 * 2 ^ 248)
        ∧ u.tile.eng.fifo0.length < 8 ∧ u.checkRange .load 0x1000 64 [] = .ok [] ∧ u.checkRange .store 0x3000 64 [] = .ok []
        ∧ u.releaseWaits = false ∧ (u.release 3).tile.path.failures = [])
    ∧ (let s := record descriptor
      let u := ((s.begin 6).readPlace 0x40 32).1
      let d : BitVec 256 := BitVec.ofNat 256 descriptor
      ((s.begin 6).readPlace 0x40 32).2 = some descriptor ∧ u.tile.eng.fifo1.length < 8 ∧ u.rowsPending = false
        ∧ (match u.collectiveCheck d with
          | .ok x => x == (.raw, .raw)
          | .error _ => false) = true
        ∧ u.checkRange .load (descSrc d) 2 [] = .ok [] ∧ u.checkRange .store (descDst d) 2 [] = .ok []
        ∧ (u.release 4).tile.path.failures = [])
    ∧ (let s := record (5 + 0x11 * 2 ^ 248)
      ((s.begin 6).readPlace 0x40 32).2 = some (5 + 0x11 * 2 ^ 248)
        ∧ (BitVec.ofNat 256 (5 + 0x11 * 2 ^ 248)).extractLsb' 32 224 = (0x11 : BitVec 224) <<< 216
        ∧ ((s.begin 6).readPlace 0x40 32).1.tile.seq.queue.length < 8) := by unfold State.issuesC; decide +kernel

/-- The same: the descriptor as a sum of two INT8 codes into INT32, and FIFOs with and without a result. -/
theorem witness_results :
    (let s := record 0
      let d := withOp (BitVec.ofNat 256 (descriptor + 2 ^ 32 + 0x03 * 2 ^ 40)) 0
      (match s.collectiveCheck d with
        | .ok x => x == (.int8, .int32)
        | .error _ => false) = true
        ∧ s.checkRange .load (descSrc d) 2 [] = .ok [] ∧ s.checkRange .store (descDst d) 8 [] = .ok [])
    ∧ (let s := user.setEng { user.tile.eng with res := user.tile.eng.res.set 1 [9] }
      s.tile.eng.res.get 1 = [9] ∧ s.tile.eng.res.get 2 = [] ∧ s.boundPort 4 1 = none ∧ s.boundPort 4 2 = none ∧ s.boundPort 4 0 = none
        ∧ s.readyMask 2 ≠ 0 ∧ s.tile.power.state = .run) := by decide +kernel

/-- The premises of `issuesA` as one test. -/
def issuesTest (s : State) (gd : Guard) (reads writes also : List (BitVec 5)) : Bool :=
  s.guardA gd && reads.all (fun x => (outPort x).isNone) && writes.all (fun x => (inPort x).isNone)
    && (reads ++ writes).all (fun x => !s.unbound x && !s.notReady x) && (reads ++ also).all (fun x => (s.regError x).isNone)
    && reads.all (fun x => (s.poisonAt x).isNone)

theorem issuesA_of_test {s : State} {gd : Guard} {reads writes also : List (BitVec 5)}
    (h : issuesTest s gd reads writes also = true := by decide +kernel) : s.issuesA gd reads writes also := by
  simp only [issuesTest, Bool.and_eq_true, List.all_eq_true] at h
  obtain ⟨⟨⟨⟨⟨a, b⟩, c⟩, d⟩, e⟩, f⟩ := h
  exact ⟨a, fun x m => by simpa using b x m, fun x m => by simpa using c x m, fun x m => by simpa using d x m,
    fun x m => by simpa using e x m, fun x m => by simpa using f x m⟩

/-- IntegerLaneResults, FloatAndCompareLaneResults, RowMoveResults: an A-word between registers, from a bound in port to a bound out
port, with z, of FFMA, VSEL and VSLIDE, which read their destination, and of VTEST, which has none. -/
theorem witness_lanes : user.issuesA ⟨0, 0⟩ [1, 2] [3] [] ∧ bound.issuesA ⟨0, 0⟩ [20, 28] [25] [] ∧ bound.issuesA ⟨0, 0⟩ [20] [25] []
    ∧ user.issuesA ⟨0, 0⟩ [0, 15, 14] [14] (user.drawRegs user.rm) ∧ user.issuesA ⟨0, 0⟩ [5] [] [] :=
  ⟨issuesA_of_test, issuesA_of_test, issuesA_of_test, issuesA_of_test, issuesA_of_test⟩

/-- The same: the types of each list at its ends, a destination that is no port, the largest immediates. -/
theorem witness_lane_types : user.tile.ctx.fcsr.extractLsb' 16 6 = 0 ∧ bound.tile.ctx.fcsr.extractLsb' 16 6 = 0
    ∧ isPort 14 = false ∧ accepts intTypes 0 = true ∧ accepts intTypes 6 = true ∧ accepts floatTypes 3 = true ∧ accepts floatTypes 5 = true
    ∧ accepts allTypes 6 = true ∧ accepts [2, 5] 5 = true ∧ (1 : BitVec 5).toNat < 2 ∧ (7 : BitVec 5).toNat < laneCount 6
    ∧ (31 : BitVec 5).toNat ≤ laneCount 0 := by decide +kernel

/-- `user` with RM = 4, stochastic rounding. -/
def stochastic : State := user.setCtx { user.tile.ctx with fcsr := 4 }

/-- The same with RM = 4, where v15 is read as well. -/
theorem witness_drawing : stochastic.drawRegs stochastic.rm = [15] ∧ stochastic.tile.ctx.fcsr.extractLsb' 16 6 = 0 := by decide +kernel

theorem witness_drawing_issues : stochastic.issuesA ⟨0, 0⟩ [1, 2] [3] (stochastic.drawRegs stochastic.rm) := issuesA_of_test

/-- FloatOperationsAreExact: codes within the width, one of a number and one of a NaN. -/
theorem witness_exact : 0x7E00 < 2 ^ laneBits 3 ∧ (fp16.decode 0x3C00).isNan = false ∧ (fp16.decode 0x7E00).isNan = true
    ∧ accepts floatTypes 3 = true := by decide +kernel

/-- ConversionResults: a format that VQNT takes, and pairs of registers for FP32. -/
theorem witness_conversions : quantFormat 0x15 = some .mxE2m1 ∧ quantFormat 0x01 = some .int8 ∧ pairOk 14 = true ∧ pairOk 0 = true := by
  decide +kernel

theorem witness_conversion_issues : user.issuesA ⟨0, 0⟩ [14, 15] [3] (user.drawRegs user.rm)
    ∧ user.issuesA ⟨0, 0⟩ [3] [14, 15] (user.drawRegs user.rm) ∧ user.issuesA ⟨0, 0⟩ [3] [4] (user.drawRegs (cvtRm user 2)) :=
  ⟨issuesA_of_test, issuesA_of_test, issuesA_of_test⟩

/-- `user` with INT8 as the matrix configuration and eight rows in in0 and none elsewhere. -/
def matrix : State :=
  let s := user.setMatrix { user.tile.matrix with cfg := 1 + 1 * 2 ^ 8 + 1 * 2 ^ 16 + 84 * 2 ^ 48 }
  s.setPorts { s.tile.ports with acc := s.tile.ports.acc.set 0 ⟨1, 0⟩, exe := s.tile.ports.exe.set 0 ⟨1, 0⟩
                                 inq := s.tile.ports.inq.set 0 (List.replicate 8 { row := 1, side := 0 }) }

/-- `matrix` with an image for MXFP4 in v5. -/
def image : State := matrix.writeRow 5 (0x15 + 0x15 * 2 ^ 8 + 4 * 2 ^ 16)

/-- MatrixWordResults: an image that MCFG takes, slots 0 and 84, compressed columns, ADV at slot 0, one row and four. -/
theorem witness_matrix : matrix.borrowed = false ∧ matrix.guardA ⟨0, 0⟩ = true ∧ matrix.tile.ctx.fcsr.extractLsb' 16 6 = 0
    ∧ (let s := image
      s.rowAt 5 &&& ~~~(cfgRw ||| cfgRo) = 0 ∧ formatOf (cfgFmta (s.rowAt 5)) = some .mxE2m1
        ∧ formatOf (cfgFmtb (s.rowAt 5)) = some .mxE2m1 ∧ matrixClass .mxE2m1 = some 0 ∧ cfgArows (s.rowAt 5) = 4
        ∧ (cfgKbeg (s.rowAt 5)).toNat ≤ (cfgKptr (s.rowAt 5)).toNat ∧ (cfgKptr (s.rowAt 5)).toNat ≤ (cfgKend (s.rowAt 5)).toNat
        ∧ (cfgKend (s.rowAt 5)).toNat ≤ 84)
    ∧ (84 : BitVec 7).toNat ≤ 84 ∧ compFormats.contains (cfgFmtb matrix.tile.matrix.cfg).toNat = true ∧ matrix.exeKind (inOperand 0) ≠ 0
    ∧ (matrix.tile.ports.inq.get 0).length = 8 ∧ (matrix.tile.ports.inq.get 0).all (fun e => e.poison.isNone) = true
    ∧ (match mldbCols false 0 (matrix.tile.ports.inq.get 0) with
      | .ok l => l.length == 8
      | .error _ => false) = true
    ∧ (match mldbCols true 0 (matrix.tile.ports.inq.get 0) with
      | .ok l => l.length == 8
      | .error _ => true) = true
    ∧ cfgArows matrix.tile.matrix.cfg = 1 ∧ matrix.hub.errors.bad = [] ∧ matrix.hub.errors.soft = [] := by decide +kernel

theorem witness_matrix_issues : matrix.issuesA ⟨0, 0⟩ [28] [3] [] ∧ image.issuesA ⟨0, 0⟩ [5] [3] [] ∧ matrix.issuesA ⟨0, 0⟩ [] [3] [] :=
  ⟨issuesA_of_test, issuesA_of_test, issuesA_of_test⟩

/-- `user` with `e` as the only entry of in4, which is bound, FP flags enabled, and an A-word at the head of the queue. -/
def atPort (l : List PortEntry) : State :=
  bound.setPorts { bound.tile.ports with inq := bound.tile.ports.inq.set 4 l }

/-- ExecuteHalfRules: misplaced operands, unbound ports, an empty port, a poisoned entry, VADDS whose saturation is enabled to trap. -/
theorem witness_executeHalf : user.guardA ⟨0, 0⟩ = true ∧ (outPort 24).isSome = true ∧ (inPort 23).isSome = true ∧ outPort 21 = none
    ∧ bound.unbound 21 = true ∧ bound.unbound 20 = false ∧ bound.unbound 26 = true ∧ bound.unbound 25 = false
    ∧ (atPort []).notReady 20 = true ∧ (atPort [poisoned 0x11 0x40]).notReady 20 = false ∧ (atPort []).notReady 25 = false
    ∧ (atPort [poisoned 0x11 0x40]).regError 20 = none ∧ (atPort [poisoned 0x11 0x40]).poisonAt 20 = some (0x11, 0x40)
    ∧ (let s := ((user.writeRow 1 0x70).writeRow 2 0x20).setCtx { user.tile.ctx with fcsr := 0x3F <<< 16 }
      let fl := flagsOf (laneCount 0) fun k => satLane 8 ((laneOf 8 (s.rowAt 1) k).toInt + (laneOf 8 (s.rowAt 2) k).toInt)
      let u := s.doneA ((s.popAll [1, 2]).writeRow 3 0x7F) 3 fl
      s.issuesA ⟨0, 0⟩ [1, 2] [3] [] ∧ s.txact = false ∧ s.committed = false
        ∧ (∀ k < 64, (laneOf 8 (0x7F : Row) k).toNat = (satLane 8 ((laneOf 8 (s.rowAt 1) k).toInt + (laneOf 8 (s.rowAt 2) k).toInt)).1)
        ∧ fl &&& s.tile.ctx.fcsr.extractLsb' 16 6 ≠ 0 ∧ u.midTransfer = false ∧ u.loopPending = false) := by
  unfold State.issuesA; decide +kernel

/-- The same: a repeat of two words, at each of them, while it captures, in its first iteration and in its last. -/
theorem witness_repeat :
    let item : AItem := { word := 0, addr := 0x40 }
    let s (riter : BitVec 8) (rpos : BitVec 4) : State := user.setFront { user.tile.front with
      aq := [item], rpt := { user.tile.front.rpt with ract := true, rn := 2, rcnt := 2, riter := riter, rpos := rpos } }
    (s 0 0).headA = some item ∧ (s 0 1).headA = some item ∧ (s 1 0).headA.isSome = true ∧ (s 2 1).headA.isSome = true := by decide +kernel

/-- TileWordResults: a queue with room, one with an instruction, a report not yet taken, in either mode. -/
theorem witness_tileWords : user.issuesC ⟨0, 0⟩ ∧ user.calm ∧ sup.calm ∧ user.txact = false ∧ user.tile.seq.held = none ∧ user.tile.seq.queue.length < 8
    ∧ user.caughtUp = true ∧ user.tile.power.state = .run ∧ user.seqIdle = true ∧ user.rowsPending = false ∧ sup.sup = true
    ∧ (let s := user.setSeq { user.tile.seq with queue := [.marker 1] };
      s.seqIdle = false ∧ s.tile.seq.stopped = false ∧ s.tile.front.ast ≠ .asleep)
    ∧ (let r : Report := { cause := 0x0B, value := 1, head := false, taken := false }
      (user.setSeq { user.tile.seq with held := some r }).tile.seq.held = some r ∧ r.taken = false ∧ user.sup = false) := by
  unfold State.issuesC State.calm; decide +kernel

/-- An instruction of the sequencer: `w` with the values of reset. -/
def insn (w : Word) : SeqInsn := { insn := w, addr := 0x40, seedk := 0, seeds := 0, srfix := 0, rm := 0, ftz := false }

/-- `user` with an instruction at the head of the queue and what it has staged. -/
def atHead (w : Word) (x : Option Staged) : State :=
  user.setSeq { user.tile.seq with queue := [.insn (insn w)], running := x }

/-- The shape record of four INT8 elements at `base`. -/
def record4 (base : Nat) : BitVec 512 := BitVec.ofNat 512 (1 + 4 * 2 ^ 64 + 2 ^ 96 + 2 ^ 128 + 2 ^ 160 + 2 ^ 192 + base * 2 ^ 320)

/-- `s` with the tables of a page at virtual address 0, write-blocked. -/
def writeBlocked (s : State) : State :=
  s.setMem (((((s.mem.writeNat 0x4000000 8 0x1001).writeNat 0x4001000 8 0x2001).writeNat 0x4002000 8 0x3001).writeNat 0x4003000 8 0x4001).writeNat
    0x4004000 8 0x8027)

/-- A TFILL.INT of 5 at the head, whose record names four elements at `base`. -/
def fillHead (base : Nat) : State :=
  let s := atHead 0x589100001 none
  let s := s.setMem (s.mem.writeNat 0x2000 64 (record4 base).toNat)
  s.setCtx { s.tile.ctx with shtb := 0x2000, shtn := 1 }

/-- The sequencer stalls at a page that is write-blocked, and not at one that the tile no longer caches. -/
theorem witness_stall :
    (let t : TEntry := { ctxid := 0, base := 0, size := 0, leaf := 0x8027 }
      let s := user.setSeq { user.tile.seq with blocked := some t }
      (s.setPath { s.tile.path with tcache := [t] }).seqStalls = true ∧ s.seqStalls = false ∧ user.seqStalls = false)
    ∧ (let s := writeBlocked (fillHead 0x0080000000000000);
      (s.stage (s.tileEnv (insn 0x589100001))).2 = none ∧ (s.tileEnv (insn 0x589100001)).top ≠ 13 ∧ s.tile.seq.stopped = false)
    ∧ (match (fillHead 0x3000).stage ((fillHead 0x3000).tileEnv (insn 0x589100001)) with
      | (_, some (.outputs l _ _)) => l.length == 4
      | _ => false) = true := by decide +kernel

/-- TileSequencerResults: a TSHAPE, a TBIND, a TMMA and a TCOLL to start; outputs, a handle, a grant and a failure to commit; a save. -/
theorem witness_sequencer :
    ((atHead 0x80000000 none).tileEnv (insn 0x80000000)).top = 0 ∧ (atHead 0x80000000 none).switching = false
    ∧ ((atHead 0x81100000 none).stage ((atHead 0x81100000 none).tileEnv (insn 0x81100000))).2.isSome = true
    ∧ ((atHead 0x82512504 none).stage ((atHead 0x82512504 none).tileEnv (insn 0x82512504))).2.isSome = true
    ∧ (insn 0x82512504).borrows = true ∧ ((atHead 0x8D120000 none).tileEnv (insn 0x8D120000)).top = 13
    ∧ (user.setWait .save).switching = true
    ∧ (let b : List StagedByte := [{ addr := 0, mask := 0xFF, bits := 1 }, { addr := 0x77FFF, mask := 0x0F, bits := 2 }]
      let s := atHead 0x88120000 (some (.outputs b 1 0))
      s.tile.seq.running = some (.outputs b 1 0) ∧ (insn 0x88120000).borrows = false ∧ (b.map fun x => x.addr).Nodup ∧ s.hub.errors.bad = []
        ∧ s.tile.path.posted = [] ∧ b.all (fun x => addrSpm x.addr && s.isLocal x.addr && !inStaging (addrOff x.addr)) = true)
    ∧ (atHead 0x81100000 (some (.handle 1 5))).tile.seq.running = some (.handle 1 5)
    ∧ (atHead 0x80000000 (some (.grant 7))).tile.seq.running = some (.grant 7)
    ∧ (atHead 0x82512504 (some (.failed 0x0A 3))).tile.seq.running = some (.failed 0x0A 3) := by decide +kernel

/-- The same: no weight word is upset where no row passes, and one is where one is bad and the choice (`Config.freeWord`) says so. -/
theorem witness_weights : user.weightUpset 0 = none
    ∧ ∀ n, (Config.freeWord n).getLsbD 1 = true → ({ user.setErrors { user.hub.errors with bad := [.weight 0 3 5] } with free := n } :
      State).weightUpset 4 = some (3, 5) := by
  constructor
  · unfold State.weightUpset; split <;> rfl
  · intro n h; unfold State.weightUpset; rw [if_neg (by simp [h])]; rfl

/-- A context on tile 0 alone. -/
def ctx : Ctx :=
  { id := 7, queue := 5, lidx := 3, ctxid := 9, root := 0, tiles := [0], moved := [], det := false, cxen := true, cxb := 0x4000000, wp := 0x7000
    stept := 0, ranges := [], pmax := 0, prio := 0, rcbs := [], hwd := 0, running := true, parked := none, saving := false, halted := []
    joined := [], idle := [], asleep := [], heldRecs := [], queues := [], inFlight := 0, landed := [], release := none, cut := none
    stopped := [], watched := 0, doomed := none, before := [], run := none, ended := none }

/-- `s` with the contexts `l`, the first of them resident. -/
def withCtxs (s : State) (l : List Ctx) : State :=
  (s.setFe { s.hub.fe with ctxs := l }).setRes { s.tile.res with ctx := (l.head?.map Ctx.id).getD 0 }

/-- A part of a TILE packet's instruction at a tile. -/
def part (path : List Nat) (tile : BitVec 24) (state : BitVec 2) : ChildUnit :=
  { path := path, block := 0, tile := tile, strip := 0, bytes := [], flags := 0, ready := true, fault := none, regions := [], handles := []
    krows := 4, wide := false, state := state, blocked := none }

/-- A stream of one TCOPY in two parts: one of tile 0, which has run, and one of tile 1. -/
def stream : TileRun :=
  { insns := [0x88120000], units := [part [0, 0, 0] 0 3, part [0, 0, 1] 1 0], kparts := 0, shapes := [], frame := .replicate 16 0, fcsr := 0
    seedk := 0, seeds := 0, srfix := 0, strict := false, shtb := 0, shtn := 0, grant := 0, flags := 0, dropped := false, log := []
    logPtr := 0, logCap := 0, nlog := 0, tries := [] }

/-- A stream of one TFILL of four elements at `base`, whose part is the tile's. -/
def filling (base : Nat) (tile : BitVec 24) : TileRun :=
  { stream with insns := [0x589100001], units := [part [0, 0, 1] tile 0], shapes := [(0, record4 base)] }

/-- What that tile computes. -/
def fills (s : State) (r : TileRun) : Except TileStop (List StagedByte × Flags) :=
  (s.runPart (s.partEnv ctx r (part [0, 0, 1] 1 0)) (part [0, 0, 1] 1 0)).2

/-- ChildUnitResults: a part of another tile that commits, one that faults, one at a write-blocked page; TileSequencerResults: a part of
this tile that starts. -/
theorem witness_parts :
    (match fills user (filling 0x40001000 1) with
      | .ok x => !x.1.isEmpty
      | .error _ => false) = true
    ∧ (match fills user { filling 0 1 with shapes := [] } with
      | .error (.fault c _) => c == 0x06
      | _ => false) = true
    ∧ (match fills (writeBlocked user) (filling 0x0080000000000000 1) with
      | .error (.blocked _) => true
      | _ => false) = true
    ∧ (let r := filling 0x40001000 1
      r.hasRun user.own (part [0, 0, 1] 1 0) = true ∧ (part [0, 0, 1] 1 0).fault = none ∧ r.collective = false ∧ (0 : BitVec 24) ≠ 1
        ∧ currentUnit r.units (fun x => x.tile == 1) = some (part [0, 0, 1] 1 0))
    ∧ (withCtxs user [{ ctx with run := some (filling 0x1000 0) }]).nextChild = some (7, part [0, 0, 1] 0 0)
    ∧ (let u : ChildUnit := { part [0, 0, 0] 0 0 with fault := some (0x0A, 3) }
      TileRun.hasRun { stream with units := [u] } user.own u = true ∧ u.fault = some (0x0A, 3)) := by decide +kernel

/-- The region control block of a whole package, at every level, with the ignore policy. -/
def region : Rcb :=
  { level := 5, die0 := 0, die1 := 3, x0 := 0, y0 := 0, x1 := 31, y1 := 30, parent := 0, pbudget := 0, fmin := 9, fmax := 0, boost := false
    prio := 0, fdom := 0, policy := 0, retry := 0, strict := false, stagger := 0 }

/-- ChildUnitResults: the part of tile 0 has run while that of tile 1 goes on; that of tile 1 has not; faults of it at a tile, under the
ignore policy, one whose KDONE fits and one whose does not. -/
theorem witness_childUnits :
    let c : Ctx := { ctx with run := some stream, rcbs := [region] }
    let s := withCtxs user [c]
    s.ctxOf 7 = some c ∧ stream.insns ≠ [] ∧ c.ended = none ∧ currentUnit stream.units (fun x => x.tile == 0) = some (part [0, 0, 0] 0 3)
      ∧ stream.hasRun s.own (part [0, 0, 0] 0 3) = true ∧ (part [0, 0, 0] 0 3).fault = none ∧ stream.kparts = 0
      ∧ (part [0, 0, 0] 0 3).flags &&& stream.fcsr.extractLsb' 16 6 = 0
      ∧ stream.units.any (fun x => x.runs && x.path != [0, 0, 0]) = true
      ∧ TileRun.hasRun { stream with units := [part [0, 0, 0] 0 0] } s.own (part [0, 0, 0] 0 0) = false
      ∧ (part [0, 0, 1] 1 0).kdoneOk 0x0A 3 0 = true ∧ (part [0, 0, 1] 1 0).kdoneOk 0x0A 3 1 = false
      ∧ (part [0, 0, 1] 1 0).kdoneOk 0x0B 1 4 = true
      ∧ effectiveRcb c.rcbs 2 (s.unitCoord ((part [0, 0, 1] 1 0).fails 2 0x0A 3 0) 2) = some region
      ∧ effectiveRcb c.rcbs 4 (s.unitCoord ((part [0, 0, 1] 1 0).fails 4 0x0A 3 0) 4) = some region ∧ region.policy = 0
      ∧ stream.units.any (fun v => v.runs && !(v.under [0, 0, 1] && (v.state == 0 || (v.state == 3 && v.fault.isSome)))) = true
      ∧ ((part [0, 0, 1] 1 0).fails 2 0x0A 3 0).pathAt 2 = [0, 0, 1] ∧ ({ region with policy := 2 } : Rcb).policy = 2
      ∧ currentUnit stream.units (fun x => x.tile == 1) = some (part [0, 0, 1] 1 0)
      ∧ s.tile.seq.running = none := by decide +kernel

/-- ContextEndResults: a save of 2 ms and one just begun; a disagreement; all joined; a context whose tiles have halted, or are idle;
a hang; a report of this tile; a dispenser with a record for this tile, for a strip that is strained and one that is not. -/
theorem witness_contexts :
    (let s := (withCtxs user [ctx]).setWait .save;
      s.saveOver = false ∧ ({ s with cycle := 4800000 } : State).saveOver = true ∧ s.tile.res.ctx = 7)
    ∧ Ctx.disagrees { ctx with joined := [(0, true), (1, false)] } = true ∧ ctx.saving = false
    ∧ (let c : Ctx := { ctx with joined := [(0, true)] }
      c.disagrees = false ∧ c.allJoined = true ∧ ((withCtxs user [c]).setWait (.sstep .joined 0x1000 0)).tile.wait = .sstep .joined 0x1000 0)
    ∧ (let c : Ctx := { ctx with idle := [0], halted := [0] }
      let s := (withCtxs user [c]).setFront { user.tile.front with ast := .asleep }
      c.run = none ∧ c.running = true ∧ c.heldRecs = [] ∧ c.det = false ∧ c.saving = false ∧ s.nothingInFlight c = true ∧ s.allAsleep c = true
        ∧ c.tiles.all (fun t => c.idle.contains t && c.halted.contains t) = true)
    ∧ (let c : Ctx := { ctx with hwd := 1 }
      c.hung 2400000 = true ∧ c.hung 2399999 = false ∧ (withCtxs user [c]).hub.snap.frozen = false)
    ∧ (let s := (withCtxs user [ctx]).setRes { (withCtxs user [ctx]).tile.res with report := some (4, 5, 6) }
      s.tile.res.report = some (4, 5, 6) ∧ s.ctxOf 7 = some ctx ∧ ctx.ended = none)
    ∧ (let c : Ctx := { ctx with idle := [0], queues := [(0, 0x1000)] }
      let s := withCtxs (user.setMem ((user.mem.writeNat 0x1000 8 0x2000).writeNat 0x1014 4 1)) [c]
      let u := s.dieRead 0x1000 64
      let q := readTaskQueue s.mem 0x1000
      c.queues.find? (fun x => x.1 == s.own) = some (s.own, 0x1000) ∧ c.det = false ∧ c.parked = none ∧ s.own ∈ c.idle
        ∧ s.own ∉ c.heldRecs ∧ s.hub.errors.bad = [] ∧ q.head ≠ q.tail ∧ u.withheld c s.own = false ∧ u.taskSlot q q.head = some 0x2000 ∧ (u.noteDispenser c s.own).withheld c s.own = false
        ∧ (u.setStrip (u.stripNo s.own) { u.strip (u.stripNo s.own) with thr := true }).withheld c s.own = true) := by decide +kernel

/-- MemorySystemResults: accesses that another agent may make, in the scratchpad, in its staging window and past the end; answers, posted
stores, messages; a line that is held and one that is not; a walk; a correctable and an uncorrectable error. -/
theorem witness_memorySystem : user.remoteOk 0 1 = true ∧ user.remoteOk 0x78000 8 = true ∧ user.remoteOk 0x80000 8 = false
    ∧ user.hub.errors.bad = [] ∧ user.hub.errors.soft = [] ∧ (user.setWait .remote).tile.wait = .remote
    ∧ (let p : Posted := { ptr := 0x40000000, addr := 0x40000000, len := 8, data := 1, rlv := 7, more := [], row := false }
      (user.setPath { user.tile.path with posted := [p] }).tile.path.posted[0]? = some p ∧ p.addr < hostBase)
    ∧ (user.setNet { user.tile.net with sent := [0x40000000] }).tile.net.sent[0]? = some 0x40000000
    ∧ (user.findLine 0x4000000).isNone = true
    ∧ (let l : Line := { addr := 0x4000000, valid := 0xFF, dirty := 1, data := 5, rlv := 7, writer := 0, stores := [] }
      ((user.setPath { user.tile.path with l1 := [l] }).findLine 0x4000000).isSome = true)
    ∧ (let s := user.setPath { user.tile.path with walk := some 0x0080000000000000 }
      s.tile.path.walk = some 0x0080000000000000 ∧ s.walkTables 0 0 0 = none)
    ∧ (let s := (user.setMem ((((user.mem.writeNat 0x4000000 8 0x1001).writeNat 0x4001000 8 0x2001).writeNat 0x4002000 8 0x3001)
          |>.writeNat 0x4003000 8 0x4001 |>.writeNat 0x4004000 8 0x8003)).setPath { user.tile.path with walk := some 0x0080000000000000 };
      (s.walkTables s.tile.res.ctxid s.tile.res.root (ptrVa 0x0080000000000000)).isSome = true) := by decide +kernel

/-- UnassignedWords, GuardedOffWordsDoNothing: a guard that holds and one that does not, in each half, outside a transaction and a
repeat; a word of each half that is guarded off. -/
theorem witness_unassigned : user.txact = false ∧ user.queueFull = false ∧ user.committed = false ∧ user.guardC ⟨0, 0⟩ = true
    ∧ user.guardC ⟨0, 3⟩ = false ∧ user.guardA ⟨0, 0⟩ = true ∧ user.guardA ⟨0, 3⟩ = false ∧ user.tile.front.rpt.ract = false
    ∧ user.tile.wait = .idle ∧ user.tile.res.leaderNext = none
    ∧ decodeBundle 0b00001100010100000000000000000000 0 = .ok (.add ⟨0, 3⟩ 0 0 0)
    ∧ decodeA 0b00110000000000000000000000000000 = .ok (.anop ⟨0, 3⟩) := by decide +kernel

/-- MessageInstructionResults: one word and eight, a deposit, an allowance and none, another tile and the own one; an inbox with a word. -/
theorem witness_messages : user.issuesC ⟨0, 0⟩ ∧ user.txact = false ∧ (8 : Word).toNat < 512 ∧ (8 : Word).toNat % 16 = 8
    ∧ (8 : Word).extractLsb' 4 5 = 0 ∧ (0x51 : Word).toNat % 16 = 1 ∧ (0x51 : Word).extractLsb' 4 5 = 5
    ∧ user.sendTarget 0x40000000 = some 1 ∧ user.sendTarget 0x0040000000000000 = some user.own ∧ user.mallow ≠ 0
    ∧ (user.setCtx { user.tile.ctx with mallow := 0 }).mallow = 0 ∧ user.boundPort 5 0 = none ∧ user.tile.net.inbox = []
    ∧ (user.setNet { user.tile.net with inbox := [5], arrived := true }).tile.net.inbox = [5]
    ∧ (user.setNet { user.tile.net with inbox := [5], arrived := true }).tile.net.arrived = true ∧ user.tile.power.state = .run := by
  unfold State.issuesC; decide +kernel

/-- ArrivalsLand: nothing waits; an inbox that the largest message just fills; a register that DEPMASK admits and one that it does not;
messages sent. -/
theorem witness_arrivals : user.tile.net.waiting = [] ∧ user.tile.net.spillTo = none ∧ user.midInstruction = false ∧ user.tile.wait = .idle ∧ user.homeless = false
    ∧ (List.replicate 55 (0 : Word)).length + 1 + 8 ≤ 64 ∧ (31 : BitVec 5) ≠ 0 ∧ user.tile.ctx.depmask.getLsbD 31 = false
    ∧ (user.setCtx { user.tile.ctx with depmask := 0x80000000 }).tile.ctx.depmask.getLsbD 31 = true ∧ user.sup = false
    ∧ user.tile.net.sent = [] ∧ (user.setNet { user.tile.net with sent := [0x40000000] }).tile.net.sent ≠ [] := by decide +kernel

/-- `user` in deterministic mode, in a context of tiles 0 and 1. -/
def superstep : State := withCtxs (user.setStatusBit 5 true) [{ ctx with tiles := [0, 1], det := true, landed := [1] }]

/-- SuperstepProgress: SSTEP with no record and with one, every state of its wait, with and without the other tile's records landed and
the other tile asleep, with and without a rejected record, and a cut of a context that the tile holds and of one that has left it before
its SSTEP. -/
theorem witness_superstep :
    (let s := superstep;
      s.issuesC ⟨0, 0⟩ ∧ s.tile.wait = .idle ∧ s.sup = false ∧ s.det = true ∧ s.txact = false ∧ (s.g 2).toNat = 0 ∧ s.hub.errors.bad = []
        ∧ s.tile.seq.held = none ∧ s.takesPreempt = false ∧ s.seqIdle = true ∧ s.ownA = none ∧ s.caughtUp = true ∧ s.enginesIdle = true
        ∧ s.mallow = 8 ∧ s.tile.power.state = .run ∧ s.releaseWaits = false ∧ ((s.begin 0).release 3).tile.path.failures = [])
    ∧ (let s := (superstep.setMem ((superstep.mem.writeNat 0x1000 8 (0x2000 + 4 * 2 ^ 32)).writeNat 0x1008 8 0x3000)).setG 1 0x1000;
      ((s.begin 0).resolve true .load (s.g 1) 16 16 = .mem 0x1000 none ∧ addrSpm 0x1000 = true ∧ s.isLocal 0x1000 = true
        ∧ (s.begin 0).firstFault 0x1000 1 0 = none))
    ∧ (superstep.setWait (.sstep .ran 0 0)).allLanded 7 = true ∧ superstep.tile.res.ctx = 7
    ∧ (withCtxs superstep [{ ctx with tiles := [0, 1], det := true }]).allLanded 7 = false
    ∧ (superstep.setWait (.sstep .released 0 0)).tile.res.rejected = none ∧ superstep.tile.power.state = .run ∧ superstep.tile.front.xtrap = none
    ∧ ((superstep.setRes { superstep.tile.res with rejected := some 5 }).setWait (.sstep .released 0 0)).tile.res.rejected = some 5
    ∧ (superstep.setFront { superstep.tile.front with xtrap := some (0x0B, 1) }).tile.front.xtrap ≠ none
    ∧ (let c : Ctx := { ctx with tiles := [0, 1], det := true, asleep := [1] };
      (withCtxs superstep [c]).ctxOf 7 = some c ∧ (1 : BitVec 24) ∈ c.asleep ∧ (1 : BitVec 24) ≠ superstep.own)
    ∧ superstep.holds 7 = true
    ∧ (let c : Ctx := { ctx with det := true, before := [0] };
      let s := (withCtxs superstep [c]).setRes { superstep.tile.res with ctx := 0 };
      s.ctxOf 7 = some c ∧ s.holds 7 = false ∧ s.own ∈ c.before ∧ s.cutAnswer c = 0)
    ∧ (match superstep.ctxOf 7 with
      | some c => c.det
      | none => false) = true := by unfold State.issuesC; decide +kernel

/-- BarjAndSleep: a first arrival and a later look at a barrier whose generation has moved on; SLEEP with and without a limit. -/
theorem witness_barjAndSleep :
    (let s := ((user.setMem (user.mem.writeNat 0x1000 8 0x100000000)).setG 1 0x1000).setG 2 2;
      s.issuesC ⟨0, 0⟩ ∧ s.txact = false ∧ s.tile.path.tx = none ∧ s.tile.wait = .idle ∧ s.tile.front.ast ≠ .asleep ∧ s.tile.power.state = .run ∧ 0 < (s.g 2).toNat
        ∧ (s.g 2).toNat < 2 ^ 16 ∧ s.rowsPending = false ∧ s.tile.path.l1 = [] ∧ s.resolve true .atomic (s.g 1) 8 8 = .mem 0x1000 none
        ∧ (s.g 3).getLsbD 63 = false ∧ ((s.setG 3 0x8000000000000000).g 3).getLsbD 63 = true
        ∧ s.mem.readNat 0x1000 8 / 2 ^ 32 % 2 ^ 31 ≠ ((s.setG 3 0x8000000000000000).g 3).toNat / 2 ^ 32 % 2 ^ 31)
    ∧ (user.setWait (.sleep false false false (some 0))).tile.wait = .sleep false false false (some 0)
    ∧ (0 : Word).toNat ≤ user.cycle.toNat ∧ barrierNext 2 1 = 2 ^ 32 ∧ barrierNext 65535 65534 = 2 ^ 32
    ∧ barrierNext 1 (2 ^ 63 - 2 ^ 32) = 0 ∧ barrierNext 3 1 = 2 := by unfold State.issuesC; decide +kernel

/-- TaskInstructionResults: a record in the scratchpad and a descriptor of a queue with room, and of a full one; a join block; TDONE with
nothing in flight. -/
theorem witness_tasks :
    (let s := ((user.setG 1 0x1000).setG 2 0x2000);
      let u := ((s.begin 6).readPlace 0x1000 32).1;
      s.issuesC ⟨0, 0⟩ ∧ s.tile.wait = .idle ∧ s.det = false ∧ s.txact = false ∧ (s.begin 6).resolve true .load (s.g 1) 32 32 = .mem 0x1000 none
        ∧ addrSpm 0x1000 = true ∧ s.isLocal 0x1000 = true ∧ ((s.begin 6).readPlace 0x1000 32).2.isSome = true
        ∧ u.resolve true .store (s.g 2) 64 64 = .mem 0x2000 none ∧ 0x2000 < hostBase ∧ u.rowsPending = false
        ∧ s.resolve true .atomic (s.g 2) 64 8 = .mem 0x2000 none ∧ inStaging (addrOff 0x2000) = false ∧ s.hub.errors.bad = []
        ∧ s.tile.path.posted = [] ∧ s.tile.path.l1 = [] ∧ s.tile.path.tx = none)
    ∧ (let s := user.setMem ((user.mem.writeNat 0x2000 8 0x3000).writeNat 0x2008 1 1);
      let q := readTaskQueue s.mem 0x2000;
      (q.tail - q.head).toNat < 2 ^ q.logn ∧ (s.dieRead 0x2000 64).taskSlot q q.tail = some 0x3000)
    ∧ (let q := readTaskQueue ((user.mem.writeNat 0x2008 1 1).writeNat 0x2014 4 2) 0x2000;
      2 ^ q.logn ≤ (q.tail - q.head).toNat)
    ∧ (user.setWait (.append 0x2000 [1, 2, 3, 4])).tile.wait = .append 0x2000 [1, 2, 3, 4] ∧ user.sup = false ∧ user.tile.seq.held = none
    ∧ user.caughtUp = true ∧ user.seqIdle = true ∧ user.enginesIdle = true ∧ user.releaseWaits = false
    ∧ (((user.begin 6).flushPosted fun _ => true).release 3).tile.path.failures = [] ∧ user.g 5 = 0 := by unfold State.issuesC; decide +kernel

/-- The same: TDONE with a join block at the last place below the staging window, whose count is 0, 1 or 2. -/
theorem witness_joinBlock :
    let s (n : Nat) : State := (user.setMem ((user.mem.writeNat 0x77FC0 8 n).writeNat 0x77FC8 8 0x2000)).setG 1 0x77FC0
    let u (n : Nat) : State := (((s n).begin 6).flushPosted fun _ => true).release 3
    (s 1).issuesC ⟨0, 0⟩ ∧ (s 1).g 1 ≠ 0 ∧ (u 1).tile.path.failures = [] ∧ (u 1).resolve true .atomic 0x77FC0 64 64 = .mem 0x77FC0 none
      ∧ (u 1).resolve true .atomic 0x77FC0 64 8 = .mem 0x77FC0 none ∧ addrSpm 0x77FC0 = true ∧ (s 1).isLocal 0x77FC0 = true
      ∧ inStaging (addrOff 0x77FC0) = false ∧ inStaging (addrOff (0x77FC0 + 7)) = false ∧ (s 1).tile.path.tx = none ∧ (u 1).hub.errors.bad = []
      ∧ (u 0).mem.readNat 0x77FC0 8 = 0 ∧ (s 0).tile.front.xtrap = none ∧ (u 1).mem.readNat 0x77FC0 8 = 1 ∧ (u 2).mem.readNat 0x77FC0 8 = 2
      ∧ ptrVirtual ((u 1).mem.readWord 0x77FC8) = false ∧ (u 1).reach [] .store ((u 1).mem.readWord 0x77FC8) 64 = .mem 0x2000 none := by
  unfold State.issuesC; decide +kernel

/-- `user` whose strip has a lease of the resident context with no time left. -/
def leased : State :=
  let s := withCtxs user [ctx]
  s.setStrip s.ownStrip { s.strip s.ownStrip with st := 1, holder := 7, id := 3 }

/-- LeaseResults: a request that the strip grants and one that it answers with a reason; a holder and another context; a lease whose
time has run out. -/
theorem witness_leases :
    (let c : Ctx := { ctx with rcbs := [{ region with boost := true, pbudget := 400 }] }
      let s := withCtxs (user.setCtx { user.tile.ctx with pgrant := 0x7FFFFFFFFFFFFFFF }) [c];
      s.leaseWhy s.own 7 0 0 ≠ 0 ∧ s.leaseWhy s.own 7 1 1 = 0 ∧ s.leaseWhy s.own 7 128 60000000 = 0 ∧ s.tile.wait = .idle
        ∧ (s.strip s.ownStrip).st = 0)
    ∧ (leased.strip leased.ownStrip).st = 1 ∧ (leased.strip leased.ownStrip).holder = 7 ∧ leased.holdsLease (leased.strip leased.ownStrip) = true
    ∧ (leased.strip leased.ownStrip).id = ((leased.setG 1 3).g 1).extractLsb' 0 16 ∧ leased.remaining (leased.strip leased.ownStrip) = 0
    ∧ leased.tile.pend.lease = none ∧ leased.tile.wait ≠ .load ∧ user.holdsLease (user.strip user.ownStrip) = false
    ∧ (user.setWait (.lease 16 100)).tile.wait = .lease 16 100 := by decide +kernel

/-- GangResults: a pair of which the other member is there, and is not; a member whose gang breaks. -/
theorem witness_gang :
    (let s := user.setRes { user.tile.res with peers := [(1, 0)] };
      s.issuesC ⟨0, 0⟩ ∧ s.txact = false ∧ s.sup = false ∧ s.grole = 0 ∧ s.gangDiffers 0 = false ∧ s.tile.wait = .idle ∧ 2 ≤ s.gangCount 0 + 1)
    ∧ (let s := user.setRes { user.tile.res with peers := [(1, 1)] };
      s.calm ∧ s.gangDiffers 0 = true ∧ s.tile.wait = .idle ∧ s.sup = false)
    ∧ sup.calm ∧ user.guardC ⟨0, 3⟩ = false ∧ user.tile.res.ungang = false ∧ user.straight
    ∧ (user.setRes { user.tile.res with ungang := true }).tile.res.ungang = true
    ∧ (let s := (user.setRes { user.tile.res with peers := [(1, 0)] }).setWait (.gang 0); s.tile.wait = .gang 0 ∧ 2 ≤ s.gangCount 0 + 1)
    ∧ user.gangDiffers 2 = false ∧ user.gangCount 2 + 1 < 8 ∧ (2 : BitVec 2).toNat < 3
    ∧ ((user.formGang 0).grole ≠ 0) ∧ (user.formGang 0).tile.pend.gangBreak = none := by
  unfold State.issuesC State.calm State.straight; decide +kernel

/-- TrapEntry: task mode outside a gang, and supervisor mode. -/
theorem witness_trapEntry : user.sup = false ∧ user.tile.wait = .idle ∧ user.tile.res.leaderNext = none ∧ user.grole = 0
    ∧ user.tile.csr.status.extractLsb' 16 7 = 0 ∧ sup.sup = true ∧ sup.tile.wait = .idle := by decide +kernel

/-- A queue's descriptor: rings of 16 packets and 16 records at 0x2000 and 0x3000 of tile 0, privileged, with every grant. -/
def queueWords : List Word := [0x2000, 0x30404, 0x3000, 0, 0x10FFFF, 0, 0, 0]

/-- Queue 5, in slot 0, with one packet announced and those of `l` started. -/
def queueOf (l : List Pkt) : Queue :=
  { q := 5, slot := some 0, desc := queueWords, head := 0, ctail := 0, tail := 1, err := 0, started := l, stopping := false, last := 0 }

/-- `s` with the queues `l`. -/
def withQueues (s : State) (l : List Queue) : State := s.setFe { s.hub.fe with queues := l }

/-- `s` with queue 5 and the packet `words` next. -/
def announced (s : State) (words : List Word) : State :=
  withQueues (s.setMem (s.mem.writeBytes 0x2000 (bytesOf words))) [queueOf []]

/-- A started packet. -/
def pkt (words : List Word) (phase : PktPhase) : Pkt :=
  { idx := 0, words := words, since := 0, phase := phase, ctx := 0, blocked := none, met := false }

/-- A CHECKPOINT packet of the resident context, which is parked for it. -/
def checkpointing : State :=
  withQueues (withCtxs sup [{ ctx with cxb := 0, parked := some (0, 0, 0) }]) [queueOf [pkt [6, 5, 3] .running]]

/-- TrapReturn: EWP's workspace is the resident context's, or another's, or a CHECKPOINT waits for the save; a save that is ready, one that
is not and one whose time is over; a load of nothing (the idle buffer), and one of a context buffer that cannot be read, awake and in HOLD. -/
theorem witness_trapReturn : sup.issuesC ⟨0, 0⟩ ∧ sup.tile.wait = .idle ∧ sup.sup = true ∧ sup.jumps
    ∧ sup.wsCxb sup.tile.csr.ewp = sup.tile.res.cxb ∧ sup.mustSave = false ∧ checkpointing.mustSave = true
    ∧ (let s := sup.setMem (sup.mem.writeWord (sup.ownAddr 0x7538) 0x4000000);
      s.wsCxb s.tile.csr.ewp ≠ s.tile.res.cxb)
    ∧ (user.issuesC ⟨0, 0⟩ ∧ user.calm) ∧ (sup.setWait .save).saveReady = true ∧ (sup.setWait .save).saveOver = false
    ∧ ((sup.setCtx { sup.tile.ctx with mallow := 7 }).setWait .save).saveReady = false
    ∧ ({ sup.setWait .save with cycle := 4800000 } : State).saveOver = true ∧ (sup.setWait .load).tile.power.state = .run
    ∧ ((sup.setPower { sup.tile.power with state := .hold }).setWait .load).tile.power.state = .hold
    ∧ (sup.setWait .load).loadFrom = some sup.tile.csr.ewp ∧ (sup.ctxOf (sup.ctxByCxb (sup.wsCxb sup.tile.csr.ewp))).isNone = true
    ∧ ((sup.setWait .load).loadLocal 0).isSome = true ∧ sup.tile.wait ≠ .load
    ∧ ((sup.setErrors { sup.hub.errors with bad := [.memory (0x4000000 / 8)] }).setWait .load).loadLocal 0x4000000 = none := by
  unfold State.issuesC State.jumps State.calm; decide +kernel

/-- AsynchronousCauses: SNAPAT reached, a pending cause at a boundary, a context whose tile is asleep, and no cause. -/
theorem witness_asynchronous :
    (let s : State := { user.setCsr { user.tile.csr with snapAt := 9, snapArmed := true } with cycle := 9 };
      s.tile.csr.snapArmed = true ∧ s.tile.csr.snapAt = s.cycle ∧ s.cycle ≠ 0 ∧ s.tile.pend.snapshot = none ∧ s.tile.wait ≠ .load)
    ∧ (let s := user.setPend { user.tile.pend with gangBreak := some 5 };
      s.asyncCause.isSome = true ∧ s.atBoundary = true ∧ s.txact = false ∧ s.tile.power.state = .run ∧ s.tile.pend.gangBreak = some 5)
    ∧ (let s := inTx.setPend { user.tile.pend with gangBreak := some 5 };
      s.asyncCause.isSome = true ∧ s.atBoundary = true ∧ s.txact = true ∧ s.caughtUp = true ∧ s.tile.power.state = .run)
    ∧ (let s (p : PowerState) : State := (((user.setPend { user.tile.pend with gangBreak := some 5 }).setWait (.sleep false false false none)).setPower
          { user.tile.power with state := p });
      (s .hold).asyncCause.isSome = true ∧ (s .hold).atBoundary = true ∧ (s .gated).asyncCause.isSome = true ∧ (s .gated).atBoundary = true)
    ∧ (let s := (withCtxs user [ctx]).setFront { user.tile.front with ast := .asleep };
      s.ctxOf 7 = some ctx ∧ s.allAsleep ctx = true ∧ s.nothingInFlight ctx = true ∧ lowestTile ctx.tiles = s.own ∧ s.tile.wait ≠ .load)
    ∧ (user.setCsr { user.tile.csr with status := 0 }).ie = false ∧ user.tile.pend.gangBreak = none ∧ user.tile.pend.lease = none
    ∧ user.tile.pend.capBreach = none ∧ user.tile.pend.scopeMiss = none := by decide +kernel

/-- PowerOperations: times that have run out and that have not, a strip that throttles and one that does not, the governor's clamp, a
tile that has been held below FMIN for 1 ms, in HOLD and in WAKING, an energy tick, and the two edges of ENERGY. -/
theorem witness_power :
    (let s : State := { user with cycle := 72000000000 };
      let x := s.strip 3;
      120000 ≤ (s.cycle - x.sampled).toNat ∧ 2400000 ≤ (s.cycle - x.turned).toNat ∧ x.thr = false ∧ x.tthr.toInt ≤ (0x0550 : BitVec 16).toInt
        ∧ (0x054F : BitVec 16).toInt < x.tthr.toInt ∧ x.tcnt ≠ BitVec.allOnes 32 ∧ 2400000 ≤ (s.cycle - s.hub.power.heatAt).toNat
        ∧ s.hub.power.refz = false ∧ s.leasedPower ≤ (min 500 s.hub.power.gceil.toNat - s.hub.power.prej.toNat) * 16
        ∧ s.hub.power.clamp = false ∧ (s.strip 0).held.toNat < 9 ∧ s.switching = false ∧ s.running = true
        ∧ (3000 : Nat) ≤ s.hub.power.pcap.toNat ∧ s.hub.power.ppwr.toNat ≤ 500)
    ∧ (user.cycle - user.hub.power.heatAt).toNat < 2400000
    ∧ (let x := { user.strip 3 with thr := true, st := 1, recent := [0x0520, 0x0520, 0x0520] };
      ((user.setStrip 3 x).strip 3).thr = true ∧ x.st = 1
        ∧ ((0x0520 : BitVec 16) :: x.recent).all (fun y => decide (y.toInt ≤ x.tthr.toInt - 48)) = true)
    ∧ (let s := { user.setPw { user.hub.power with clamp := true, refz := true, quj := 15000000000, below := some 0 } with cycle := 2400000 };
      s.hub.power.clamp = true ∧ s.hub.power.refz = true ∧ s.hub.power.below = some 0 ∧ 2400000 ≤ (s.cycle - 0).toNat
        ∧ s.hub.power.ppwr.toNat < min s.hub.power.pcap.toNat s.hub.power.gceil.toNat)
    ∧ user.hub.power.below = none ∧ min user.hub.power.pcap.toNat user.hub.power.gceil.toNat
      ≤ (user.setPw { user.hub.power with ppwr := 3000 }).hub.power.ppwr.toNat
    ∧ (let s := { user.setPower { user.tile.power with slowFrom := some 0 } with cycle := 2400000 };
      s.tile.power.armed = true ∧ s.tile.power.slowFrom = some 0 ∧ 2400000 ≤ (s.cycle - 0).toNat ∧ s.tile.pend.capBreach = none
        ∧ s.tile.wait ≠ .load)
    ∧ (let s := { user.setPower { user.tile.power with state := .hold } with cycle := 48000 };
      s.tile.power.state = .hold ∧ 48000 ≤ (s.cycle - s.tile.power.since).toNat ∧ s.tile.wait = .idle)
    ∧ user.tile.power.state ≠ .hold
    ∧ (let s := { user.setPower { user.tile.power with state := .waking } with cycle := 72000000000 };
      s.tile.power.state = .waking ∧ s.runsAt ≤ s.cycle.toNat)
    ∧ 1024 * 480 ≤ (user.setPower { user.tile.power with resident := 1024 * 480 }).tile.power.resident
    ∧ (7 : Word).toNat % 2 ^ 48 + (2 ^ 48 - 8) < 2 ^ 48 ∧ 2 ^ 48 ≤ (7 : Word).toNat % 2 ^ 48 + (2 ^ 48 - 7) := by decide +kernel

/-- The next packet of queue `q` can start, is of a TYPE, and `p` holds of the state and the packet then. -/
def opensTo (s : State) (q : BitVec 10) (type : Nat) (p : State → Pkt → Bool) : Bool :=
  s.startable (s.queue q) == some (some type) && s.visited (s.queue q) && match s.nextPacket (s.queue q) with
    | (s', .ok w) =>
      let k : Pkt := { idx := (s.queue q).head, words := w, since := s.cycle, phase := .running, ctx := 0, blocked := none, met := false }
      p (s'.begin_ (s.queue q) k) k
    | (_, .error _) => false

theorem opens_of_test {s : State} {q : BitVec 10} {type : Nat} {p : State → Pkt → Bool} (h : opensTo s q type p = true) :
    ∃ u k, s.opens q type u k ∧ p u k = true := by
  simp only [opensTo, Bool.and_eq_true, beq_iff_eq] at h
  obtain ⟨⟨hs, hv⟩, h⟩ := h
  split at h
  · next s' w hw => exact ⟨_, _, ⟨hs, hv, s', w, hw, rfl, rfl⟩, h⟩
  · cases h

/-- QueueAndPacketRules, packets that start: one refused, one of no TYPE, a SIGNAL, a WAIT with bits set that its TYPE does not give; a
packet that cannot be read. -/
theorem witness_packetsStart :
    (∃ u k, (announced user [0x10]).opens 5 0x10 u k ∧ (k.refusedWith false == 0x44) = true)
    ∧ (∃ u k, (announced user [0x20]).opens 5 0x20 u k ∧ (typeMasks 0x20).isNone = true)
    ∧ (∃ u k, (announced user [4, 0x1000]).opens 5 4 u k ∧ (k.refusedWith true == 0 && k.word 1 == 0x1000) = true)
    ∧ (∃ u k, (announced user [5, 0x1004]).opens 5 5 u k ∧ (k.refusedWith true == 0 && k.word 1 == 0x1004) = true)
    ∧ (announced user []).hub.fe.shoot = none
    ∧ (let s := withQueues user [{ queueOf [] with desc := [0xF800000000002000, 0x30404, 0x3000, 0, 0x10FFFF, 0, 0, 0] }];
      s.startable (s.queue 5) = some none ∧ s.visited (s.queue 5) = true) :=
  ⟨opens_of_test (by decide +kernel), opens_of_test (by decide +kernel), opens_of_test (by decide +kernel),
    opens_of_test (by decide +kernel), by decide +kernel, by decide +kernel⟩

/-- The same, queues: a started packet; NOTIFY that waits, that announces nothing new, and of a mapped and an unmapped queue; a queue to
map; one to evict among 32. -/
theorem witness_queues :
    (pkt [4] .running).open_ = true ∧ (withQueues user [queueOf [pkt [4] .running]]).hub.boot.mini = false
    ∧ (user.setFe { user.hub.fe with kidDown := 3 }).wakeDown = true ∧ user.wakeDown = false ∧ user.hub.fe.fbact = false
    ∧ (1 : BitVec 32) = (queueOf []).tail ∧ (2 : BitVec 32) ≠ (queueOf []).tail ∧ (queueOf []).err = 0 ∧ (queueOf []).slot.isSome = true
    ∧ (let s := (user.setMem (user.mem.writeBytes 0x1140 (bytesOf queueWords))).setFe { user.hub.fe with qdtb := 0x1000, wake := [5] };
      (s.queue 5).slot = none ∧ (s.readDescriptor 5).2 = some queueWords ∧ s.wakeHead = some 5 ∧ s.freeSlots ≠ []
        ∧ (let z := { s.queue 5 with desc := queueWords, tail := 1 };
          (s.readDescriptor 5).1.descriptorOk z = true ∧ z.en = true ∧ z.tooFar = false))
    ∧ (let s := (withQueues user ((List.range 32).map fun i =>
          { queueOf [] with q := BitVec.ofNat 10 i, slot := some (BitVec.ofNat 5 i), tail := if i = 5 then 0 else 1 }));
      s.freeSlots = [] ∧ s.victim = some (s.queue 5) ∧ (s.queue 5).q = 5 ∧ (s.queue 5).started = [] ∧ (s.queue 5).head = (s.queue 5).tail
        ∧ s.hub.errors.bad = [] ∧ (s.setFe { s.hub.fe with wake := [7] }).hub.fe.wake ≠ []) := by decide +kernel

/-- The same, started packets: a SIGNAL, a WAIT whose condition holds, has held, and does not hold, with and without a limit; packets that
complete with and without a record; the watchdog of the hub; a quantum that is over and one that is not. -/
theorem witness_packetsRun :
    (let k := pkt [4, 0x1000, 7, 1] .running;
      let s := withQueues user [queueOf [k]];
      (s.queue 5).started = [k] ∧ k.type = 4 ∧ k.open_ = true ∧ k.blocked = none ∧ s.hubAt (s.queue 5).space .atomic (k.word 1) 8 8 = .mem 0x1000 none
        ∧ s.hub.errors.bad = [])
    ∧ (let k := pkt [5, 0x1000, 0, 0, 10] .running;
      let s := { withQueues user [queueOf [k]] with cycle := 24000 };
      (s.queue 5).waiting = some k ∧ k.met = false ∧ (match (s.hubRead (s.queue 5).space (k.word 1) 8).2 with
        | .ok l => bytesNat l == (k.word 2).toNat
        | .error _ => false) = true
        ∧ (k.word 4).toNat % 2 ^ 32 ≠ 0 ∧ (k.word 4).toNat % 2 ^ 32 * 2400 ≤ (s.cycle - k.since).toNat)
    ∧ (let k := { pkt [5, 0x1000, 1, 0, 0] .running with met := true };
      ((withQueues user [queueOf [k]]).queue 5).waiting = some k ∧ k.met = true ∧ (k.word 4).toNat % 2 ^ 32 = 0)
    ∧ (let k := pkt [4] (.finished 0 0 0 0);
      let s := withQueues user [queueOf [k]];
      s.packetsDown = false ∧ (queueOf [k]).stopping = false ∧ (s.queue 5).pkt 0 = some k ∧ s.ctxOf k.ctx = none ∧ k.cmpl = false)
    ∧ (let k := pkt [0x204] (.finished 0 0 0 0);
      let s := withQueues user [queueOf [k]];
      (s.queue 5).pkt 0 = some k ∧ k.cmpl = true ∧ s.hub.errors.bad = []
        ∧ (match s.hubRange (s.queue 5).space .store (hubAdd ((s.queue 5).word 2) 0) 32 with
          | .ok l => l == (List.range 32).map fun i => 0x3000 + i
          | .error _ => false) = true)
    ∧ user.hub.boot.image = none ∧ (user.setBoot { user.hub.boot with image := some (0, 0, []) }).hub.boot.image.isSome = true
    ∧ user.hub.boot.bootok = false
    ∧ (let s := { withCtxs user [ctx, { ctx with id := 8, lidx := 4 }] with cycle := 2400000 };
      s.switching = false ∧ s.tile.res.ctx ≠ 0 ∧ s.quantumOver = true ∧ s.nextCtx = some { ctx with id := 8, lidx := 4 })
    ∧ (withCtxs user [ctx]).quantumOver = false
    ∧ (let s := { withCtxs sup [{ ctx with parked := some (1, 2, 0) }, { ctx with id := 8, lidx := 4 }] with cycle := 2400000 };
      s.sup = true ∧ s.quantumOver = true ∧ s.nextCtx = some { ctx with id := 8, lidx := 4 } ∧ ((s.ctxOf 7).bind Ctx.parked).isSome = true)
    ∧ (let s := user.setFront { user.tile.front with ast := .halted }; s.tile.res.ctx = 0 ∧ s.tile.wait = .idle ∧ s.tile.front.ast = .halted
      ∧ s.switching = false ∧ s.hub.fe.fbact = false) := by decide +kernel

/-- The region control block of tile 0 at level 5, with 6.25 W. -/
def regionWords : List Word := [0, 5, 0x90064, 0]

/-- `user` with that block at 0x4000 and queue 5. -/
def launchable (words : List Word) : State := announced (user.setMem (user.mem.writeBytes 0x4000 (bytesOf regionWords))) words

/-- A LAUNCH of 64 bytes of code at 0 and of data at 64, with a workspace at 128. -/
def launchWords : List Word := [1, 0x6000, 1 + 1 * 2 ^ 26 + 1 * 2 ^ 39, 0x6040, 0, 2 + 4 * 2 ^ 13, 0x4000, 0x90064]

/-- PacketOperations: a LAUNCH that the checks pass and one without code; its admission; a TILE; a stream that has ended. -/
theorem witness_launch :
    (∃ u k, (launchable launchWords).opens 5 1 u k ∧ (k.refusedWith true == 0
      && (match u.rcbArray (u.queue 5).space (k.word 6) with
        | (v, r) => r.isSome && v.launchStatus (u.queue 5) k r == 0)) = true)
    ∧ (∃ u k, (launchable (launchWords.set 2 0)).opens 5 1 u k ∧ (k.refusedWith true == 0
      && (match u.rcbArray (u.queue 5).space (k.word 6) with
        | (v, r) => v.launchStatus (u.queue 5) k r != 0)) = true)
    ∧ (let k := pkt launchWords .waiting;
      let one : Rcb := rcbRaw 0 (regionWords ++ List.replicate 12 0);
      let s := (withQueues (user.setRes { user.tile.res with ctx := 0 }) [queueOf [k]]).setFe
        { user.hub.fe with queues := [queueOf [k]], launches := [(5, 0, [one])] };
      s.firstLaunch = some (5, 0, [one]) ∧ (s.queue 5).pkt 0 = some k ∧ s.rectangle one = [0] ∧ s.admissible k [0] = true ∧ k.placesOk = true
        ∧ s.hub.errors.bad = [] ∧ s.own = 0 ∧ s.tile.res.ctx = 0 ∧ s.tile.wait = .idle
        ∧ (match s.hubRange (s.queue 5).space .load (k.word 1) k.codeLen, s.hubRange (s.queue 5).space .load (k.word 3) k.dataLen with
          | .ok _, .ok _ => true
          | _, _ => false) = true
        ∧ (s.setPw { s.hub.power with pcap := 0 }).admissible k [0] = false)
    ∧ (∃ u k, (launchable [2, 0x6000, 1, 0x5000, 0, 0, 0x4000, 0]).opens 5 2 u k ∧ (k.refusedWith true == 0
      && (match u.rcbArray (u.queue 5).space (k.word 6) with
        | (v, r) => tileRcbOk (u.queue 5) (r.getD []) && (match v.hubRead (u.queue 5).space (k.word 3) 128 with
          | (w, .ok b) => blockOk (dwordsOf 16 b) && (match (w.hubRead (u.queue 5).space (k.word 1) 8).2 with
            | .ok _ => true
            | .error _ => false)
          | (_, .error _) => false))) = true)
    ∧ (let s := withCtxs user [{ ctx with run := some { stream with insns := [] } }];
      ((s.ctxOf 7).bind Ctx.run).isSome = true ∧ ctx.ended = none) :=
  ⟨opens_of_test (by decide +kernel), opens_of_test (by decide +kernel), by decide +kernel, opens_of_test (by decide +kernel), by decide +kernel⟩

/-- The same: a COPY that moves, one that cannot be read, and one into a write-blocked page; SHOOT; and CHECKPOINT, KILL, PFR and QSTOP,
each with and without what they name. -/
theorem witness_packetOps :
    (∃ u k, (announced user [3, 0x8000, 0x6000, 8]).opens 5 3 u k ∧ (k.refusedWith true == 0 && u.hub.errors.bad.isEmpty
      && (match u.hubRange (u.queue 5).space .load (k.word 2) 8, u.hubRange (u.queue 5).space .store (k.word 1) 8 with
        | .ok a, .ok b => a.all (fun x => !b.contains x) && decide b.Nodup && !u.checkpointing b
        | _, _ => false)) = true)
    ∧ (∃ u k, (announced user [3, 0x8000, 0xF800000000006000, 8]).opens 5 3 u k ∧ (k.refusedWith true == 0
      && (match u.hubRange (u.queue 5).space .load (k.word 2) 8 with
        | .error (some _) => true
        | _ => false)) = true)
    ∧ (∃ u k, (announced (user.setMem (((((user.mem.writeNat 0x4000000 8 0x1001).writeNat 0x4001000 8 0x2001).writeNat 0x4002000 8 0x3001).writeNat
          0x4003000 8 0x4001).writeNat 0x4004000 8 0x8027)) [3, 0x0080000000000000, 0x6000, 8]).opens 5 3 u k ∧ (k.refusedWith true == 0
      && (match u.hubRange (u.queue 5).space .load (k.word 2) 8, u.hubRange (u.queue 5).space .store (k.word 1) 8 with
        | .ok _, .error none => true
        | _, _ => false)) = true)
    ∧ (∃ u k, (announced user [0x10, 9, 0, 1]).opens 5 0x10 u k ∧ (k.refusedWith true == 0) = true)
    ∧ (let x : Shootdown := { ctxid := 9, all := false, base := 0, count := 1, acks := 0xE, queue := 5, idx := 0 };
      let s := user.setFe { user.hub.fe with shoot := some x };
      s.hub.fe.shoot = some x ∧ s.hub.fe.fbact = false ∧ s.tile.csr.pcoord.extractLsb' 10 2 = 0 ∧ s.shootBusy x = false)
    ∧ (∃ u k, (announced (withCtxs user [ctx]) [6, 5, 3]).opens 5 6 u k ∧ (k.refusedWith true == 0 && u.ctxNamed k == some ctx
      && u.ctxOf 7 == some ctx && ctx.det == false && u.holds 7) = true)
    ∧ (∃ u k, (announced (withCtxs user [ctx]) [6, 5, 4]).opens 5 6 u k ∧ (k.refusedWith true == 0 && (u.ctxNamed k).isNone) = true)
    ∧ (∃ u k, (announced (withCtxs user [ctx]) [0x11, 5, 3]).opens 5 0x11 u k ∧ (k.refusedWith true == 0 && u.ctxNamed k == some ctx
      && u.ctxOf 7 == some ctx && ctx.saving == false) = true)
    ∧ (∃ u k, (announced (withCtxs user [{ ctx with saving := true }]) [0x11, 5, 3]).opens 5 0x11 u k ∧ (k.refusedWith true == 0
      && u.ctxNamed k == some { ctx with saving := true }) = true)
    ∧ (∃ u k, (announced (withCtxs user [{ ctx with parked := some (1, 2, 0) }]) [0x12, 5, 3, 1]).opens 5 0x12 u k ∧ (k.refusedWith true == 0
      && u.ctxNamed k == some { ctx with parked := some (1, 2, 0) } && (k.word 3).getLsbD 0) = true)
    ∧ (∃ u k, (announced (withCtxs user [ctx]) [0x12, 5, 3, 0]).opens 5 0x12 u k ∧ (k.refusedWith true == 0
      && u.ctxNamed k == some ctx && ctx.parked.isNone) = true)
    ∧ (∃ u k, (announced user [0x13, 6]).opens 5 0x13 u k ∧ (k.refusedWith true == 0 && (u.queue 6).slot.isNone) = true)
    ∧ (∃ u k, (announced user [0x13, 5]).opens 5 0x13 u k ∧ (k.refusedWith true == 0 && (u.queue 5).slot.isSome
      && (u.queue 5).started.any fun z => !z.stops 6) = true) :=
  ⟨opens_of_test (by decide +kernel), opens_of_test (by decide +kernel), opens_of_test (by decide +kernel), opens_of_test (by decide +kernel),
    by decide +kernel, opens_of_test (by decide +kernel), opens_of_test (by decide +kernel), opens_of_test (by decide +kernel),
    opens_of_test (by decide +kernel), opens_of_test (by decide +kernel), opens_of_test (by decide +kernel), opens_of_test (by decide +kernel),
    opens_of_test (by decide +kernel)⟩

/-- The command of the descriptor, for attachment 2, in a phase. -/
def command (p : SwPhase) : SwCmd := { desc := BitVec.ofNat 256 descriptor, phase := p, tile := false, owner := 0, order := 0 }

/-- Attachment 2 as `x`, with that command in engine 1. -/
def onBus (p : SwPhase) (x : Attachment) : State := (user.setEng { user.tile.eng with fifo1 := [command p] }).setAtt 2 x

/-- A rendezvous of three stations for it, two of which have joined. -/
def rendezvous (complete : Bool) : Rendezvous :=
  { first := joinFields (BitVec.ofNat 256 descriptor), joined := if complete then 14 else 12, since := 0, complete := complete }

/-- The collective of it, from frame 0, with group 0 in a batch on wavelength 0. -/
def collective (ended : Option (BitVec 4)) : Collective :=
  { fields := joinFields (BitVec.ofNat 256 descriptor), members := 14, frame := 0, begun := true, waves := 0xFF, marked := 0, retired := []
    exponent := false, unsent := [], resend := [], lanes := (Vector.replicate 8 { boundary := 448, batches := [], late := [] }).set 0 { boundary := 450, batches := [(448, [0])], late := [] }
    fails := [], runs := .replicate 8 0, exps := [], src := [1, 2], srcFail := none, dark := false, dst := 0x2000, ended := ended, tile := false
    out := [], blocked := none }

/-- SweutCollectiveRules: rendezvous at a station and at the leader, before and after JTMO; a withdrawal and its answer, with and without
a source that could not be read; a START at a station. -/
theorem witness_rendezvous :
    (let s := onBus .queued trained;
      let c := command .queued;
      descSeg c.desc = 2 ∧ (s.att 2).stn = 1 ∧ (s.att 2).up = true ∧ (s.att 2).leads = false ∧ s.swCmd 2 = some c ∧ c.phase = .queued
        ∧ (s.att 2).coll = none)
    ∧ (let x := { trained with lead := 1, groups := [rendezvous false] };
      let s := { onBus .joined x with cycle := 24000000 };
      let f := joinFields (BitVec.ofNat 256 descriptor);
      x.leads = true ∧ x.stn ≠ 2 ∧ x.groups.find? (fun r => r.first.group == f.group && !r.complete) = some (rendezvous false)
        ∧ (rendezvous false).first = f ∧ (rendezvous false).first ≠ { f with count := 1 } ∧ (rendezvous false).joined.getLsbD 2 = true
        ∧ (rendezvous false).joined.getLsbD 1 = false ∧ (rendezvous true).joined.getLsbD 1 = true
        ∧ (s.joinedFor 2 f.group).isSome = true
        ∧ x.groups.find? (fun r => r.first.group == f.group && decide (2400 * max 1 x.jtmo.toNat ≤ (s.cycle - r.since).toNat)) = some (rendezvous false)
        ∧ x.groups.find? (fun r => r.first.group == f.group && r.joined.getLsbD 2) = some (rendezvous false)
        ∧ ((x.groups.filter fun y => y != rendezvous false).find? fun y => y.first.group == f.group && !y.complete) = none)
    ∧ (let x := { trained with lead := 1, groups := [rendezvous true, { rendezvous true with since := 1, complete := false }] };
      ((x.groups.filter fun y => y != rendezvous true).find? fun y => y.first.group == (rendezvous true).first.group && !y.complete).isSome = true)
    ∧ ((onBus .joined trained).cycle - (rendezvous false).since).toNat < 2400 * max 1 trained.jtmo.toNat
    ∧ (let g := descGroup (BitVec.ofNat 256 descriptor);
      let s := onBus .joined { trained with withdrawing := some g };
      (s.att 2).withdrawing = some g ∧ s.joinedFor 2 g = some (command .joined) ∧ (command .joined).tile = false ∧ (s.att 2).early = none
        ∧ ((onBus .joined trained).att 2).withdrawing = none
        ∧ ((onBus .joined { trained with withdrawing := some g, early := some ([], some 0x14) }).att 2).early = some ([], some 0x14))
    ∧ (let g := descGroup (BitVec.ofNat 256 descriptor);
      let s := onBus .joined trained;
      (16 : BitVec 48).toNat % 8 = 0 ∧ (s.att 2).leads = false ∧ s.joinedFor 2 g = some (command .joined) ∧ (14 : BitVec 16).getLsbD (s.att 2).stn.toNat = true)
    ∧ (let x := { trained with lead := 1, groups := [rendezvous true] };
      x.groups.find? (fun r => r.first.group == (rendezvous true).first.group && r.complete) = some (rendezvous true) ∧ (rendezvous true).joined = 14
        ∧ x.busy = [] ∧ (((onBus .joined x).frame 2).toNat + 2 * x.acklag.toNat + 15) / 8 * 8 % 2 ^ 48 = 16) := by decide +kernel

/-- The same: an acknowledgement field whose frame has not come, one of a group that was read wrong, one of a group accepted, alone in its
batch and with another; the end, of this station's collective and of others'. -/
theorem witness_collective :
    ((collective none).blocked = none ∧ ((collective none).lane 0).batches = [(448, [0])])
    ∧ (let c := { collective none with lanes := (collective none).lanes.set 0 { boundary := 450, batches := [(448, [0, 1])], late := [3] } };
      c.nextField = some (448, 0, 0) ∧ (c.lane 0).batches = [(448, [0, 1])])
    ∧ (let x := { trained with busy := [(descGroup (BitVec.ofNat 256 descriptor), 0)] };
      let s := { onBus .joined x with cycle := 100 };
      (s.busNow 2).coll = none ∧ (s.busNow 2).busy = [(descGroup (BitVec.ofNat 256 descriptor), 0)] ∧ (s.frame 2 - 0).toNat < 2 ^ 47
        ∧ ((onBus .joined trained).busNow 2).busy = [])
    ∧
    (let s := onBus .started { trained with coll := some (collective none) };
      (s.busNow 2).coll = some (collective none) ∧ (collective none).nextField = some (448, 0, 0)
        ∧ (collective none).age (s.frame 2) < slotTime (448 + 1) / 64)
    ∧ (let s := { onBus .started { trained with coll := some (collective none) } with cycle := 100 };
      let c := collective none;
      let counts := List.replicate 16 [] ++ [[2, 0, 0]];
      let r := c.readGroup 0 counts [];
      (s.busNow 2).coll = some c ∧ slotTime (448 + 1) / 64 ≤ c.age (s.frame 2) ∧ r.bad (s.busNow 2).wlim.toNat c.fields.writers.toNat = false
        ∧ (c.readGroup 0 [] []).bad (s.busNow 2).wlim.toNat c.fields.writers.toNat = true
        ∧ (match (s.setAtt 2 (s.busNow 2)).writeResults (c.results 0 r) with
          | (_, l, e) => l.isEmpty && e.isNone) = true)
    ∧ (let x := { trained with coll := some (collective (some 0)), busy := [(descGroup (BitVec.ofNat 256 descriptor), 0)] };
      let s := { onBus .started x with cycle := 100 };
      (s.busNow 2).coll = some (collective (some 0)) ∧ (s.setAtt 2 (s.busNow 2)).collCmd 2 = some (command .started)
        ∧ s.tile.eng.held.get 1 = none ∧ (s.tile.eng.res.get 1).length < 8)
    ∧ ([2#3, 5#3].map BitVec.toInt).sum = -1 := by decide +kernel

/-- 48 bytes of a station's stream. -/
def streamOf (l : List Byte) : Stream := { on := 1, part := l.map fun b => (0, b) }

/-- SweutLinkRules: a flit in hand; wavelengths that can be retired and reinstated, now and later, and the last one; training and
retraining with and without a collective in progress; a launch delay that may be trimmed and one that may not; a segment that goes down. -/
theorem witness_link :
    (let x := { trained with streams := trained.streams.set 3 (streamOf (List.replicate 48 0)) };
      let s := onBus .joined x;
      let y := s.attNow 2;
      y.up = true ∧ (3 : BitVec 4) ≠ y.stn ∧ 48 ≤ (y.streams.get 3).part.length
        ∧ (List.finRange 8).all (fun i => decide ((y.waves.get i).bits + 384 < 2 ^ 24) && decide ((y.waves.get i).bere.toNat < y.berth.toNat)) = true
        ∧ (y.streams.get 4).part.length < 48 ∧ y.changes = [] ∧ y.actw.getLsbD 5 = true ∧ y.actw &&& ~~~((1 : BitVec 8) <<< 5) ≠ 0
        ∧ (s.frame 2 - 0).toNat < 2 ^ 47 ∧ ¬((s.frame 2 - 100).toNat < 2 ^ 47) ∧ y.busy = [])
    ∧ (let y := (onBus .joined { trained with actw := 0x20 }).attNow 2;
      y.actw.getLsbD 5 = true ∧ y.actw &&& ~~~((1 : BitVec 8) <<< 5) = 0 ∧ y.actw.getLsbD 4 = false ∧ y.up = true ∧ y.changes = [])
    ∧ (let s := onBus .joined { trained with busy := [(1, 0)] };
      (s.attNow 2).busy = [(1, 0)] ∧ (s.frame 2 - 0).toNat < 2 ^ 47 ∧ 2 ^ 47 ≤ (s.frame 2 - 100).toNat ∧ (s.att 2).up = true)
    ∧ (3 : BitVec 4) ≠ 0 ∧ 4 ≤ (4 : BitVec 4).toNat ∧ (0xFF : BitVec 8) ≠ 0 ∧ (0 : BitVec 4).toNat ≤ (1 : BitVec 4).toNat
    ∧ (let s := { onBus .joined trained with cycle := 240000000 };
      240000000 ≤ (s.cycle - ((s.att 2).waves.get 0).trimmed).toNat)
    ∧ ((onBus .joined trained).cycle - (((onBus .joined trained).att 2).waves.get 0).trimmed).toNat < 240000000
    ∧ (onBus .joined trained).swCmd 2 = some (command .joined) ∧ (command .joined).phase = .joined := by
  decide +kernel

/-- StartUpRules: failed starts in a row and none; a boot flash that cannot be read, and one that holds no image; a start timer that has
run out; BOOTOK that may be set; minimal mode with an empty recovery window; the package's identity, set and not. -/
theorem witness_startUp :
    (let s := user.setBoot { user.hub.boot with fscnt := 3 };
      s.hub.boot.fscnt = 3 ∧ user.hub.boot.fscnt ≠ 3 ∧ user.hub.boot.flashBad = false ∧ imageFault user.hub.boot.svn user.hub.boot.flash = some 0x02
        ∧ (user.setBoot { user.hub.boot with flashBad := true }).hub.boot.flashBad = true)
    ∧ (let s := { user.setBoot { user.hub.boot with timer := true } with cycle := 4800000001 };
      s.hub.boot.timer = true ∧ 4800000000 < (s.cycle - s.hub.boot.timerAt).toNat)
    ∧ user.hub.boot.timer = false ∧ user.mayBootok = false
    ∧ (let s := { user with hub := { user.hub with
          boot := { user.hub.boot with image := some (3, 0, []), pkgSet := true }, disc := .replicate 4 { Discovery.reset with done := true } } };
      s.mayBootok = true)
    ∧ user.hub.boot.mini = false ∧ user.hub.boot.pkgSet = false
    ∧ (let b := { user.hub.boot with mini := true, pkgSet := true, bootok := true, image := some (3, 0, []) };
      b.mini = true ∧ recoveryFault b.svn b.recov 4096 = some 0x02 ∧ b.pkgSet = true ∧ b.image = some (3, 0, []) ∧ b.bootok = true)
    ∧ user.hub.boot.device = none ∧ ({ user.hub.boot with device := some (keysOf 0 none), alias_ := some (keysOf 0 none) } : Boot).device.isSome = true := by
  decide +kernel

/-- SnapshotAndRegisterRules: triggers that are taken and that are not; a latch whose tick has come; a page that is pending in an access
counter with room in its queue, and none; registers in and out of minimal mode, locked and not. -/
theorem witness_registers :
    user.hub.snap.trig = false ∧ (0 : Word).toNat ≤ user.cycle.toNat ∧ user.cycle.toNat < (9 : Word).toNat ∧ user.hub.snap.pinEn = false
    ∧ (let s := user.setSnap { user.hub.snap with trig := true, pinEn := true, latchAt := some 0, armed := none };
      s.hub.snap.trig = true ∧ s.hub.snap.armed ≠ some s.cycle ∧ s.hub.snap.latchAt = some 0 ∧ (0 : Word).toNat ≤ s.cycle.toNat)
    ∧ (user.setSnap { user.hub.snap with pinEn := true }).hub.snap.pinEn = true
    ∧ (let e : AccEntry := { ctxid := 9, base := 0x1000, size := 0, count := 3, pending := true, notified := true };
      let u : AccUnit := { AccUnit.reset with entries := [e], order := [(9, 0x1000)], anqb := 0x4010000 };
      u.order = [(e.ctxid, e.base)] ∧ u.entries.find? (fun x => x.is e.ctxid e.base) = some e ∧ ({ u with head := 0 } : AccUnit).room = true
        ∧ e.base &&& 0x007FFFFFFFFFF000 = e.base)
    ∧ AccUnit.reset.order = [] ∧ user.hub.boot.mini = false ∧ user.hub.boot.lock = false
    ∧ (user.setBoot { user.hub.boot with mini := true }).hub.boot.mini = true ∧ (user.setBoot { user.hub.boot with lock := true }).hub.boot.lock = true
    ∧ (0x2000 : BitVec 24).toNat = 0x2000 + 16 * (0 : BitVec 4).toNat ∧ (0x20F0 : BitVec 24).toNat = 0x2000 + 16 * (15 : BitVec 4).toNat
    ∧ (0x10F00 : BitVec 24).toNat = 0x10000 + 0x100 * (15 : BitVec 4).toNat
    ∧ (0x401FC8 : BitVec 24).toNat = 0x100000 * ((3 : BitVec 2).toNat + 1) + 0x1008 + 0x40 * 63
    ∧ (0xFF8 : BitVec 24).toNat < 0x1000 ∧ (0xFF8 : BitVec 24).toNat ∉ [0x00, 0x08, 0x10, 0x18, 0x28, 0x30, 0x40] := by decide +kernel

/-- A die in discovery, with the agent at physical index 5. -/
def discovering (x : Discovery) : State := user.setDisc 0 { x with active := true, agent := 5 }

/-- DiscoveryRules, the start: the lowest agent with no fuse and with two, and one that is not the lowest; a fused tile that says so; a
reply within 1 ms and one after; a tile that is named after a packet. -/
theorem witness_discovery_start : (0 : BitVec 10) ∉ (user.disco 0).fuses ∧ (1 : BitVec 10) ∉ (user.disco 0).fuses ∧ (0 : BitVec 10).toNat < (1 : BitVec 10).toNat
    ∧ (let l := ((user.setDisc 0 { user.disco 0 with fuses := [0, 1] }).disco 0).fuses; 2 ∉ l ∧ (0 : BitVec 10) ∈ l ∧ 1 ∈ l)
    ∧ user.mem.wf = true ∧ (let x := { Discovery.reset with fuses := [6] }; (6 : BitVec 10) ∈ x.fuses ∧ (BitVec.ofNat 21 (6 + 2 ^ 10)).getLsbD 10 = true)
    ∧ 2400000 ≤ ((2400000 : Word) - Discovery.reset.fawnAt).toNat ∧ ¬2400000 ≤ ((2399999 : Word) - Discovery.reset.fawnAt).toNat
    ∧ (let x := { Discovery.reset with packets := [(0x40, 7, [])], coords := [(5, 0)] };
      x.packets ≠ [] ∧ x.coords.all (fun p => p.1 != 6) = true ∧ (discovering x).isPhys 0 6 = false) := by decide +kernel

/-- DiscoveryRules: a die in discovery and one that is not; before and after the fawn packet; a router that hears it and one that does
not; replies with room and without; dwords of a packet, the last of one that fits and of one that does not; the end, in time and late;
a multicast packet. -/
theorem witness_discovery :
    (user.disco 0).active = false ∧ user.isPhys 0 5 = false ∧ user.isPhys 0 0 = true ∧ user.tile.csr.pcoord.extractLsb' 10 2 = 0
    ∧ (let c := (discovering .reset).disco 0;
      c.active = true ∧ c.fawned = false ∧ c.queue = [])
    ∧ (let x := { Discovery.reset with fawned := true, heard := [5, 6], replied := [5] };
      let c := (discovering x).disco 0;
      c.fawned = true ∧ (5 : BitVec 10) ∈ c.heard ∧ (0 : BitVec 5) ++ (7 : BitVec 5) ∉ c.heard ∧ neighbours ((0 : BitVec 5) ++ (7 : BitVec 5)) 6 = true
        ∧ (6 : BitVec 10) ∉ c.replied ∧ (7 : BitVec 10) ∉ c.heard ∧ (5 : BitVec 10) ∈ c.replied)
    ∧ (let x := { Discovery.reset with partial_ := List.replicate 7 0, dmoff := 0x777C0 };
      x.partial_.length = 7 ∧ x.dmoff.toNat + 63 ≤ 0x777FF ∧ 0x777FF < ({ x with dmoff := 0x77800 } : Discovery).dmoff.toNat + 63)
    ∧ Discovery.reset.partial_.length < 7
    ∧ (let x := { Discovery.reset with fawned := true, replied := List.replicate 1024 0, fusedSeen := 32 };
      (0x20 : Word).getLsbD 11 = false ∧ x.replied.length = 1024 ∧ x.fusedSeen ≤ 32
        ∧ (user.cycle - x.since).toNat < 24000000)
    ∧ (let s := { user.setDisc 0 { Discovery.reset with active := true } with cycle := 24000000 };
      24000000 ≤ (s.cycle - (s.disco 0).since).toNat)
    ∧ (let s := user.setDisc 0 { Discovery.reset with active := true };
      s.isPhys 0 (s.disco 0).agent = true ∧ s.tile.front.ast ≠ .halted ∧ (s.disco 0).fawned = false ∧ (s.cycle - (s.disco 0).since).toNat < 24000000)
    ∧ (let x := { Discovery.reset with coords := [(5, 0)], packets := [(0x40, 7, [5, 6])], queue := [1], mesh := [2] };
      let c := (discovering x).disco 0;
      c.packets = [(0x40, 7, [5, 6])] ∧ (5 : BitVec 10) ∈ [5, 6] ∧ c.coords.find? (fun p => p.1 == 5) = some (5, 0) ∧ c.queue = [1] ∧ c.mesh = [2])
    ∧ Discovery.reset.mesh = [] ∧ Discovery.reset.queue = [] := by decide +kernel

/-- The digest of "abc" that FIPS 180-4's examples give (R392, log 60). -/
theorem test_sha384_abc : sha384 [0x61, 0x62, 0x63]
    = 0xcb00753f45a35e8bb5a03d699ac65007272c32ab0eded1631a8b605a43ff5bed8086072ba1e7cc2358baeca134c825a7 := by decide +kernel

/-- EncodeThenDecode, DecodeThenEncode, StepRunsDecoded, EveryStepAnswersCanonically: a well-formed instruction, words below 2^32, a
tile to which nothing is presented and whose next bundle can be fetched, and reset. -/
theorem witness_steps : (Instr.addi ⟨0, 0⟩ 5 5 (.fld 64)).wf = true ∧ (0x00629440 : Nat) < 2 ^ 32
    ∧ (Instr.nop ⟨0, 0⟩).wf = true ∧ (0 : Nat) < 2 ^ 32
    ∧ user.inputs = [] ∧ user.tile.csr.snapArmed = false ∧ user.hub.snap.latchAt = none ∧ user.tile.power.state = .run
    ∧ user.tile.front.ahead = [] ∧ user.hub.errors.bad = [] ∧ user.fetchPlace user.tile.front.apc = .mem 0 none
    ∧ State.reset.mem.wf = true ∧ user.sleeps = false ∧ user.asyncNow = false ∧ user.tile.wait ≠ .release ∧ user.conflictNow = false
    ∧ user.atHandler = false ∧ user.loopPending = false ∧ user.dwt = false ∧ user.commitStalls = false ∧ user.tile.res.rejected = none
    ∧ (user.latched 0x0000000300000005).tile.front.latch.isSome = true ∧ user.forced = none ∧ user.doings ≠ []
    ∧ (let s := ((user.setPower { user.tile.power with state := .gated, polled := false }).setWait (.sleep false false true none)).setFront
        { user.tile.front with ast := .asleep };
      s.sleeps = true ∧ s.settle.looks = true)
    ∧ (let s := ((user.setPower { user.tile.power with state := .gated, polled := true }).setWait (.sleep false false false none)).setFront
        { user.tile.front with ast := .asleep };
      s.sleeps = true ∧ s.settle.looks = false ∧ s.settle.mayGate = false) := by decide +kernel

/-- The memories of reset are in canonical form. -/
theorem witness_canonical : State.reset.canonical := by unfold State.canonical; decide +kernel

end Sys2Proof.Tests
end

section
/-!
PROOFS. Registers read back what was written (R15).
-/

namespace Sys2Proof.Machine

/-! ### General registers -/

@[simp] theorem g_zero (s : State) : s.g 0 = 0 := rfl

/-- A general register other than g0 reads its place of the file. -/
theorem g_of_ne_zero (s : State) {r : BitVec 5} (h : r ≠ 0) : s.g r = s.tile.regs.g.get r.toFin := if_neg h

@[simp] theorem setG_zero (s : State) (x : Word) : s.setG 0 x = s := rfl

/-- The file after a write of a register other than g0. -/
theorem setG_of_ne_zero (s : State) {r : BitVec 5} (h : r ≠ 0) (x : Word) :
    s.setG r x = s.setRegs { s.tile.regs with g := s.tile.regs.g.set r.toNat x r.isLt } := if_neg h

theorem g_setG_self (s : State) {r : BitVec 5} (h : r ≠ 0) (x : Word) : (s.setG r x).g r = x := by
  rw [g_of_ne_zero _ h, setG_of_ne_zero s h]
  exact get_set_self _ r.toFin x

theorem g_setG_ne (s : State) {r r' : BitVec 5} (h : r ≠ r') (x : Word) : (s.setG r x).g r' = s.g r' := by
  by_cases hr : r = 0
  · rw [hr, setG_zero]
  by_cases hr' : r' = 0
  · rw [hr', g_zero, g_zero]
  · rw [g_of_ne_zero _ hr', g_of_ne_zero _ hr', setG_of_ne_zero s hr]
    exact get_set_ne _ x fun e => h (BitVec.toFin_inj.1 e).symm

/-! ### Predicates -/

@[simp] theorem putPred_zero (byte : BitVec 8) (b : Bool) : putPred byte 0 b = byte := rfl

/-- The mask of a predicate has its bit alone. -/
theorem getLsbD_one_shiftLeft (i j : BitVec 3) : ((1 : BitVec 8) <<< i.toNat).getLsbD j.toNat = decide (j = i) := by
  revert i j; decide

/-- A bit of a predicate byte after a write of a predicate other than the constant one. -/
theorem getLsbD_putPred (byte : BitVec 8) {i : BitVec 3} (h : i ≠ 0) (j : BitVec 3) (b : Bool) :
    (putPred byte i b).getLsbD j.toNat = if j = i then b else byte.getLsbD j.toNat := by
  have hj : j.toNat < 8 := j.isLt
  rw [putPred, if_neg h, BitVec.getLsbD_or, BitVec.getLsbD_and, BitVec.getLsbD_not, getLsbD_one_shiftLeft]
  cases b with
  | true => rw [if_pos rfl, getLsbD_one_shiftLeft]; by_cases e : j = i <;> simp [hj, e]
  | false => by_cases e : j = i <;> simp [hj, e]

@[simp] theorem p_zero (s : State) : s.p 0 = true := rfl
@[simp] theorem q_zero (s : State) : s.q 0 = true := rfl

theorem p_setP_self (s : State) {i : BitVec 3} (h : i ≠ 0) (b : Bool) : (s.setP i b).p i = b := by
  simp only [State.p, State.setP, setRegs_tile_regs, getLsbD_putPred _ h, if_true, beq_false_of_ne h, Bool.false_or]

theorem q_setQ_self (s : State) {i : BitVec 3} (h : i ≠ 0) (b : Bool) : (s.setQ i b).q i = b := by
  simp only [State.q, State.setQ, setRegs_tile_regs, getLsbD_putPred _ h, if_true, beq_false_of_ne h, Bool.false_or]

/-- A write of a predicate leaves the other bits of its byte. -/
theorem getLsbD_putPred_ne (byte : BitVec 8) {i j : BitVec 3} (h : i ≠ j) (b : Bool) :
    (putPred byte i b).getLsbD j.toNat = byte.getLsbD j.toNat := by
  by_cases hi : i = 0
  · rw [hi, putPred_zero]
  · rw [getLsbD_putPred _ hi, if_neg h.symm]

theorem p_setP_ne (s : State) {i j : BitVec 3} (h : i ≠ j) (b : Bool) : (s.setP i b).p j = s.p j := by
  simp [State.p, State.setP, getLsbD_putPred_ne _ h]

theorem q_setQ_ne (s : State) {i j : BitVec 3} (h : i ≠ j) (b : Bool) : (s.setQ i b).q j = s.q j := by
  simp [State.q, State.setQ, getLsbD_putPred_ne _ h]

/-- Settles O4: by the read-back rules of the registers and of the predicate bytes. -/
theorem registersReadBack : Obligations.RegistersReadBack := by
  intro s r r' x i i' b
  exact ⟨g_zero s, setG_zero s x, fun h => g_setG_self s h x, fun h => g_setG_ne s h x, p_zero s, q_zero s,
    fun h => ⟨p_setP_self s h b, q_setQ_self s h b⟩, fun h => ⟨p_setP_ne s h b, q_setQ_ne s h b⟩, rfl, rfl⟩

end Sys2Proof.Machine
end

section
/-!
PROOFS. Runs of dwords and of rows read back, and the workspace reads back what was written there (R14, R19).
-/

namespace Sys2Proof.Machine

/-! ### Dwords and rows of memory -/

/-- Two memories that agree on a dword's bytes read the same dword. -/
theorem Memory.readWord_congr {m m' : Memory} {x : Nat} (h : ∀ z, x ≤ z → z < x + 8 → m.read z = m'.read z) :
    m.readWord x = m'.readWord x := by
  unfold Memory.readWord; rw [Memory.readNat_congr h]

/-- Two memories that agree on a row's bytes read the same row. -/
theorem Memory.readRow_congr {m m' : Memory} {x : Nat} (h : ∀ z, x ≤ z → z < x + 64 → m.read z = m'.read z) :
    m.readRow x = m'.readRow x := by
  unfold Memory.readRow; rw [Memory.readNat_congr h]

/-- A run of dwords reads back. -/
theorem Memory.readWord_writeWords (m : Memory) (x : Nat) (l : List Word) (i : Nat) (hi : i < l.length) :
    (m.writeWords x l).readWord (x + 8 * i) = l[i] := by
  induction l generalizing m x i with
  | nil => exact absurd hi (Nat.not_lt_zero i)
  | cons w l ih =>
    unfold Memory.writeWords
    cases i with
    | zero =>
      rw [Memory.readWord_congr fun z h1 h2 => Memory.read_writeWords_of_outside _ _ l (.inl (by omega))]
      exact Memory.readWord_writeWord m x w
    | succ i =>
      rw [show x + 8 * (i + 1) = x + 8 + 8 * i by omega]
      exact ih _ _ i (Nat.lt_of_succ_lt_succ hi)

/-- A row reads back. -/
theorem Memory.readRow_writeNat (m : Memory) (x : Nat) (r : Row) : (m.writeNat x 64 r.toNat).readRow x = r := by
  have hr : r.toNat < 256 ^ 64 := by rw [show (256 : Nat) = 2 ^ 8 from rfl, ← Nat.pow_mul, show 8 * 64 = 512 from rfl]; exact r.isLt
  unfold Memory.readRow
  rw [Memory.readNat_writeNat, Nat.mod_eq_of_lt hr, BitVec.ofNat_toNat, BitVec.setWidth_eq]

/-- Rows written leave every byte outside them alone. -/
theorem read_writeVs_of_outside (m : Memory) (x : Nat) (l : List Row) {z : Nat} (hz : z < x ∨ x + 64 * l.length ≤ z) :
    (writeVs m x l).read z = m.read z := by
  induction l generalizing m x with
  | nil => rfl
  | cons r l ih =>
    rw [List.length_cons] at hz
    unfold writeVs
    rw [ih _ _ (by omega), Memory.read_writeNat_of_outside _ _ _ _ (by omega)]

/-- A run of rows reads back. -/
theorem readRow_writeVs (m : Memory) (x : Nat) (l : List Row) (i : Nat) (hi : i < l.length) :
    (writeVs m x l).readRow (x + 64 * i) = l[i] := by
  induction l generalizing m x i with
  | nil => exact absurd hi (Nat.not_lt_zero i)
  | cons r l ih =>
    unfold writeVs
    cases i with
    | zero =>
      rw [Memory.readRow_congr fun z h1 h2 => read_writeVs_of_outside _ _ l (.inl (by omega))]
      exact Memory.readRow_writeNat m x r
    | succ i =>
      rw [show x + 64 * (i + 1) = x + 64 + 64 * i by omega]
      exact ih _ _ i (Nat.lt_of_succ_lt_succ hi)

/-- Zero bytes read as zero. -/
theorem Memory.read_writeNat_zero (m : Memory) (x n : Nat) {z : Nat} (h1 : x ≤ z) (h2 : z < x + n) :
    (m.writeNat x n 0).read z = 0 := by
  induction n generalizing m x with
  | zero => omega
  | succ n ih =>
    unfold Memory.writeNat
    rw [Nat.zero_div]
    by_cases hz : z = x
    · rw [Memory.read_writeNat_of_outside _ _ _ _ (by omega), Memory.read_write, if_pos hz]; rfl
    · exact ih _ _ (by omega) (by omega)

/-! ### The general registers of a workspace -/

theorem read_writeGs_of_outside (m : Memory) (b : Nat) (g : Vector Word 32) {z : Nat} (hz : z < b + 8 ∨ b + 0x100 ≤ z) :
    (writeGs m b g).read z = m.read z := Memory.read_writeWords_of_outside _ _ _ (by simp; omega)

/-- A general register's slot holds its place of the file. -/
theorem readWord_writeGs (m : Memory) (b : Nat) (g : Vector Word 32) {r : BitVec 5} (hr : r ≠ 0) :
    (writeGs m b g).readWord (b + 8 * r.toNat) = g.get r.toFin := by
  have hpos : r.toNat ≠ 0 := fun h => hr (BitVec.eq_of_toNat_eq h)
  have hlt : r.toNat < 32 := r.isLt
  rw [writeGs, show b + 8 * r.toNat = b + 8 + 8 * (r.toNat - 1) by omega, Memory.readWord_writeWords _ _ _ _ (by simp; omega),
    Vector.get_eq_getElem]
  simp [show r.toNat - 1 + 1 = r.toNat by omega]

/-! ### What depends on a part of the tile alone -/

theorem g_congr {s t : State} (h : t.tile.regs = s.tile.regs) (r : BitVec 5) : t.g r = s.g r := by
  unfold State.g; rw [h]

theorem v_congr {s t : State} (h : t.tile.regs = s.tile.regs) (r : BitVec 4) : t.v r = s.v r := by
  unfold State.v; rw [h]

theorem ownAddr_congr {s t : State} (hc : t.tile.csr.coord = s.tile.csr.coord) (hu : t.tile.res.unnamed = s.tile.res.unnamed)
    (off : Nat) : t.ownAddr off = s.ownAddr off := by
  unfold State.ownAddr State.own; rw [hc, hu]

/-! ### Writing the registers back (R19) -/

/-- Writing the registers back changes memory alone. -/
theorem writeBack_eq_setMem (s : State) (ws : Nat) : s.writeBack ws = s.setMem (s.writeBack ws).mem := rfl

/-- Writing the registers back leaves g0's slot, the reserved bytes, the progress words and every byte outside the workspace. -/
theorem writeBack_read_of_outside (s : State) (ws : Nat) {z : Nat} (hz : z < s.ownAddr ws + 8 ∨ s.ownAddr ws + 0x502 ≤ z) :
    (s.writeBack ws).mem.read z = s.mem.read z := by
  simp only [State.writeBack, setMem_mem]
  rw [Memory.read_write, if_neg (by omega), Memory.read_write, if_neg (by omega),
    read_writeVs_of_outside _ _ _ (by simp; omega), read_writeGs_of_outside _ _ _ (by omega)]

/-- Each general register is in its slot. -/
theorem writeBack_readG (s : State) (ws : Nat) {r : BitVec 5} (hr : r ≠ 0) :
    (s.writeBack ws).mem.readWord (s.ownAddr ws + 8 * r.toNat) = s.g r := by
  have hlt : r.toNat < 32 := r.isLt
  rw [g_of_ne_zero s hr, ← readWord_writeGs s.mem (s.ownAddr ws) s.tile.regs.g hr]
  refine Memory.readWord_congr fun z h1 h2 => ?_
  simp only [State.writeBack, setMem_mem]
  rw [Memory.read_write, if_neg (by omega), Memory.read_write, if_neg (by omega), read_writeVs_of_outside _ _ _ (.inl (by omega))]

/-- Each vector register is in its slot. -/
theorem writeBack_readV (s : State) (ws : Nat) (r : BitVec 4) :
    (s.writeBack ws).mem.readRow (s.ownAddr ws + 0x100 + 64 * r.toNat) = s.v r := by
  have hlt : r.toNat < 16 := r.isLt
  have hv : s.v r = s.tile.regs.v.toList[r.toNat]'(by simpa using hlt) := by simp [State.v, Vector.get_eq_getElem]
  rw [hv, ← readRow_writeVs (writeGs s.mem (s.ownAddr ws) s.tile.regs.g) (s.ownAddr ws + 0x100)]
  refine Memory.readRow_congr fun z h1 h2 => ?_
  simp only [State.writeBack, setMem_mem]
  rw [Memory.read_write, if_neg (by omega), Memory.read_write, if_neg (by omega)]

theorem writeBack_readP (s : State) (ws : Nat) : (s.writeBack ws).mem.read (s.ownAddr ws + 0x500) = (s.tile.regs.p ||| 1) := by
  simp only [State.writeBack, setMem_mem]
  rw [Memory.read_write, if_neg (by omega), Memory.read_write, if_pos rfl]

theorem writeBack_readQ (s : State) (ws : Nat) : (s.writeBack ws).mem.read (s.ownAddr ws + 0x501) = (s.tile.regs.q ||| 1) := by
  simp only [State.writeBack, setMem_mem]
  rw [Memory.read_write, if_pos rfl]

/-- The dwords above the predicates stay. -/
theorem writeBack_readWord_above (s : State) (ws : Nat) {x : Nat} (hx : s.ownAddr ws + 0x502 ≤ x) :
    (s.writeBack ws).mem.readWord x = s.mem.readWord x :=
  Memory.readWord_congr fun _ h1 _ => writeBack_read_of_outside s ws (.inr (by omega))

/-! ### Taking the registers of a workspace -/

section
variable (s : State) (ws : Nat)

@[simp] theorem loadRegs_mem : (s.loadRegs ws).mem = s.mem := by simp only [State.loadRegs, setRegs_mem]
@[simp] theorem loadRegs_tile_matrix : (s.loadRegs ws).tile.matrix = s.tile.matrix := by
  simp only [State.loadRegs, setRegs_tile_matrix]
@[simp] theorem loadRegs_tile_ports : (s.loadRegs ws).tile.ports = s.tile.ports := by
  simp only [State.loadRegs, setRegs_tile_ports]
@[simp] theorem loadRegs_tile_ctx : (s.loadRegs ws).tile.ctx = s.tile.ctx := by
  simp only [State.loadRegs, setRegs_tile_ctx]
@[simp] theorem loadRegs_tile_csr : (s.loadRegs ws).tile.csr = s.tile.csr := by
  simp only [State.loadRegs, setRegs_tile_csr]
@[simp] theorem loadRegs_tile_front : (s.loadRegs ws).tile.front = s.tile.front := by
  simp only [State.loadRegs, setRegs_tile_front]
@[simp] theorem loadRegs_tile_eng : (s.loadRegs ws).tile.eng = s.tile.eng := by
  simp only [State.loadRegs, setRegs_tile_eng]
@[simp] theorem loadRegs_regs_c : (s.loadRegs ws).tile.regs.c = s.tile.regs.c := by
  simp only [State.loadRegs, setRegs_tile_regs]
@[simp] theorem loadRegs_regs_h : (s.loadRegs ws).tile.regs.h = s.tile.regs.h := by
  simp only [State.loadRegs, setRegs_tile_regs]
@[simp] theorem loadRegs_regs_acc : (s.loadRegs ws).tile.regs.acc = s.tile.regs.acc := by
  simp only [State.loadRegs, setRegs_tile_regs]
@[simp] theorem loadRegs_regs_m : (s.loadRegs ws).tile.regs.m = s.tile.regs.m := by
  simp only [State.loadRegs, setRegs_tile_regs]

/-- A general register is taken from its slot. -/
theorem loadRegs_g {r : BitVec 5} (hr : r ≠ 0) :
    (s.loadRegs ws).g r = s.mem.readWord (s.ownAddr ws + 8 * r.toNat) := by
  have hpos : r.toFin.val ≠ 0 := fun h => hr (BitVec.eq_of_toNat_eq h)
  rw [g_of_ne_zero _ hr, Vector.get_eq_getElem]
  simp only [State.loadRegs, setRegs_tile_regs, Vector.getElem_ofFn, hpos, if_false]
  rfl

end

end Sys2Proof.Machine
end

section
/-!
PROOFS. Taking a trap (R35, R36): what it gives up, what it saves, and where the tile goes.
-/

namespace Sys2Proof.Machine

/-! ### What a trap gives up first -/

/-- A trigger of a package snapshot changes the snapshot unit alone. -/
theorem packageTrigger_eq (s : State) (at_ : Word) : ∃ n : Snap, s.packageTrigger at_ = s.setSnap n := by
  unfold State.packageTrigger
  dsimp only
  split
  · exact ⟨s.hub.snap, rfl⟩
  · exact ⟨_, rfl⟩

/-- So does a trap that triggers one (R395). -/
theorem trapTrigger_eq (s : State) (cause : BitVec 8) : ∃ n : Snap, s.trapTrigger cause = s.setSnap n := by
  unfold State.trapTrigger
  split
  · exact packageTrigger_eq s _
  · exact ⟨s.hub.snap, rfl⟩

/-- With no wait there is none to abandon. -/
theorem dropWait_of_idle {s : State} (h : s.tile.wait = .idle) : s.dropWait = s := by
  have hs : s.setWait .idle = s := by rw [← h]; rfl
  unfold State.dropWait
  rw [h]
  exact hs

/-- An ordered operation given up leaves the bindings, which change only where there was one, and nothing to perform. -/
theorem dropOrdered_eq (s : State) : ∃ p : Ports, (s.tile.front.ordered = none → p = s.tile.ports) ∧
    s.dropOrdered = (s.setPorts p).setFront { s.tile.front with ordered := none } := by
  cases h : s.tile.front.ordered with
  | some o => exact ⟨{ s.tile.ports with acc := s.tile.ports.exe }, nofun, by rw [State.dropOrdered, h]; rfl⟩
  | none =>
    refine ⟨s.tile.ports, fun _ => rfl, ?_⟩
    have hs : s.dropOrdered = s := by rw [State.dropOrdered, h]; rfl
    rw [hs, ← h]
    rfl

/-- The tile with the snapshot unit `n`, the bindings `p` and no ordered operation. -/
def State.unordered (s : State) (n : Snap) (p : Ports) : State :=
  ((s.setSnap n).setPorts p).setFront { s.tile.front with ordered := none }

/-- What a trap gives up of a tile that does not wait. -/
theorem trapTrigger_drop_eq {s : State} (h : s.tile.wait = .idle) (cause : BitVec 8) : ∃ n p,
    (s.tile.front.ordered = none → p = s.tile.ports) ∧ s.trapTrigger cause = s.setSnap n
      ∧ (s.setSnap n).dropWait.dropOrdered = s.unordered n p := by
  obtain ⟨n, hn⟩ := trapTrigger_eq s cause
  obtain ⟨p, hp, hd⟩ := dropOrdered_eq (s.setSnap n)
  refine ⟨n, p, hp, hn, ?_⟩
  rw [dropWait_of_idle (s := s.setSnap n) h, hd]
  rfl

/-! ### STATUS -/

/-- The code of a half state has three bits (Table 1.1). -/
theorem halfCode_eq_setWidth (h : HalfState) : halfCode h = ((halfCode h).setWidth 3).setWidth 64 := by
  cases h <;> rfl

theorem getLsbD_halfCode_of_ge (h : HalfState) {i : Nat} (hi : 3 ≤ i) : (halfCode h).getLsbD i = false := by
  rw [halfCode_eq_setWidth, BitVec.getLsbD_setWidth, BitVec.getLsbD_of_ge _ _ hi, Bool.and_false]

/-- FH stands in bit 4 alone. -/
theorem getLsbD_faultingHalf (fh : Bool) {i : Nat} (hi : i < 64) :
    (((if fh then 1 else 0) <<< 4 : Nat) : Word).getLsbD i = (fh && decide (i = 4)) := by
  have h : ∀ j : Fin 64, (((1 <<< 4 : Nat) : Word)).getLsbD j = decide (j.val = 4) := by decide
  cases fh with
  | false => exact BitVec.getLsbD_zero
  | true => exact h ⟨i, hi⟩

/-- The image of STATUS bit by bit (Table 1.10). -/
theorem getLsbD_statusImage (s : State) (fh : Bool) {i : Nat} (hi : i < 64) : (s.statusImage fh).getLsbD i =
    (s.tile.csr.status.getLsbD i && statusMask.getLsbD i || (fh && decide (i = 4))
      || (!decide (i < 8) && (halfCode s.tile.front.ast).getLsbD (i - 8))
      || (!decide (i < 12) && (halfCode s.tile.front.xst).getLsbD (i - 12))) := by
  simp only [State.statusImage, BitVec.getLsbD_or, BitVec.getLsbD_and, getLsbD_faultingHalf fh hi, BitVec.getLsbD_shiftLeft, hi,
    decide_true, Bool.true_and]

/-- The HALF word of R35: the low half of the image of STATUS. -/
def State.halfWord (s : State) (fh : Bool) : Word := s.statusImage fh &&& 0xFFFFFFFF

theorem getLsbD_halfWord (s : State) (fh : Bool) {i : Nat} (hi : i < 32) : (s.halfWord fh).getLsbD i = (s.statusImage fh).getLsbD i := by
  have h : ∀ j : Fin 32, (0xFFFFFFFF : Word).getLsbD j = true := by decide
  rw [State.halfWord, BitVec.getLsbD_and, h ⟨i, hi⟩, Bool.and_true]

/-- The flags of the HALF word: MODE, IE, DWT, the reserved bit 3, FH, DET and CPH. -/
theorem halfWord_flags (s : State) (fh : Bool) : (s.halfWord fh).getLsbD 0 = s.sup ∧ (s.halfWord fh).getLsbD 1 = s.ie
    ∧ (s.halfWord fh).getLsbD 2 = s.dwt ∧ (s.halfWord fh).getLsbD 3 = false ∧ (s.halfWord fh).getLsbD 4 = fh
    ∧ (s.halfWord fh).getLsbD 5 = s.det ∧ (s.halfWord fh).getLsbD 6 = s.cph := by
  refine ⟨?_, ?_, ?_, ?_, ?_, ?_, ?_⟩ <;> rw [getLsbD_halfWord _ _ (by omega), getLsbD_statusImage _ _ (by omega)] <;>
    simp [statusMask, State.sup, State.ie, State.dwt, State.det, State.cph]

/-- AST stands in bits [11:8] of the HALF word. -/
theorem halfWord_ast (s : State) (fh : Bool) : (s.halfWord fh).extractLsb' 8 4 = (halfCode s.tile.front.ast).setWidth 4 := by
  refine BitVec.eq_of_getLsbD_eq fun i hi => ?_
  have hm : statusMask.getLsbD (8 + i) = false := (by decide : ∀ j : Fin 4, statusMask.getLsbD (8 + j) = false) ⟨i, hi⟩
  rw [BitVec.getLsbD_extractLsb', BitVec.getLsbD_setWidth, getLsbD_halfWord _ _ (by omega), getLsbD_statusImage _ _ (by omega), hm]
  simp [show 8 + i ≠ 4 by omega, show 8 + i < 12 by omega]

/-- XST stands in bits [15:12] of the HALF word. -/
theorem halfWord_xst (s : State) (fh : Bool) : (s.halfWord fh).extractLsb' 12 4 = (halfCode s.tile.front.xst).setWidth 4 := by
  refine BitVec.eq_of_getLsbD_eq fun i hi => ?_
  have hm : statusMask.getLsbD (12 + i) = false := (by decide : ∀ j : Fin 4, statusMask.getLsbD (12 + j) = false) ⟨i, hi⟩
  rw [BitVec.getLsbD_extractLsb', BitVec.getLsbD_setWidth, getLsbD_halfWord _ _ (by omega), getLsbD_statusImage _ _ (by omega), hm,
    getLsbD_halfCode_of_ge s.tile.front.ast (show 3 ≤ 12 + i - 8 by omega)]
  simp [show 12 + i ≠ 4 by omega]

theorem leaveGang_status (s : State) : s.leaveGang.tile.csr.status = s.tile.csr.status &&& ~~~(0x7F0000 : Word) := rfl

/-- Below bit 16, leaving a gang changes no bit of STATUS. -/
theorem getLsbD_leaveGang_status (s : State) {i : Nat} (hi : i < 16) :
    s.leaveGang.tile.csr.status.getLsbD i = s.tile.csr.status.getLsbD i := by
  have hm : (~~~(0x7F0000 : Word)).getLsbD i = true := (by decide : ∀ j : Fin 16, (~~~(0x7F0000 : Word)).getLsbD j = true) ⟨i, hi⟩
  rw [leaveGang_status, BitVec.getLsbD_and, hm, Bool.and_true]

/-- Behind the half states, the HALF word of a tile in no gang is zero. -/
theorem halfWord_leaveGang_high (s : State) (fh : Bool) : (s.leaveGang.halfWord fh).extractLsb' 16 48 = 0 := by
  refine BitVec.eq_of_getLsbD_eq fun i hi => Eq.trans ?_ BitVec.getLsbD_zero.symm
  rw [BitVec.getLsbD_extractLsb']
  by_cases hlow : i < 16
  · have hm : ((~~~(0x7F0000 : Word)).getLsbD (16 + i) && statusMask.getLsbD (16 + i)) = false :=
      (by decide : ∀ j : Fin 16, ((~~~(0x7F0000 : Word)).getLsbD (16 + j) && statusMask.getLsbD (16 + j)) = false) ⟨i, hlow⟩
    rw [getLsbD_halfWord _ _ (by omega), getLsbD_statusImage _ _ (by omega), leaveGang_status, BitVec.getLsbD_and, Bool.and_assoc, hm,
      getLsbD_halfCode_of_ge _ (show 3 ≤ 16 + i - 8 by omega), getLsbD_halfCode_of_ge _ (show 3 ≤ 16 + i - 12 by omega)]
    simp [show 16 + i ≠ 4 by omega]
  · have hm := (by decide : ∀ j : Fin 32, (0xFFFFFFFF : Word).getLsbD (32 + j) = false) ⟨i - 16, by omega⟩
    simp only [show 32 + (i - 16) = 16 + i by omega] at hm
    rw [State.halfWord, BitVec.getLsbD_and, hm, Bool.and_false, Bool.and_false]

/-- STATUS as the handler finds it (R35): supervisor mode with IE and DWT clear. -/
def handlerStatus (w : Word) : Word := (w &&& ~~~(0x7 : Word)) ||| 1

/-- The handler finds every bit of STATUS above DWT as it was. -/
theorem getLsbD_handlerStatus (w : Word) {i : Nat} (h3 : 3 ≤ i) (hi : i < 64) : (handlerStatus w).getLsbD i = w.getLsbD i := by
  have hm : ∀ j : Fin 61, (~~~(0x7 : Word)).getLsbD (3 + j) = true ∧ (1 : Word).getLsbD (3 + j) = false := by decide
  have hj := hm ⟨i - 3, by omega⟩
  simp only [show 3 + (i - 3) = i by omega] at hj
  rw [handlerStatus, BitVec.getLsbD_or, BitVec.getLsbD_and, hj.1, hj.2, Bool.and_true, Bool.or_false]

theorem handlerStatus_mode (w : Word) : (handlerStatus w).getLsbD 0 = true ∧ (handlerStatus w).getLsbD 1 = false
    ∧ (handlerStatus w).getLsbD 2 = false := by
  simp [handlerStatus]

/-- A tile that has left its gang has no role in one. -/
theorem leaveGang_grole (s : State) : s.leaveGang.grole = 0 := by
  have hm : ∀ j : Fin 2, (~~~(0x7F0000 : Word)).getLsbD (16 + j) = false := by decide
  refine BitVec.eq_of_getLsbD_eq fun i hi => Eq.trans ?_ BitVec.getLsbD_zero.symm
  rw [State.grole, BitVec.getLsbD_extractLsb', leaveGang_status, BitVec.getLsbD_and, hm ⟨i, hi⟩, Bool.and_false, Bool.and_false]

/-! ### Saving the context in its workspace (R14, R35) -/

/-- The progress words as a trap of the half `fh` saves them, from offset 0x508 (Table 1.2). -/
def State.progressWords (s : State) (fh : Bool) : List Word :=
  [s.tile.front.apc, s.xpc, s.tile.front.loop.word, s.tile.front.loop.lbeg, s.tile.front.rpt.word, s.halfWord fh]

@[simp] theorem length_progressWords (s : State) (fh : Bool) : (s.progressWords fh).length = 6 := rfl

/-- Memory with the progress words and the zero of the reserved bytes in the workspace at WP. -/
def State.saveProgress (s : State) (fh : Bool) : State :=
  s.setMem ((s.mem.writeWords (s.ownAddr (wsOffset s.tile.csr.wp) + 0x508) (s.progressWords fh)).writeNat
    (s.ownAddr (wsOffset s.tile.csr.wp) + 0x502) 6 0)

/-- Memory with the whole workspace at WP saved. -/
def State.saveWorkspace (s : State) (fh : Bool) : State := (s.saveProgress fh).writeBack (wsOffset s.tile.csr.wp)

@[simp] theorem saveProgress_tile (s : State) (fh : Bool) : (s.saveProgress fh).tile = s.tile := by rw [State.saveProgress, setMem_tile]

@[simp] theorem saveWorkspace_tile (s : State) (fh : Bool) : (s.saveWorkspace fh).tile = s.tile := by
  rw [State.saveWorkspace, writeBack_eq_setMem, setMem_tile, saveProgress_tile]

@[simp] theorem saveProgress_ownAddr (s : State) (fh : Bool) (off : Nat) : (s.saveProgress fh).ownAddr off = s.ownAddr off :=
  ownAddr_congr (by rw [saveProgress_tile]) (by rw [saveProgress_tile]) off

@[simp] theorem saveWorkspace_ownAddr (s : State) (fh : Bool) (off : Nat) : (s.saveWorkspace fh).ownAddr off = s.ownAddr off :=
  ownAddr_congr (by rw [saveWorkspace_tile]) (by rw [saveWorkspace_tile]) off

/-- Each progress word is in its place. -/
theorem saveWorkspace_progress (s : State) (fh : Bool) (i : Nat) {x : Nat} (hx : x = s.ownAddr (wsOffset s.tile.csr.wp) + 0x508 + 8 * i)
    (hi : i < (s.progressWords fh).length) : (s.saveWorkspace fh).mem.readWord x = (s.progressWords fh)[i] := by
  rw [hx, State.saveWorkspace, writeBack_readWord_above _ _ (by rw [saveProgress_ownAddr]; omega),
    ← Memory.readWord_writeWords s.mem (s.ownAddr (wsOffset s.tile.csr.wp) + 0x508) (s.progressWords fh) i hi,
    State.saveProgress, setMem_mem]
  exact Memory.readWord_congr fun z h1 h2 => Memory.read_writeNat_of_outside _ _ _ _ (.inr (by omega))

/-- The progress words at their offsets (Table 1.2). -/
theorem saveWorkspace_readWord (s : State) (fh : Bool) :
    let m := (s.saveWorkspace fh).mem
    let ws := s.ownAddr (wsOffset s.tile.csr.wp)
    m.readWord (ws + 0x508) = s.tile.front.apc ∧ m.readWord (ws + 0x510) = s.xpc
      ∧ m.readWord (ws + 0x518) = s.tile.front.loop.word ∧ m.readWord (ws + 0x520) = s.tile.front.loop.lbeg
      ∧ m.readWord (ws + 0x528) = s.tile.front.rpt.word ∧ m.readWord (ws + 0x530) = s.halfWord fh := by
  intro m ws
  have word := saveWorkspace_progress s fh
  exact ⟨word 0 (by omega) (by simp), word 1 (by omega) (by simp), word 2 (by omega) (by simp), word 3 (by omega) (by simp),
    word 4 (by omega) (by simp), word 5 (by omega) (by simp)⟩

/-- The reserved bytes are zero. -/
theorem saveWorkspace_reserved (s : State) (fh : Bool) (i : Nat) (hi : i < 6) :
    (s.saveWorkspace fh).mem.read (s.ownAddr (wsOffset s.tile.csr.wp) + 0x502 + i) = 0 := by
  rw [State.saveWorkspace, writeBack_read_of_outside _ _ (.inr (by rw [saveProgress_ownAddr]; omega)), State.saveProgress, setMem_mem,
    Memory.read_writeNat_zero _ _ _ (by omega) (by omega)]

/-- The registers and the predicates are in their slots (Table 1.2). -/
theorem saveWorkspace_registers (s : State) (fh : Bool) :
    let m := (s.saveWorkspace fh).mem
    let ws := s.ownAddr (wsOffset s.tile.csr.wp)
    (∀ r : BitVec 5, r ≠ 0 → m.readWord (ws + 8 * r.toNat) = s.g r)
      ∧ (∀ r : BitVec 4, m.readRow (ws + 0x100 + 64 * r.toNat) = s.v r)
      ∧ m.read (ws + 0x500) = (s.tile.regs.p ||| 1) ∧ m.read (ws + 0x501) = (s.tile.regs.q ||| 1) := by
  have hregs : (s.saveProgress fh).tile.regs = s.tile.regs := by rw [saveProgress_tile]
  have hg := fun r (hr : r ≠ 0) => writeBack_readG (s.saveProgress fh) (wsOffset s.tile.csr.wp) hr
  have hv := writeBack_readV (s.saveProgress fh) (wsOffset s.tile.csr.wp)
  have hp := writeBack_readP (s.saveProgress fh) (wsOffset s.tile.csr.wp)
  have hq := writeBack_readQ (s.saveProgress fh) (wsOffset s.tile.csr.wp)
  simp only [saveProgress_ownAddr, g_congr hregs, v_congr hregs, hregs] at hg hv hp hq
  exact ⟨hg, hv, hp, hq⟩

/-- The slot of g0, CXB and every byte outside the workspace stay. -/
theorem saveWorkspace_read_of_outside (s : State) (fh : Bool) {z : Nat}
    (hz : z < s.ownAddr (wsOffset s.tile.csr.wp) + 8 ∨ s.ownAddr (wsOffset s.tile.csr.wp) + 0x538 ≤ z) :
    (s.saveWorkspace fh).mem.read z = s.mem.read z := by
  rw [State.saveWorkspace, writeBack_read_of_outside _ _ (by rw [saveProgress_ownAddr]; omega), State.saveProgress, setMem_mem,
    Memory.read_writeNat_of_outside _ _ _ _ (by omega), Memory.read_writeWords_of_outside _ _ _ (by simp; omega)]

/-! ### Entry in task mode (R35) -/

/-- The CSRs as the handler finds them. -/
def handlerCsr (c : TileCsrs) (cause : BitVec 8) (value : Word) : TileCsrs :=
  { c with ecause := cause.setWidth 64, eval := value, ewp := c.wp, wp := c.swp, status := handlerStatus c.status }

/-- The halves as the handler finds them: at EVEC, with no A-word, no loop and no repeat. -/
def handlerFront (f : Front) (evec : Word) : Front :=
  { f with
    apc := evec, latch := none, ahead := [], aq := [], rq := [], replay := none, ordered := none,
    skip := false, xtrap := none, ast := .run, xst := .run,
    loop := { lcnt := 0, llen := 0, lact := false, lbeg := 0 },
    rpt := { f.rpt with ract := false, riter := 0, rpos := 0 } }

/-- The handler starts, with the registers of the workspace at SWP. -/
def State.startHandler (s : State) (cause : BitVec 8) (value : Word) : State :=
  let u := ((s.setCsr (handlerCsr s.tile.csr cause value)).loadRegs (wsOffset s.tile.csr.swp)).setFront
    (handlerFront s.tile.front s.tile.csr.evec)
  (u.setPath { u.tile.path with pinned := [], walk := none, walkFail := none }).setPower { u.tile.power with state := .run }

section
variable (s : State) (cause : BitVec 8) (value : Word)

@[simp] theorem startHandler_mem : (s.startHandler cause value).mem = s.mem := by simp [State.startHandler]
@[simp] theorem startHandler_tile_csr : (s.startHandler cause value).tile.csr = handlerCsr s.tile.csr cause value := by
  simp [State.startHandler]
@[simp] theorem startHandler_tile_front : (s.startHandler cause value).tile.front = handlerFront s.tile.front s.tile.csr.evec := by
  simp [State.startHandler]
@[simp] theorem startHandler_tile_matrix : (s.startHandler cause value).tile.matrix = s.tile.matrix := by simp [State.startHandler]
@[simp] theorem startHandler_tile_ports : (s.startHandler cause value).tile.ports = s.tile.ports := by simp [State.startHandler]
@[simp] theorem startHandler_tile_ctx : (s.startHandler cause value).tile.ctx = s.tile.ctx := by simp [State.startHandler]
@[simp] theorem startHandler_tile_eng : (s.startHandler cause value).tile.eng = s.tile.eng := by simp [State.startHandler]
@[simp] theorem startHandler_regs_c : (s.startHandler cause value).tile.regs.c = s.tile.regs.c := by simp [State.startHandler]
@[simp] theorem startHandler_regs_h : (s.startHandler cause value).tile.regs.h = s.tile.regs.h := by simp [State.startHandler]
@[simp] theorem startHandler_regs_acc : (s.startHandler cause value).tile.regs.acc = s.tile.regs.acc := by simp [State.startHandler]
@[simp] theorem startHandler_regs_m : (s.startHandler cause value).tile.regs.m = s.tile.regs.m := by simp [State.startHandler]

/-- The handler's registers are those of its workspace. -/
theorem startHandler_g {r : BitVec 5} (hr : r ≠ 0) :
    (s.startHandler cause value).g r = s.mem.readWord (s.ownAddr (wsOffset s.tile.csr.swp) + 8 * r.toNat) := by
  have hg := loadRegs_g (s.setCsr (handlerCsr s.tile.csr cause value)) (wsOffset s.tile.csr.swp) hr
  rw [g_of_ne_zero _ hr] at hg ⊢
  exact hg

end

/-- Entry gives up what is under way, saves the workspace and starts the handler. -/
theorem enterTrap_eq (s : State) (fh : Bool) (cause : BitVec 8) (value : Word) : s.enterTrap fh cause value =
    (s.dropWait.dropOrdered.leaveGang.saveWorkspace fh).startHandler cause value := rfl

theorem takeTrap_of_task {s : State} (hs : s.sup = false) (hw : s.tile.wait = .idle) (fh : Bool) (cause : BitVec 8) (value : Word) :
    ∃ n p, (s.tile.front.ordered = none → p = s.tile.ports)
      ∧ s.takeTrap fh cause value = ((s.unordered n p).leaveGang.saveWorkspace fh).startHandler cause value := by
  obtain ⟨n, p, hp, hn, hd⟩ := trapTrigger_drop_eq hw cause
  have hn' : (s.setSnap n).sup = false := hs
  refine ⟨n, p, hp, ?_⟩
  rw [State.takeTrap, hn, ← hd]
  simp only [hn', enterTrap_eq]
  rfl

/-! ### A halt in supervisor mode (R36) -/

/-- An association list answers what was put in. -/
theorem assocGet_assocPut_self {α : Type} (k : Nat) (x : α) (l : List (Nat × α)) : assocGet k (assocPut k x l) = some x := by
  induction l with
  | nil => simp [assocPut, assocGet]
  | cons c l ih =>
    obtain ⟨a, b⟩ := c
    by_cases h : a = k <;> simp [assocPut, assocGet, h, ih]

/-- A snapshot latched is the tile's set. -/
theorem latchSnapshot_set (s : State) : assocGet s.snapIndex s.latchSnapshot.hub.snap.sets = some s.snapshotSet :=
  assocGet_assocPut_self ..

theorem takeTrap_of_sup {s : State} (hs : s.sup = true) (hw : s.tile.wait = .idle) (fh : Bool) (cause : BitVec 8) (value : Word) :
    ∃ n p, s.takeTrap fh cause value = ((s.unordered n p).latchSnapshot.setFront { s.tile.front with
      ordered := none, ast := .halted, xst := .halted, latch := none, xtrap := none }).setRes
        { s.tile.res with report := some (cause, value, s.progress fh) } := by
  obtain ⟨n, p, -, hn, hd⟩ := trapTrigger_drop_eq hw cause
  have hn' : (s.setSnap n).sup = true := hs
  refine ⟨n, p, ?_⟩
  rw [State.takeTrap, hn]
  simp only [hn', if_true, State.haltWith, hd]
  rfl

/-! ### What the handler finds -/

/-- The flags of STATUS as the handler finds them: its own mode, DET and CPH as they were, and no gang. -/
theorem startHandler_flags (s : State) (fh : Bool) (cause : BitVec 8) (value : Word) :
    let t := (s.leaveGang.saveWorkspace fh).startHandler cause value
    t.sup = true ∧ t.ie = false ∧ t.dwt = false ∧ t.det = s.det ∧ t.cph = s.cph ∧ t.grole = 0 := by
  intro t
  have ht : t.tile.csr.status = handlerStatus s.leaveGang.tile.csr.status := rfl
  obtain ⟨hmode, hie, hdwt⟩ := handlerStatus_mode s.leaveGang.tile.csr.status
  have hrole : (handlerStatus s.leaveGang.tile.csr.status).extractLsb' 16 2 = 0 := by
    rw [← leaveGang_grole s]
    refine BitVec.eq_of_getLsbD_eq fun i hi => ?_
    rw [State.grole, BitVec.getLsbD_extractLsb', BitVec.getLsbD_extractLsb', getLsbD_handlerStatus _ (by omega) (by omega)]
  simp only [State.sup, State.ie, State.dwt, State.det, State.cph, State.grole, ht]
  refine ⟨hmode, hie, hdwt, ?_, ?_, hrole⟩ <;>
    rw [getLsbD_handlerStatus _ (by omega) (by omega), getLsbD_leaveGang_status _ (by omega)]

/-- The HALF word that a tile in task mode saves as it leaves its gang (Table 1.10). -/
theorem halfWord_leaveGang (s : State) (fh : Bool) : let half := s.leaveGang.halfWord fh
    half.getLsbD 0 = s.sup ∧ half.getLsbD 1 = s.ie ∧ half.getLsbD 2 = s.dwt ∧ half.getLsbD 4 = fh ∧ half.getLsbD 5 = s.det
      ∧ half.getLsbD 6 = s.cph ∧ half.extractLsb' 8 4 = (halfCode s.tile.front.ast).setWidth 4
      ∧ half.extractLsb' 12 4 = (halfCode s.tile.front.xst).setWidth 4 ∧ half.extractLsb' 16 48 = 0 ∧ half.getLsbD 3 = false := by
  have keep : ∀ i < 16, s.leaveGang.tile.csr.status.getLsbD i = s.tile.csr.status.getLsbD i := fun _ => getLsbD_leaveGang_status s
  obtain ⟨h0, h1, h2, h3, h4, h5, h6⟩ := halfWord_flags s.leaveGang fh
  exact ⟨h0.trans (keep 0 (by omega)), h1.trans (keep 1 (by omega)), h2.trans (keep 2 (by omega)), h4, h5.trans (keep 5 (by omega)),
    h6.trans (keep 6 (by omega)), halfWord_ast s.leaveGang fh, halfWord_xst s.leaveGang fh, halfWord_leaveGang_high s fh, h3⟩

/-- Settles O43: in task mode by the steps of entry (`takeTrap_of_task`), whose words are read back one by one; in supervisor mode by
the halt (`takeTrap_of_sup`), whose snapshot set is put under the tile's index. -/
theorem trapEntry : Obligations.TrapEntry := by
  refine ⟨fun s fh cause value hs hw => ?_, fun s fh cause value hs hw => ?_⟩
  · obtain ⟨n, p, hp, ht⟩ := takeTrap_of_task hs hw fh cause value
    obtain ⟨hsup, hie, hdwt, hdet, hcph, hrole⟩ := startHandler_flags (s.unordered n p) fh cause value
    obtain ⟨hapc, hxpc, hloop, hlbeg, hrpt, hhalf⟩ := saveWorkspace_readWord (s.unordered n p).leaveGang fh
    obtain ⟨b0, b1, b2, b4, b5, b6, bast, bxst, bhigh, b3⟩ := halfWord_leaveGang (s.unordered n p) fh
    obtain ⟨hg, hv, hpp, hq⟩ := saveWorkspace_registers (s.unordered n p).leaveGang fh
    have hws : s.ownAddr (s.tile.csr.wp.toNat % 2 ^ 19)
      = (s.unordered n p).leaveGang.ownAddr (wsOffset (s.unordered n p).leaveGang.tile.csr.wp) := rfl
    have hswp : (s.unordered n p).leaveGang.ownAddr (wsOffset (s.unordered n p).leaveGang.tile.csr.swp)
      = s.ownAddr (s.tile.csr.swp.toNat % 2 ^ 19) := rfl
    simp only [ht, startHandler_mem, startHandler_tile_csr, startHandler_tile_front, startHandler_tile_matrix, startHandler_tile_ports,
      startHandler_tile_ctx, startHandler_tile_eng, startHandler_regs_c, startHandler_regs_h, startHandler_regs_acc,
      startHandler_regs_m, saveWorkspace_tile, hws, hapc, hxpc, hloop, hlbeg, hrpt, hhalf]
    exact ⟨rfl, rfl, rfl, rfl, hsup, hie, hdwt, hdet, hcph, hrole, rfl, rfl, rfl, rfl, rfl, rfl, rfl, rfl, rfl, rfl, rfl, rfl, rfl,
      b0.trans hs, b1, b2, b4, b5, b6, bast, bxst, bhigh, b3, hg, hv, hpp, hq,
      saveWorkspace_reserved (s.unordered n p).leaveGang fh, fun _ => saveWorkspace_read_of_outside (s.unordered n p).leaveGang fh,
      fun r hr => by rw [startHandler_g _ _ _ hr, saveWorkspace_ownAddr, saveWorkspace_tile, hswp],
      hp, rfl, rfl, rfl, rfl, rfl, rfl, rfl⟩
  · obtain ⟨n, p, ht⟩ := takeTrap_of_sup hs hw fh cause value
    simp only [ht]
    exact ⟨rfl, rfl, rfl, rfl, rfl, rfl, rfl, s.statusImage false, rfl, latchSnapshot_set (s.unordered n p)⟩

end Sys2Proof.Machine
end

section
/-!
PROOFS. The ALU group with two sources (R90, R91, Table 4.2).
-/

namespace Sys2Proof.Machine

/-! ### The values of Table 4.2 -/

/-- SLT answers by the signed order of bit vectors. -/
theorem bit_toInt_lt (x y : Word) : bit (decide (x.toInt < y.toInt)) = if x.slt y then 1 else 0 := by
  rw [bit, BitVec.slt_eq_decide]

/-- SLTU answers by the unsigned order of bit vectors. -/
theorem bit_toNat_lt (x y : Word) : bit (decide (x.toNat < y.toNat)) = if x.ult y then 1 else 0 := by
  rw [bit, BitVec.ult_eq_decide]

/-- The lesser of two words in an order of their values, whichever of the two is tested: words of equal value are equal. -/
theorem ite_lt_swap {α : Type} [LinearOrder α] {val : Word → α} (hval : Function.Injective val) (x y : Word) :
    (if val y < val x then y else x) = if val x < val y then x else y := by
  obtain h | h | h := lt_trichotomy (val x) (val y)
  · rw [if_pos h, if_neg h.not_gt]
  · rw [hval h]
  · rw [if_pos h, if_neg h.not_gt]

theorem minSigned_eq (x y : Word) : (if y.toInt < x.toInt then y else x) = if x.slt y then x else y := by
  rw [ite_lt_swap fun _ _ => BitVec.eq_of_toInt_eq]
  simp only [BitVec.slt_eq_decide, decide_eq_true_eq]

theorem minUnsigned_eq (x y : Word) : (if y.toNat < x.toNat then y else x) = if x.ult y then x else y := by
  rw [ite_lt_swap BitVec.toNat_injective]
  simp only [BitVec.ult_eq_decide, decide_eq_true_eq]

theorem maxSigned_eq (x y : Word) : (if x.toInt < y.toInt then y else x) = if x.slt y then y else x := by
  simp only [BitVec.slt_eq_decide, decide_eq_true_eq]

theorem maxUnsigned_eq (x y : Word) : (if x.toNat < y.toNat then y else x) = if x.ult y then y else x := by
  simp only [BitVec.ult_eq_decide, decide_eq_true_eq]

/-- The upper half of 128 bits is the value divided by 2^64, rounded down. -/
theorem ofInt_toInt_div_eq_extractLsb' (p : BitVec 128) : BitVec.ofInt 64 (p.toInt / 2 ^ 64) = p.extractLsb' 64 64 := by
  refine BitVec.eq_of_toNat_eq ?_
  rw [BitVec.toNat_ofInt, BitVec.extractLsb'_toNat, Nat.shiftRight_eq_div_pow, BitVec.toInt_eq_toNat_cond]
  split <;> omega

/-- The 128 bits of a product of two sign-extended words hold it exactly. -/
theorem toInt_mul_signExtend (x y : Word) : (x.signExtend 128 * y.signExtend 128).toInt = x.toInt * y.toInt := by
  have hle : x.toInt * y.toInt ≤ 2 ^ 126 := BitVec.toInt_mul_toInt_le
  have hge : -2 ^ 126 ≤ x.toInt * y.toInt := BitVec.le_toInt_mul_toInt
  rw [BitVec.toInt_mul, BitVec.toInt_signExtend_of_le (by decide), BitVec.toInt_signExtend_of_le (by decide),
    Int.bmod_eq_of_le_mul_two (by omega) (by omega)]

/-- MULH: the signed product divided by 2^64 is the upper half of its 128 bits. -/
theorem mulHighSigned_eq (x y : Word) :
    BitVec.ofInt 64 (x.toInt * y.toInt / 2 ^ 64) = (x.signExtend 128 * y.signExtend 128).extractLsb' 64 64 := by
  rw [← toInt_mul_signExtend, ofInt_toInt_div_eq_extractLsb']

/-- MULHU: the product of two words stays below 2^128, so the 128 bits hold it exactly. -/
theorem mulHighUnsigned_eq (x y : Word) :
    BitVec.ofNat 64 (x.toNat * y.toNat / 2 ^ 64) = (x.setWidth 128 * y.setWidth 128).extractLsb' 64 64 := by
  have h : x.toNat * y.toNat < 2 ^ 128 := by
    have hxy := Nat.mul_lt_mul'' x.isLt y.isLt
    rwa [← Nat.pow_add] at hxy
  refine BitVec.eq_of_toNat_eq ?_
  rw [BitVec.extractLsb'_toNat, BitVec.toNat_mul, BitVec.toNat_setWidth_of_le (by decide), BitVec.toNat_setWidth_of_le (by decide),
    Nat.mod_eq_of_lt h, Nat.shiftRight_eq_div_pow, BitVec.toNat_ofNat]

/-- The signed quotient and remainder of R91, the quotient of -2^63 by -1 included, which is -2^63 modulo 2^64. -/
theorem divSigned_eq (x y : Word) :
    divSigned x y = (if y = 0 then BitVec.allOnes 64 else x.sdiv y, if y = 0 then x else x.srem y) := by
  by_cases h : y = 0
  · simp only [divSigned, if_pos h]
  · have hq : BitVec.ofInt 64 (x.toInt.tdiv y.toInt) = x.sdiv y :=
      BitVec.eq_of_toInt_eq (by rw [BitVec.toInt_ofInt, BitVec.toInt_sdiv])
    have hr : BitVec.ofInt 64 (x.toInt.tmod y.toInt) = x.srem y := by rw [← BitVec.toInt_srem, BitVec.ofInt_toInt]
    simp only [divSigned, if_neg h, hq, hr]

/-- The unsigned quotient and remainder of R91. -/
theorem divUnsigned_eq (x y : Word) :
    divUnsigned x y = (if y = 0 then BitVec.allOnes 64 else x / y, if y = 0 then x else x % y) := by
  by_cases h : y = 0
  · simp only [divUnsigned, if_pos h]
  · simp only [divUnsigned, if_neg h, ← BitVec.toNat_udiv, ← BitVec.toNat_umod, BitVec.ofNat_toNat, BitVec.setWidth_eq]

/-! ### The members -/

/-- A member `m` of the group computes `f` of its two sources: an instruction that runs `m` and issues writes that value to gd, and
changes nothing else. -/
theorem alu2_done (m : Guard → BitVec 5 → BitVec 5 → BitVec 5 → State → Out) {f : Word → Word → Word} {i : Instr} {s : State}
    {gd : Guard} {d a b : BitVec 5} {v : Word} (h : s.issuesC gd) (hi : exec i s = m gd d a b s)
    (hm : m gd d a b s = alu2 gd d a b s f) (hv : f (s.g a) (s.g b) = v) : DoneC i s 0 (s.setG d v).tile.regs := by
  refine finishG_done s 0 d v i ?_
  rw [hi, hm, alu2, cWord_on h, begin_g, begin_g, hv]

/-- Settles O1: each member is an `alu2` (`alu2_done`), whose function has the value of Table 4.2. -/
theorem aluGroupResults : Obligations.AluGroupResults := by
  intro s gd d a b h x y n done
  exact ⟨alu2_done execAdd h rfl rfl rfl,
    alu2_done execSub h rfl rfl rfl,
    alu2_done execAnd h rfl rfl rfl,
    alu2_done execOr h rfl rfl rfl,
    alu2_done execXor h rfl rfl rfl,
    alu2_done execAndn h rfl rfl rfl,
    alu2_done execShl h rfl rfl rfl,
    alu2_done execShr h rfl rfl rfl,
    alu2_done execSra h rfl rfl rfl,
    alu2_done execRol h rfl rfl rfl,
    alu2_done execMul h rfl rfl rfl,
    alu2_done execMulh h rfl rfl (mulHighSigned_eq x y),
    alu2_done execMulhu h rfl rfl (mulHighUnsigned_eq x y),
    alu2_done execDiv h rfl rfl (congrArg Prod.fst (divSigned_eq x y)),
    alu2_done execDivu h rfl rfl (congrArg Prod.fst (divUnsigned_eq x y)),
    alu2_done execRem h rfl rfl (congrArg Prod.snd (divSigned_eq x y)),
    alu2_done execRemu h rfl rfl (congrArg Prod.snd (divUnsigned_eq x y)),
    alu2_done execMin h rfl rfl (minSigned_eq x y),
    alu2_done execMax h rfl rfl (maxSigned_eq x y),
    alu2_done execMinu h rfl rfl (minUnsigned_eq x y),
    alu2_done execMaxu h rfl rfl (maxUnsigned_eq x y),
    alu2_done execSlt h rfl rfl (bit_toInt_lt x y),
    alu2_done execSltu h rfl rfl (bit_toNat_lt x y)⟩

end Sys2Proof.Machine
end
